-- ==== Sys2Proof/Word.lean ====
section
/-!
DEFINITION. The word types of the hub: 32-bit registers (R20), 64-bit instruction words (R65), bytes.
-/
namespace Sys2Proof

/-- A control-space register (R20). -/
abbrev Word := BitVec 32

/-- A Turner word or general register (R66). -/
abbrev Word64 := BitVec 64

/-- A byte of memory or of a frame. -/
abbrev Byte := BitVec 8

end Sys2Proof
end

