-- ==== Sys2Proof/Syntax.lean ====
section
/-!
DEFINITION. The commands the hub takes: one constructor of Instr per row of the table of operations and events,
with the data of the event as operands. The table gives no bits to any row.
-/
namespace Sys2Proof

/-- The two management ports M0 and M1 (R20, R99). -/
inductive Port where
  | m0 | m1
deriving DecidableEq, Repr

/-- The agents that own high-word latches (R20): the management ports, the Turner threads, the docks' hosts. -/
inductive Reader where
  | port (p : Port)
  | thread (n : Fin 4)
  | host (d : Fin 64)
deriving DecidableEq, Repr

/-- The header of a tunnel packet (R152). -/
structure Hdr where
  type : BitVec 4
  tid : BitVec 12
  vc : BitVec 3
  keyEn : Bool
  kslot : BitVec 10
  kind : BitVec 4
  tag : BitVec 12
  flow : BitVec 16
  dev : BitVec 10
  mark : Bool
  red : Bool
  /-- Bits [43:40], 0 from a partner that keeps R152. -/
  rsv : BitVec 4
  pn : BitVec 40
deriving DecidableEq, Repr

/-- A tunnel packet: header, payload of at most 512 bytes, and the 16-byte tag that follows an encrypted one (R153, R179). -/
structure TunPacket where
  hdr : Hdr
  payload : List Byte
  gcmTag : List Byte
deriving DecidableEq, Repr

/-- Kinds of transaction layer packets (PCI Express Base 6.0). -/
inductive TlpKind where
  | memRd | memRdLk | memWr | ioRd | ioWr | cfgRd | cfgWr | atomic | msg | cpl | cplLk
deriving DecidableEq, Repr

/-- A transaction layer packet by its fields (R229). `len` counts the bytes requested or carried, `byteCount` those that a
completion leaves to deliver including its own; `target` is the bus, device and function of a configuration request. -/
structure Tlp where
  kind : TlpKind
  type1 : Bool
  reqId : BitVec 16
  tag : BitVec 14
  addr : BitVec 64
  len : Nat
  firstBe : BitVec 4
  lastBe : BitVec 4
  data : List Byte
  status : BitVec 3
  byteCount : Nat
  target : BitVec 16
  msgCode : BitVec 8
  attr : BitVec 3
  /-- Address Type of a request: 0 = untranslated. -/
  addrType : BitVec 2 := 0
deriving DecidableEq, Repr

/-- A configuration request (R254): Type 1 or Type 0, bus, device, function, register word, bytes enabled. -/
structure ConfigReq where
  type1 : Bool
  bus : BitVec 8
  dev : BitVec 5
  fn : BitVec 3
  reg : BitVec 10
  write : Bool
  be : BitVec 4
  value : BitVec 32
  reqId : BitVec 16
  tag : BitVec 14
deriving DecidableEq, Repr

/-- A SuperSpeed packet (R230): its header DW0-DW2, DW0 in bits [31:0], and its data. -/
structure UsbPacket where
  header : BitVec 96
  data : List Byte
deriving DecidableEq, Repr
/-- The outcome of one USB 2.0 bus transaction (R359): port, RESULT, whether the data toggle is 1, data of an IN. -/
structure TtResult where
  port : Fin 16
  result : BitVec 3
  toggle : Bool
  data : List Byte
deriving DecidableEq, Repr

/-- What a sink reports (R328, R329): bit r of `rates` = it takes LINK_RATE r; DSC; bit 3r + log2 n of `ok` = a link
training at rate r on n lanes passes; DisplayPort lanes it reports failed; the level or preset it asks for on lane k in
bits 4k to 4k + 3. -/
structure SinkReport where
  rates : BitVec 4
  dsc : Bool
  ok : BitVec 12
  failed : BitVec 4
  levels : BitVec 16
deriving DecidableEq, Repr

/-- What follows an AUX request (R331): an acknowledgement with the bytes read, NACK, AUX_DEFER, or nothing for 400 µs. -/
inductive AuxReply where
  | ack (data : List Byte)
  | nack
  | defer
  | missing
deriving DecidableEq, Repr

/-- A region that fails March C− (R433): its group, its failing rows, and whether the repaired region fails again. -/
structure RegionFail where
  group : Fin 53
  rows : Nat
  again : Bool
deriving DecidableEq, Repr

/-- What a word of state memory holds (R430). -/
inductive StateEntry where
  | record
  | tag (n : Fin 4096)
  | queue (q : Fin 4096)
  | device (k : Fin 1024)
deriving DecidableEq, Repr

/-- The SRAM word that an error strikes, and what it holds there (R427-R430): a cask with the packet whose cell it is; instruction
memory with the thread that fetches it; a command ring; the staging store, a record of a handle; the snapshot buffer, the mark
records or the fault log; a display buffer with its layer and the pixel it feeds; state memory of group G44 + g. -/
inductive SramSite where
  | cask (k : Fin 256) (pkt : Option Nat)
  | imem (bank : Fin 4) (th : Option (Fin 4))
  | rings (bank : Fin 4) (ring : Option (Fin 8))
  | staging (bank : Fin 4) (record : Option (Fin 8 × Nat))
  | snapshot (bank : Fin 2)
  | marks (mark : Option Nat)
  | faultLog (record : Option (Fin 2048))
  | display (o : Fin 8) (layer : Option (Fin 8 × Nat))
  | state (g : Fin 9) (bank : Fin 16) (entry : Option StateEntry)
deriving DecidableEq, Repr

/-- A management link as it comes up: its port and the rate code of its link (R28, R100). -/
structure MgmtLink where
  port : Port
  rate : BitVec 4
deriving DecidableEq, Repr

/-- An Ethernet link as it comes up: its port and its rate in the order of R26. -/
structure EthLink where
  port : Fin 4
  rate : Fin 3
deriving DecidableEq, Repr

/-- Where a comma lies on its lane: the number of its codeword (R147) and the instant, in ps, at which it arrives (R148). -/
structure CommaAt where
  codeword : Nat
  arrival : Nat
deriving DecidableEq, Repr

/-- Errors that no row of their own reports (R162, R206, R207, R470): of a lane, with the corrections they count, and of a trunk's lane a
replay that it caused; an entry to Recovery
from L0 or a SuperSpeed Recovery; a loss of L0 while present or an entry to SS.Inactive; an Ethernet local fault. -/
inductive ErrCause where
  | laneCorr (n : Nat)
  | laneUncorr
  | laneLockLoss
  | laneTrainFail
  | replay
  | recovery
  | linkLoss
  | localFault
deriving DecidableEq, Repr

/-- What the sentry samples in Doze (R512, R373): PWC16–PWC23 with DET# low, ports with a USB line event, feed voltages in mV,
junction temperature, output voltages of the channels in mV, trunks with energy on physical lane 0. -/
structure SentrySample where
  det : BitVec 8
  usb : BitVec 16
  feedA : BitVec 16
  feedB : BitVec 16
  celsius : Int
  volts : List (BitVec 16)
  trunks : BitVec 8
deriving DecidableEq, Repr

/-- The packet error code of an SMBus transaction (R520): not sent, valid, or not valid. -/
inductive Pec where
  | none
  | good
  | bad
deriving DecidableEq, Repr


/-- The commands of the hub: one constructor per row of the table of operations and events, in the order of the table but
for the rows without operands, which stand last. -/
inductive Instr where
  /-- TICK_EDGE (R30): Hub time crosses a multiple of 125,000 ns, TIM_EDGES advances and a new tick with its phases begins. -/
  | tickEdge (clocks : Nat) (unfinished : BitVec 5) (usb : List TtResult)
  /-- HARVESTER_LATCH (R50): At the start of P2 the Harvester latches every counter, slot counter and queue sample in one clock, or skips the tick while the previous copy runs. -/
  | harvesterLatch (copyRunning : Bool) (badWord : Bool)
  /-- EYE_SCAN_WINDOW (R201): The offset samplers compare during the hardware-timed P3 window of each tick. -/
  | eyeScanWindow (lane : Fin 98) (counts : List Word)
  /-- BACKGROUND_TEST (R432): In each tick's test window one region of each enabled bank group is saved, tested with March C- and restored. -/
  | backgroundTest (fails : List RegionFail)
  /-- ARM_STEP (R41): Writing 1 to TIM_STEP_CMD.ARM arms a step after checking that the target is a multiple of 125,000 ns. -/
  | armStep (port : Port) (t : Nat)
  /-- CANCEL_STEP (R42): Writing 0 to TIM_STEP_CMD.ARM cancels an armed step. -/
  | cancelStep (port : Port)
  /-- FRAME_START_INSTANT (R53): Frame-start reference FRn reaches its next instant. -/
  | frameStartInstant (n : Fin 8)
  /-- TIME_PULSE (R54): A time port drives its pulse at each multiple of its period. -/
  | timePulse (n : Fin 2)
  /-- CODE_FRAME (R55): A Manchester-coded time code frame starts 2 µs after each pulse. -/
  | codeFrame (n : Fin 2)
  /-- DISCIPLINE_WINDOW (R56): At the end of each TIME1 window the loop measures the offset, updates the rate and its LOCKED, HOLDOVER and RANGE state. -/
  | disciplineWindow (offset : Int) (inputPresent : Bool)
  /-- SYNC (R60): The grandmaster sends Sync and its Follow_Up on each enabled Ethernet port every 2^SYNC_LOG s. -/
  | sync (t : Nat)
  /-- ANNOUNCE (R60): The grandmaster sends Announce every 2^ANNOUNCE_LOG s. -/
  | announce (t : Nat)
  /-- DELAY_REQ (R58): A received Delay_Req is answered with Delay_Resp. -/
  | delayReq (eth : Fin 4) (seqId : BitVec 16) (requester : BitVec 80) (t : Nat)
  /-- FOREIGN_ANNOUNCE (R58): An Announce from another clock sets PTP_FOREIGN_MASTER and changes nothing else. -/
  | foreignAnnounce (eth : Fin 4) (identity : BitVec 64)
  /-- PTP_DISCARD (R58): An unsupported PTP message arriving is discarded and counted. -/
  | ptpDiscard (eth : Fin 4)
  /-- AUDIO_FEEDBACK (R63): At the closing edge of a service interval an audio slot computes its dithered feedback value. -/
  | audioFeedback (n : Fin 8)
  /-- TOKEN_SYNC (R177): The hub sends one TOKEN_SYNC per tick on each ACTIVE trunk, stamped with its departure time. -/
  | tokenSync (trunk : Fin 8) (t : Nat)
  /-- TOKEN_REQ (R177): A received TOKEN_REQ is timestamped, its reported offset and delay stored, and answered with TOKEN_RESP. -/
  | tokenReq (trunk : Fin 8) (token : BitVec 16) (offset : Word) (delay : Word) (t : Nat)
  /-- LOW_WORD_READ (R20): A read of the low word of a pair or group loads the reading agent's high-word latch. -/
  | lowWordRead (agent : Reader) (addr : Word) (t : Nat)
  /-- REGISTER_WRITE (R18): A write to a register without a row of its own takes effect by the field access codes. -/
  | registerWrite (port : Port) (addr : Word) (value : Word) (t : Nat)
  /-- MMIO_SH_WRITE (R117): A direct MMIO write to an SH register forms an implicit one-write transaction, or is discarded when its record is in an open scope. -/
  | mmioShWrite (port : Port) (addr : Word) (value : Word) (t : Nat)
  /-- CR_TAIL_WRITE (R75): The manager writes TRN_CRn_TAIL, making new command words available to fetch. -/
  | crTailWrite (port : Port) (ring : Fin 8) (value : Word)
  /-- CC_HEAD_WRITE (R84): The manager advances TRN_CCn_HEAD, releasing a held record and the ring's fetching. -/
  | ccHeadWrite (port : Port) (ring : Fin 8) (value : Word)
  /-- INSTRUCTION_BUDGET (R78): A command that has executed 65,536 instructions ends with TIMEOUT. -/
  | instructionBudget (th : Fin 4)
  /-- WAIT_TIMEOUT (R78): A WAIT.TICK or FENCE still waiting at edge TICKS + 1 ends its command with TIMEOUT. -/
  | waitTimeout (ring : Fin 8) (tag : BitVec 8)
  /-- RING_RESET (R85): Setting TRN_CRn_CTL.RESET discards unfetched words and aborts waiting and mid-body commands of the ring. -/
  | ringReset (port : Port) (ring : Fin 8)
  /-- RING_RESET_DONE (R85): Once no command of the ring is outstanding, HEAD, TAIL and ERR clear and RESET clears. -/
  | ringResetDone (ring : Fin 8)
  /-- CC_RESET (R85): TRN_CCn_CFG.RESET zeroes the completion ring's pointers and sets PHASE to 1 when no command is outstanding. -/
  | ccReset (port : Port) (ring : Fin 8)
  /-- RUN_STOP (R103): Writing 0 to TRN_CTL.RUN stops fetching and tick programs and aborts waiting and running commands. -/
  | runStop (port : Port)
  /-- RUN_START (R103): Writing 1 to TRN_CTL.RUN lets Turner fetch and run again. -/
  | runStart (port : Port)
  /-- TICK_PROGRAM_RUN (R96): After P0 the tick programs of a thread start in index order, skipping any still running. -/
  | tickProgramRun (th : Fin 4)
  /-- TP_BUDGET (R98): A tick program run reaching its BUDGET ends with TIMEOUT and sets TP_BUDGET. -/
  | tpBudget (th : Fin 4)
  /-- MGMT_LINK_DOWN (R100): A management port's link going down holds its MSI-X and releases its semaphores. -/
  | mgmtLinkDown (port : Port)
  /-- MGMT_LINK_UP (R100): A management link returning sends each held vector once. -/
  | mgmtLinkUp (link : MgmtLink)
  /-- SEM_TAKE_READ (R101): A read of TRN_SEM_TAKEn takes the semaphore for the reading port when free or already owned. -/
  | semTakeRead (port : Port) (n : Fin 32)
  /-- SEM_GIVE_WRITE (R101): A write of 1 to TRN_SEM_GIVEn releases the semaphore for its owner. -/
  | semGiveWrite (port : Port) (n : Fin 32)
  /-- SEM_BREAK_WRITE (R102): A write to TRN_SEM_BREAK releases the named semaphores whatever their owner and posts SEM_BREAK. -/
  | semBreakWrite (port : Port) (mask : Word)
  /-- NOP (R88): Does nothing. -/
  | nop (th : Fin 4)
  /-- WAIT_TICK (R90): Starts waiting for n further tick edges. -/
  | waitTick (th : Fin 4)
  /-- WAIT_TICK_END (R90): The n-th edge after a WAIT.TICK ends it with the tick number. -/
  | waitTickEnd (ring : Fin 8) (tag : BitVec 8)
  /-- FENCE (R90): Starts waiting for the ring, port and apply conditions selected in its operand. -/
  | fence (th : Fin 4)
  /-- FENCE_PASS (R90): A FENCE whose conditions have all come to hold completes with the vintage. -/
  | fencePass (ring : Fin 8) (tag : BitVec 8)
  /-- SIGNAL (R91): Sends an MSI-X on the owning port or posts a TURNER_SIGNAL event to a dock. -/
  | signal (th : Fin 4)
  /-- MOV (R89): Sets a general register. -/
  | mov (th : Fin 4)
  /-- ALU (R89): Computes an arithmetic or logic function into a general register. -/
  | alu (th : Fin 4)
  /-- BR (R89): Jumps by an offset when its condition holds. -/
  | br (th : Fin 4)
  /-- HALT_MODE_0 (R92): Ends the command with OK and result g1. -/
  | haltMode0 (th : Fin 4)
  /-- HALT_MODE_1 (R92): Stops Turner as a write of 0 to RUN and ends the command. -/
  | haltMode1 (th : Fin 4)
  /-- HALT_MODE_2 (R92): With the key 0xC0DE starts a software reset. -/
  | haltMode2 (th : Fin 4)
  /-- CSR_RD (R93): Reads control space into a register. -/
  | csrRd (th : Fin 4) (t : Nat)
  /-- CSR_WR (R93): Writes control space at once, or stages an SH record. -/
  | csrWr (th : Fin 4) (t : Nat)
  /-- CSR_RMW (R93): Reads, masks and writes or stages a control-space register under arbiter hold. -/
  | csrRmw (th : Fin 4) (t : Nat)
  /-- TX_BEGIN (R105): Opens a transaction handle with a scope that must not overlap open transactions. -/
  | txBegin (th : Fin 4)
  /-- TX_COMMIT (R109): Waits for staging into the transaction to finish and submits it to validation. -/
  | txCommit (th : Fin 4)
  /-- TX_ABORT (R107): Discards an open transaction's records and frees its handle. -/
  | txAbort (th : Fin 4)
  /-- TX_STATUS (R88): Returns the state, owner and staged count of a transaction. -/
  | txStatus (th : Fin 4)
  /-- VALIDATION (R118): A committed transaction is checked against the projected configuration and accepted or failed. -/
  | validation (t : Nat) (badRecord : Option Nat)
  /-- LIFETIME_EXPIRY (R106): An open transaction whose lifetime ends is aborted as by a forced TX.ABORT. -/
  | lifetimeExpiry (h : Fin 8)
  /-- DELIVERY (R122): In P0 the next accepted transaction's records are sent to the shadow copies of their blocks. -/
  | delivery (badRecord : Option Nat)
  /-- REKEY (R132): Writing 1 to TRN_DIGEST_CTL.REKEY starts digest recomputation under the new key. -/
  | rekey (port : Port)
  /-- SLICE_SEL_WRITE (R136): Writing TRN_SLICE_SEL latches the selected dock's slice vintage and digest for the writer. -/
  | sliceSelWrite (port : Port) (value : Word)
  /-- TUN_OPEN (R221): Stages a tunnel end's entry. -/
  | tunOpen (th : Fin 4)
  /-- TUN_CLOSE (R223): Stages a tunnel end's entry back to reset. -/
  | tunClose (th : Fin 4)
  /-- TUN_ROUTE (R222): Stages the route of a tunnel end. -/
  | tunRoute (th : Fin 4)
  /-- TUN_MOVE (R224): Re-homes a trunk end to another trunk through an internal transaction. -/
  | tunMove (th : Fin 4)
  /-- MOVE_GRACE_END (R224): After MOVE_GRACE edges packets on the old trunk are no longer accepted for the moved end. -/
  | moveGraceEnd (trunk : Fin 8) (tid : BitVec 12)
  /-- MOVE_COMPLETE (R224): The last old packet leaves and is acknowledged, held packets are released and TUN.MOVE completes OK. -/
  | moveComplete (trunk : Fin 8) (tid : BitVec 12)
  /-- MOVE_TIMEOUT (R225): A move not drained within 16 edges discards old packets, releases held ones and completes TIMEOUT. -/
  | moveTimeout (trunk : Fin 8) (tid : BitVec 12)
  /-- BW_ALLOT (R314): Stages a dock or class weight at an egress port. -/
  | bwAllot (th : Fin 4)
  /-- SHP_SET (R320): Stages a queue or dock shaper and its credit initialisation. -/
  | shpSet (th : Fin 4)
  /-- POL_SET (R321): Stages a policer. -/
  | polSet (th : Fin 4)
  /-- Q_MAP (R306): Stages a queue's mapping to a port, dock and class. -/
  | qMap (th : Fin 4)
  /-- DSP_LAYER (R337): Stages a display layer. -/
  | dspLayer (th : Fin 4)
  /-- DSP_TIMING (R341): Stages an output's timing. -/
  | dspTiming (th : Fin 4)
  /-- DSP_CHECK (R348): Stages a check window. -/
  | dspCheck (th : Fin 4)
  /-- USB_ASSIGN (R355): Stages a USB port assignment to a dock's virtual port. -/
  | usbAssign (th : Fin 4)
  /-- EPM_CARVE (R365): Stages an endpoint-memory buffer for a dock. -/
  | epmCarve (th : Fin 4)
  /-- VDK_CREATE (R376): Stages creation of a dock with its mask and allowances. -/
  | vdkCreate (th : Fin 4)
  /-- VDK_DESTROY (R384): Closes a dock's gates, discards its traffic and frees it through an internal transaction. -/
  | vdkDestroy (th : Fin 4)
  /-- VDK_RESIZE (R380): Stages a new trunk mask or allowances for a dock. -/
  | vdkResize (th : Fin 4)
  /-- RACK_FREEZE (R385): Closes a running dock's ingress gates and starts the freeze grace. -/
  | rackFreeze (th : Fin 4)
  /-- GRACE_END (R387): At the second edge after freeze start every item of the dock is settled and the dock becomes frozen. -/
  | graceEnd (dock : Fin 64)
  /-- RACK_SAVE (R389): Starts copying a frozen dock's image, encrypted, to hub memory. -/
  | rackSave (th : Fin 4)
  /-- SAVE_COMPLETE (R389): The image copy ends and RACK.SAVE completes with its length. -/
  | saveComplete (dock : Fin 64) (uncorr : Bool)
  /-- RACK_RESTORE (R393): Starts reading an image into a free or frozen dock. -/
  | rackRestore (th : Fin 4)
  /-- IMAGE_CHECKED (R394): A read image that passes its checks commits the restore's internal transaction. -/
  | imageChecked (dock : Fin 64) (uncorr : Bool)
  /-- RACK_THAW (R397): Commits the thaw of a frozen dock, reissuing recorded requests at switch-over. -/
  | rackThaw (th : Fin 4)
  /-- KEY_GRAFT (R411): Queues derivation of a child key into a slot. -/
  | keyGraft (th : Fin 4)
  /-- KEY_LOAD (R415): Queues loading of a wrapped blob into a slot. -/
  | keyLoad (th : Fin 4)
  /-- KEY_WRAP (R414): Queues writing of a slot's wrapped blob. -/
  | keyWrap (th : Fin 4)
  /-- VAULT_OP_COMPLETE (R411): A queued graft, load or wrap finishes and completes its command. -/
  | vaultOpComplete (uncorr : Bool)
  /-- KEY_KILL (R421): Erases a slot and raises its GEN. -/
  | keyKill (th : Fin 4)
  /-- KEY_BIND (R417): Stages a key slot binding for a tunnel end. -/
  | keyBind (th : Fin 4)
  /-- CNT_SELECT (R453): Stages a counter's event and filter. -/
  | cntSelect (th : Fin 4)
  /-- CNT_ARM (R456): Arms, disarms or clears a counter and its chained counters. -/
  | cntArm (th : Fin 4)
  /-- MARK_SET (R459): Stages an ingress port's packet-mark rate. -/
  | markSet (th : Fin 4)
  /-- MEM_COPY (R88): Starts a copy between hub memory addresses on a copy channel. -/
  | memCopy (th : Fin 4)
  /-- MEM_FILL (R88): Starts a fill of hub memory with a pattern on a copy channel. -/
  | memFill (th : Fin 4)
  /-- COPY_COMPLETE (R88): A copy or fill ends and completes its command. -/
  | copyComplete (ring : Fin 8) (tag : BitVec 8) (uncorr : Bool)
  /-- LANE_RETIRE (R173): Retires a lane, gracefully by handshake on a trunk or at once. -/
  | laneRetire (th : Fin 4)
  /-- LANE_SCAN (R199): Starts an eye scan of a lane. -/
  | laneScan (th : Fin 4)
  /-- SCAN_END (R202): A scan finishes or ends early and its result is written. -/
  | scanEnd (lane : Fin 98)
  /-- LANE_LOOP (R204): Sets a lane's loop mode. -/
  | laneLoop (th : Fin 4)
  /-- PATTERN_CLEAR (R205): Writing LANE_PAT_CFG.CLEAR zeroes the checker counts. -/
  | patternClear (port : Port) (lane : Fin 98)
  /-- RES_RESTORE (R477): Starts the test of a retired resource. -/
  | resRestore (th : Fin 4)
  /-- RESTORE_TEST_END (R477): A restore test ends and returns the resource or leaves it retired. -/
  | restoreTestEnd (cls : Fin 9) (index : BitVec 12) (pass : Bool)
  /-- PWC_ON (R505): Commands an e-fuse channel on. -/
  | pwcOn (th : Fin 4)
  /-- PWC_OFF (R505): Commands an e-fuse channel off. -/
  | pwcOff (th : Fin 4)
  /-- PWR_STATE_ACTIVE (R506): Requests the Active power state. -/
  | pwrStateActive (th : Fin 4)
  /-- PWR_STATE_IDLE (R507): Requests the Idle power state. -/
  | pwrStateIdle (th : Fin 4)
  /-- PWR_STATE_DOZE (R508): Starts Doze entry, saving state to the Doze region and powering down. -/
  | pwrStateDoze (th : Fin 4)
  /-- PWR_STATE_OFF (R511): Enters Off. -/
  | pwrStateOff (th : Fin 4)
  /-- SEM_TAKE (R101): Takes a semaphore for the owning port. -/
  | semTake (th : Fin 4)
  /-- SEM_GIVE (R101): Releases a semaphore owned by the port. -/
  | semGive (th : Fin 4)
  /-- COMMA (R147): A received comma block is checked, updating comma lock and lane deskew. -/
  | comma (trunk : Fin 8) (k : Fin 4) (body : BitVec 256) (mark : CommaAt)
  /-- COMMA_TIMEOUT (R147): No comma within 4,112 codewords loses comma lock. -/
  | commaTimeout (trunk : Fin 8) (k : Fin 4)
  /-- STAVE_RECEIVE (R161): A received stave is checked, its ACK, NAK and credit fields used and a DATA stave accepted or refused. -/
  | staveReceive (trunk : Fin 8) (header : BitVec 64) (body : List (BitVec 64)) (wrong : List Nat)
  /-- REPLAY_TIMER (R162): No ACK progress for TIMER_NS starts a replay. -/
  | replayTimer (trunk : Fin 8)
  /-- STAVE_TRANSMIT (R159): The sender sends the next stave by VC priority and credit. -/
  | staveTransmit (trunk : Fin 8)
  /-- TS1 (R164): A received TS1 advances negotiation. -/
  | ts1 (trunk : Fin 8) (u0 : BitVec 64) (u1 : BitVec 64)
  /-- TS2 (R164): A received TS2 confirms the chosen rate and lanes. -/
  | ts2 (trunk : Fin 8) (u0 : BitVec 64)
  /-- EQ_REQ (R187): A received EQ_REQ is clipped, applied and answered with EQ_ACK. -/
  | eqReq (trunk : Fin 8) (u0 : BitVec 64)
  /-- EQ_ACK (R165): A received EQ_ACK reports the partner's coefficients. -/
  | eqAck (trunk : Fin 8) (u0 : BitVec 64)
  /-- EQ_DONE (R165): A received EQ_DONE completes equalisation when both sides are done. -/
  | eqDone (trunk : Fin 8)
  /-- CREDIT (R157): A received CREDIT records the partner's credit for a VC. -/
  | credit (trunk : Fin 8) (u0 : BitVec 64)
  /-- READY (R164): A received READY completes CONFIRM and enters ACTIVE. -/
  | ready (trunk : Fin 8)
  /-- TRAINING_TIMEOUT (R164): A link state timing out returns the trunk to DETECT. -/
  | trainingTimeout (trunk : Fin 8)
  /-- LOCK_WINDOW_END (R164): 2 ms after the first lock the link deskews and goes to NEGOTIATE. -/
  | lockWindowEnd (trunk : Fin 8)
  /-- SWITCH_IDLE_END (R164): After 10 µs of idle in SWITCH the trunk starts its stream at the chosen rate. -/
  | switchIdleEnd (trunk : Fin 8)
  /-- RECOVER (R166): A received RECOVER enters or completes RECOVERY and sets the replay point. -/
  | recover (trunk : Fin 8) (u0 : BitVec 64)
  /-- IDLE_TIMER (R168): After AFTER_US without traffic the hub sends IDLE_REQ. -/
  | idleTimer (trunk : Fin 8)
  /-- IDLE_REQ (R168): A received IDLE_REQ is answered with IDLE_ACK. -/
  | idleReq (trunk : Fin 8)
  /-- IDLE_ACK (R168): An IDLE_ACK exchange sends 16 NULL staves and enters IDLE. -/
  | idleAck (trunk : Fin 8) (u0 : BitVec 64)
  /-- FAST_EXIT (R169): The hub leaves IDLE by sending a training burst. -/
  | fastExit (trunk : Fin 8)
  /-- ENERGY_DETECT (R198): Energy detected on an idle lane starts the hub's own burst. -/
  | energyDetect (lane : Fin 98)
  /-- TOKEN_WAKE (R170): Every TOKEN_TICKS edges in IDLE the hub leaves idle to send a time token. -/
  | tokenWake (trunk : Fin 8)
  /-- RETIRE_REQ (R171): A received RETIRE_REQ is acknowledged with a new stripe mask. -/
  | retireReq (trunk : Fin 8) (u0 : BitVec 64)
  /-- RETIRE_ACK (R171): A received RETIRE_ACK confirms the hub's request. -/
  | retireAck (trunk : Fin 8) (u0 : BitVec 64)
  /-- RETURN_REQ (R171): A received RETURN_REQ is accepted or refused. -/
  | returnReq (trunk : Fin 8) (u0 : BitVec 64) (settled : Bool)
  /-- RETURN_ACK (R175): A received RETURN_ACK lets the lane join or leaves it out. -/
  | returnAck (trunk : Fin 8) (u0 : BitVec 64)
  /-- REQ_REPEAT (R171): An unacknowledged stripe request is repeated every 1 µs, up to 10 times. -/
  | reqRepeat (trunk : Fin 8)
  /-- STRIPE_SWITCH (R171): At the target COMMA_NO both ends deal staves over the new stripe set. -/
  | stripeSwitch (trunk : Fin 8)
  /-- RETURN_TIMEOUT (R175): No RETURN_ACK within 20 ms leaves the lane out and sets LANE_FAIL. -/
  | returnTimeout (trunk : Fin 8)
  /-- KEY_GRACE_END (R181): After TRK_KEY_GRACE edges the previous slot is no longer accepted. -/
  | keyGraceEnd (sp : Fin 24) (tid : BitVec 12)
  /-- TAP_LIMIT (R191): A tap at a range limit for 1 ms sets TAP_LIMIT. -/
  | tapLimit (lane : Fin 98)
  /-- LANE_HARD_FAULT (R208): A hard detection retires a lane at once. -/
  | laneHardFault (lane : Fin 98)
  /-- TUNNEL_PACKET (R218): A tunnel packet entering a switch port is checked, looked up and routed. -/
  | tunnelPacket (sp : Fin 24) (pkt : TunPacket)
  /-- DISCARD_TIMER (R268): A tag in discard state is freed after DISCARD edges. -/
  | discardTimer (tag : BitVec 12)
  /-- CPL_TIMEOUT (R269): A tag held for CPL_TIMEOUT edges is freed without completion. -/
  | cplTimeout (tag : BitVec 12)
  /-- HANDLE_RETURN (R242): A freed device handle returns to the pool 16 edges later once no tag names it. -/
  | handleReturn (h : Fin 1024)
  /-- ETHERNET_FRAME (R243): A frame from an Ethernet port is classified to docks and learned. -/
  | ethernetFrame (eth : Fin 4) (frame : List Byte) (fcsOk : Bool)
  /-- STATION_AGE (R244): A station not seen for ETH_AGE × 8,000 edges is freed. -/
  | stationAge (h : Fin 1024)
  /-- TIME_QUERY (R232): A time query is answered with a reply. -/
  | timeQuery (trunk : Fin 8) (tid : BitVec 12) (cookie : BitVec 64) (t : Nat)
  /-- HELLO (R235): A host HELLO is answered with HELLO, NOTICEs and DOCK_STATEs. -/
  | hello (trunk : Fin 8) (u0 : BitVec 64)
  /-- FENCE_ACK (R236): A host FENCE_ACK is recorded toward the end of a fence. -/
  | fenceAck (trunk : Fin 8) (u0 : BitVec 64)
  /-- CONFIG_REQUEST (R254): A configuration request is routed or answered by the virtual switch. -/
  | configRequest (dock : Fin 64) (req : ConfigReq)
  /-- DEVICE_TLP (R256): A TLP from a device on Pn is routed by the virtual switch rules. -/
  | deviceTlp (p : Fin 8) (tlp : Tlp)
  /-- DOORBELL (R248): A host write to HF_DBk stores the value, sets pending bits and posts a DOORBELL event. -/
  | doorbell (dock : Fin 64) (k : Fin 8) (value : Word)
  /-- EVR_CTL_WRITE (R251): A host write to HF_EVR_CTL enables or disables the event ring after checks. -/
  | evrCtlWrite (dock : Fin 64) (value : Word)
  /-- EVR_BASE_WRITE (R251): A host write to HF_EVR_BASE takes effect only while the ring is disabled. -/
  | evrBaseWrite (dock : Fin 64) (high : Bool) (value : Word)
  /-- EVR_HEAD_WRITE (R251): A host write to HF_EVR_HEAD advances its read point if in range. -/
  | evrHeadWrite (dock : Fin 64) (value : Word)
  /-- MRDLK (R257): A locked memory read takes or uses the port's bridge semaphore. -/
  | mrdlk (dock : Fin 64) (tlp : Tlp)
  /-- UNLOCK (R258): An Unlock from the owner releases the bridge semaphore. -/
  | unlock (dock : Fin 64) (reqId : BitVec 16)
  /-- LOCK_BREAK (R259): A semaphore held 8 edges is broken. -/
  | lockBreak (p : Fin 8)
  /-- PREFETCH_EXPIRY (R261): A prefetch entry is discarded at the second edge after filling. -/
  | prefetchExpiry (p : Fin 8)
  /-- PCIE_LINK_UP (R241): A port's Data Link Layer up makes its device route entry valid. -/
  | pcieLinkUp (p : Fin 8) (rate : BitVec 4) (width : BitVec 4)
  /-- PCIE_LINK_DOWN (R273): A port leaving L0 ends its requests, locks and prefetch buffers. -/
  | pcieLinkDown (p : Fin 8)
  /-- PACKET_ENTRY (R279): A packet's last cell written enters the switch core, is policed and joins its VOQ. -/
  | packetEntry (sp : Fin 24)
  /-- BARREL_WRITE (R293): An open barrel full or 2 µs old is written to the cellar. -/
  | barrelWrite (q : Fin 4096)
  /-- BARREL_READ (R294): A written barrel is read back into the drain reserve. -/
  | barrelRead (sp : Fin 24) (uncorr : Bool)
  /-- FENCE_START (R300): A map change starts a fence, sending FENCE and holding moved buckets. -/
  | fenceStart (dock : Fin 64)
  /-- FENCE_END (R301): A fence ends when drained and acknowledged, and the new map takes effect. -/
  | fenceEnd (dock : Fin 64)
  /-- FENCE_TIMEOUT (R301): A fence reaching TIMEOUT ends, discarding old-member packets. -/
  | fenceTimeout (dock : Fin 64)
  /-- PACKET_SELECT (R315): A scheduled port selects its next packet down the tree by virtual time. -/
  | packetSelect (sp : Fin 24)
  /-- PAUSE_FRAME (R311): A received PAUSE frame stops an Ethernet port for its quanta. -/
  | pauseFrame (eth : Fin 4) (quanta : BitVec 16)
  /-- PAUSE_END (R311): The pause time ends and the port may send again. -/
  | pauseEnd (eth : Fin 4)
  /-- HPD_RISE (R328): HPD rising starts link training of an output. -/
  | hpdRise (o : Fin 8) (sink : SinkReport)
  /-- HPD_UNPLUG (R330): HPD low for 2 ms stops the output. -/
  | hpdUnplug (o : Fin 8)
  /-- IRQ_HPD (R330): An IRQ_HPD pulse makes the output read link status and retrain if needed. -/
  | irqHpd (o : Fin 8) (lostLock : Bool) (sink : SinkReport)
  /-- LATCH_POINT (R345): At vertical blanking pending display records become active. -/
  | latchPoint (o : Fin 8) (sink : SinkReport)
  /-- UNDERRUN (R347): A layer lacking source data becomes transparent for the rest of the frame. -/
  | underrun (o : Fin 8) (layer : Fin 8) (fetchError : Bool) (pixel : Nat)
  /-- CHECK_WINDOW (R349): After a window's last pixel its CRC is compared and mismatches acted on. -/
  | checkWindow (o : Fin 8) (w : Fin 16)
  /-- SAFE_CLR (R349): Writing DSP_SAFE_CLR ends the safe state at the next latch. -/
  | safeClr (port : Port) (o : Fin 8)
  /-- AUX_NATIVE_WRITE (R331): DSP_AUX_CMD GO with OP 0 runs a native AUX write. -/
  | auxNativeWrite (port : Port) (o : Fin 8) (value : Word)
  /-- AUX_NATIVE_READ (R331): DSP_AUX_CMD GO with OP 1 runs a native AUX read. -/
  | auxNativeRead (port : Port) (o : Fin 8) (value : Word)
  /-- AUX_I2C_WRITE (R331): DSP_AUX_CMD GO with OP 2 runs an I2C-over-AUX write. -/
  | auxI2cWrite (port : Port) (o : Fin 8) (value : Word)
  /-- AUX_I2C_READ (R331): DSP_AUX_CMD GO with OP 3 runs an I2C-over-AUX read. -/
  | auxI2cRead (port : Port) (o : Fin 8) (value : Word)
  /-- AUX_REPLY (R331): An AUX reply, DEFER or 400 µs timeout completes or retries the transaction. -/
  | auxReply (o : Fin 8) (reply : AuxReply)
  /-- REASSIGN_RESET_END (R356): After REASSIGN_MS of reset the new dock's virtual port reports a connection. -/
  | reassignResetEnd (u : Fin 16)
  /-- USB_DEVICE_PACKET (R361): A SuperSpeed packet from a device passes to its tunnel, with NumP clamped. -/
  | usbDevicePacket (u : Fin 16) (pkt : UsbPacket)
  /-- BLOCK_FREE (R363): A freed block releases a held packet. -/
  | blockFree (dock : Fin 64)
  /-- RESERVATION_EXPIRY (R363): A block reservation unused for 2 edges is freed. -/
  | reservationExpiry (dock : Fin 64)
  /-- GET_HUB_TIME (R368): Returns hub time, discipline state and TIM_EDGES. -/
  | getHubTime (dock : Fin 64) (t : Nat)
  /-- GET_SLICE (R368): Returns the dock's slice vintage and digest. -/
  | getSlice (dock : Fin 64)
  /-- USB_DOORBELL (R368): The DOORBELL vendor request acts as a write to HF_DBk. -/
  | usbDoorbell (dock : Fin 64) (k : Fin 8) (value : Word)
  /-- GET_AUDIO_CFG (R368): Returns the audio slot configurations. -/
  | getAudioCfg (dock : Fin 64)
  /-- FUNCTION_RESET (R370): A reset of the device function aborts its control transfer and restores defaults. -/
  | functionReset (dock : Fin 64)
  /-- REMOTE_WAKE (R371): Resume signalling or Function Wake starts a wake and drives resume. -/
  | remoteWake (dock : Fin 64) (vport : Fin 16)
  /-- WAKE_REPORT (R371): 1 ms after a wake start the change bit or Function Wake is reported. -/
  | wakeReport (dock : Fin 64) (vport : Fin 16)
  /-- HOST_RESUME (R372): A host resume within 1 ms of a wake start cancels the report and records a collision. -/
  | hostResume (dock : Fin 64) (vport : Fin 16)
  /-- LC_CMD (R403): A write to KEY_LC_CMD requests a life-cycle change or is refused. -/
  | lcCmd (port : Port) (value : Word)
  /-- FUSE_CMD (R405): A write to KEY_FUSE_CMD blows FT2412_COMPAT or is refused. -/
  | fuseCmd (port : Port) (value : Word)
  /-- KEY_IMPORT (R416): Setting KEY_IMPORT_CTL.GO places the imported key in a slot. -/
  | keyImport (port : Port) (value : Word)
  /-- SRAM_ERROR (R429): A SEC-DED error in SRAM is corrected or treated as uncorrectable. -/
  | sramError (site : SramSite) (double : Bool)
  /-- CELLAR_CORRECTION (R440): A corrected cellar line counts toward the channel bucket. -/
  | cellarCorrection (ch : Fin 8)
  /-- CELLAR_UNCORR (R441): An uncorrectable cellar line is poisoned and reported. -/
  | cellarUncorr (ch : Fin 8) (addr : BitVec 64) (row : Nat) (ppr : Bool)
  /-- PATROL_SCRUB (R443): The scrub reads and corrects cellar lines over its pass time. -/
  | patrolScrub (corrected : List (Fin 8))
  /-- CELLAR_READY (R446): The cellar zero-fill ends and MEM_CELLAR_STATUS.READY sets. -/
  | cellarReady (trained : BitVec 8)
  /-- BUCKET_ERROR (R471): An error adds its weight to a resource's bucket and may warn or retire. -/
  | bucketError (cls : Fin 10) (index : BitVec 12) (cause : ErrCause)
  /-- BUCKET_LEAK (R471): Every 8 × LEAK_MS edges each bucket above 0 falls by 1. -/
  | bucketLeak (cls : Fin 10)
  /-- HOLDOFF_END (R483): At the end of the hold-off a delayed fault-log message is sent. -/
  | holdoffEnd (port : Port)
  /-- POWER_ON_RESET (R490): The hub comes up through its bring-up sequence from VSTBY. -/
  | powerOnReset (alwaysOnLimit : Bool)
  /-- RAIL_FAIL (R491): A rail outside its window 10 ms after enable drops every enable and records the failure. -/
  | railFail (m : Fin 9)
  /-- BROWN_OUT (R492): A rail below reset drops the enables, switches off channels and restarts. -/
  | brownOut (m : Fin 9)
  /-- HOLD_ENTER (R493): A rail below warning puts the hub into hold. -/
  | holdEnter (m : Fin 9) (mv : BitVec 16)
  /-- FEED_PRESENT (R495): A feed in range for 100 ms becomes present and its gate ramps. -/
  | feedPresent (x : Fin 2) (mv : BitVec 16)
  /-- FEED_LOST (R497): A feed low or reversing has its gate pulled down. -/
  | feedLost (x : Fin 2)
  /-- FEED_OVER (R497): A feed above ILIM for 1 ms sets FEED_OVER. -/
  | feedOver (x : Fin 2)
  /-- INSERTION (R500): A change of PWCn_DET# restarts the channel's debounce. -/
  | insertion (c : Fin 24) (low : Bool)
  /-- RAMP_START (R500): A debounced, present, unblocked channel starts its ramp. -/
  | rampStart (c : Fin 24)
  /-- TRIP (R501): A channel fault pulls the gate down and enters RETRY_WAIT. -/
  | trip (c : Fin 24) (cause : BitVec 4)
  /-- POWER_GOOD (R502): After PG_DELAY_MS in window the channel gives power-good and enters ON. -/
  | powerGood (c : Fin 24) (mv : BitVec 16)
  /-- RETRY_END (R503): The retry wait ends. -/
  | retryEnd (c : Fin 24)
  /-- REMOVAL (R503): DET# high for 10 µs while ON withdraws power-good and returns to DEBOUNCE. -/
  | removal (c : Fin 24)
  /-- FET_SHORT (R504): Output above 10 % of nominal with gate off for 5 ms retires the channel. -/
  | fetShort (c : Fin 24)
  /-- DOZE_WAKE (R510): A wake source ends Doze and the hub restores its state. -/
  | dozeWake (source : BitVec 4) (index : BitVec 5) (present : BitVec 8)
  /-- SENTRY_SAMPLE (R512): In Doze the sentry samples its inputs every PERIOD_MS and wakes on a threshold. -/
  | sentrySample (sample : SentrySample)
  /-- THERMAL_SHUTDOWN (R511): Junction above 115 °C enters Off within 1 ms. -/
  | thermalShutdown (celsius : Int)
  /-- OFF_EXIT (R511): An allowed wake leaves Off through a power-on reset. -/
  | offExit (source : BitVec 4) (index : BitVec 5)
  /-- DOCK_RESET (R516): Writing PWR_DOCK_RESET.GO resets a dock's host state and traffic. -/
  | dockReset (port : Port) (value : Word)
  /-- TRIM_REWRITE (R519): Writing PWR_TRIM_CMD starts rewriting the trim store from an image. -/
  | trimRewrite (port : Port) (value : Word)
  /-- TRIM_DONE (R519): The trim rewrite ends with its result. -/
  | trimDone (verifyFails : Bool)
  /-- SET_PTR (R520): The SMBus SET_PTR command sets the control-space pointer. -/
  | setPtr (ptr : Word) (pec : Pec)
  /-- WRITE (R520): The SMBus WRITE command writes at the pointer and advances it. -/
  | write (value : Word) (pec : Pec)
  /-- READ (R520): The SMBus READ command reads at the pointer and advances it. -/
  | read (pec : Pec)
  /-- SMBUS_ADDRESS_MATCH (R512): An SMBus address match in Doze or Off wakes the hub. -/
  | smbusAddressMatch (addr : BitVec 7)
  /-- THERMAL_WARN (R521): The junction temperature rising above PWR_THERM.WARN_C sets PWR_EVENT.THERMAL_WARN. -/
  | thermalWarn (celsius : Int)
  /-- PCIE_X1_L0_TIMEOUT (R209): A PCIe port retrained as x1 after a lane retirement that has not reached L0 within 200 ms is retired by the fault manager. -/
  | pcieX1L0Timeout (p : Fin 8)
  /-- ETH_LINK_DOWN (R470): An Ethernet port losing its link stops requesting in Spindle, adds its bucket weight and leaves its frames unsendable. -/
  | ethLinkDown (e : Fin 4) (signalPresent : Bool)
  /-- ETH_LINK_UP (R284): An Ethernet port's PMD link training completing returns the port to Spindle matching and lets its MAC take frames again. -/
  | ethLinkUp (link : EthLink)
  /-- USB_DEVICE_CONNECT (R353): A device attaching to an assigned USB port makes the dock's virtual port report a connection. -/
  | usbDeviceConnect (u : Fin 16) (speed : BitVec 3)
  /-- USB_DEVICE_DISCONNECT (R242): A device or a hub above it detaching from a USB port reports a disconnect, frees its device handles and posts DEVICE_DETACH. -/
  | usbDeviceDisconnect (u : Fin 16)
  /-- EQ_SETTLED (R165): When the pre-FEC symbol error ratio on every lane has stayed at or below 10^-6 for 1 ms the hub sends its own EQ_DONE. -/
  | eqSettled (trunk : Fin 8)
  /-- P1_ALLOT (R316): In phase P1 the traffic manager clamps finish tags of ineligible children and loads TMG_SLOTS. -/
  | p1Allot
  /-- KEY_GENERATION_SWEEP (R423): At 64,000 clocks after each edge the sweep marks stale slots and makes ends keyless. -/
  | keyGenerationSweep
  /-- STEP (R42): At the first eligible tick edge the armed target is checked again and hub time jumps to it. -/
  | step
  /-- TIME1_HOLDOVER (R57): No TIME1 input edge for 1 µs freezes the rate and enters holdover. -/
  | time1Holdover
  /-- COMMAND_FETCH (R75): The fetch unit checks a command header and takes a complete command from a ring in rotating order. -/
  | commandFetch
  /-- COMMAND_START (R77): A fetched command starts on the first free thread once an entry and ordering allow. -/
  | commandStart
  /-- SWITCH_OVER (R122): Every block makes its shadow active in one clock and the vintage, digest and slice values update. -/
  | switchOver
  /-- REKEY_DONE (R132): Recomputation ends, BUSY clears and REKEY_DONE sets. -/
  | rekeyDone
  /-- TAG_WAIT_END (R240): A request waiting for a tag takes one when it frees. -/
  | tagWaitEnd
  /-- POOL_WAIT_END (R265): A request waiting for completion space reserves it when released. -/
  | poolWaitEnd
  /-- SPINDLE_MATCH (R284): Spindle computes one matching per cell slot. -/
  | spindleMatch
  /-- RELINK (R286): Matched batches are relinked and admitted at their egress. -/
  | relink
  /-- LC_CHANGE (R403): After fuse programming the life-cycle change takes effect with its slot effects. -/
  | lcChange
  /-- MARK_AGE (R461): A mark record open for 8,000 edges closes with FATE 0xFF. -/
  | markAge
  /-- RAIL_RETRY (R491): 1 s after a rail failure the bring-up repeats from step 2. -/
  | railRetry
  /-- HOLD_EXIT (R494): After 8 edges above WARN + HYST hold ends and deferred work resumes. -/
  | holdExit
  /-- WAKE_TIMER (R512): The wake timer expires in Doze. -/
  | wakeTimer
  /-- WARM_RESET (R514): RESET# held low puts the cellar in self-refresh and holds the core in reset. -/
  | warmReset
  /-- WARM_RESET_RELEASE (R514): RESET# rising restarts the hub from step 6. -/
  | warmResetRelease
  /-- COMPAT_FUSE_BLOWN (R405): Programming of FT2412_COMPAT ends within 100 µs and TOP_FUSES.FT2412_COMPAT reads 1. -/
  | compatFuseBlown
deriving DecidableEq, Repr

end Sys2Proof
end

