-- ==== Sys2Proof/Decode.lean ====
section
/-!
DEFINITION. Commands spelled by words. The table of operations and events gives no row any bits, so no word spells a command.
-/
namespace Sys2Proof

/-- The command that a word of the table's bits spells: none, since the table gives no bits to any row. -/
def decodeTableWord (_nbits _w : Nat) : Option Instr := none

end Sys2Proof
end

