-- ==== Sys2Proof/Machine/Crypto.lean ====
section
/-!
DEFINITION. The checks and ciphers that the chapters name: CRC-16-CCITT (R55), CRC-32, AES-256 with CMAC, GCM and KW
(R130, R179, R413), SHA-256 and HMAC (R401, R410). Blocks and words are natural numbers, most significant byte first.
-/
namespace Sys2Proof.Machine

/-- Bits of a number, most significant first. -/
def bitsMsb (n v : Nat) : List Bool := (List.range n).map (fun i => v / 2 ^ (n - 1 - i) % 2 = 1)

/-- One bit into a most-significant-first CRC register of a width. -/
def crcBit (width poly : Nat) (c : Nat) (b : Bool) : Nat :=
  let top := c / 2 ^ (width - 1) % 2 = 1
  let s := c * 2 % 2 ^ width
  if (top && !b) || (!top && b) then s ^^^ poly else s

/-- CRC-16-CCITT, polynomial 0x1021, initial 0xFFFF, no reflection, no final XOR (R55). -/
def crc16 (bits : List Bool) : Nat := bits.foldl (crcBit 16 0x1021) 0xFFFF

/-- One byte into a reflected CRC-32 register (polynomial 0xEDB88320). -/
def crc32Byte (c b : Nat) : Nat :=
  (List.range 8).foldl (fun c _ => if c % 2 = 1 then (c / 2) ^^^ 0xEDB88320 else c / 2) (c ^^^ b)

/-- IEEE CRC-32 of bytes. -/
def crc32 (bs : List Nat) : Nat := bs.foldl crc32Byte 0xFFFFFFFF ^^^ 0xFFFFFFFF

/-- Bytes as one number, first byte most significant. -/
def beNat (bs : List Nat) : Nat := bs.foldl (fun a b => a * 256 + b) 0

/-- A number as n bytes, most significant first. -/
def beBytes (n v : Nat) : List Nat := (List.range n).map (fun i => v / 256 ^ (n - 1 - i) % 256)

/-! ### AES-256 (FIPS 197) -/

/-- The substitution table, entry i in bits [8i+7:8i]. -/
def aesTable : Nat := 0x16BB54B00F2D99416842E6BF0D89A18CDF2855CEE9871E9B948ED9691198F8E19E1DC186B95735610EF6034866B53E708A8BBD4B1F74DDE8C6B4A61C2E2578BA08AE7A65EAF4566CA94ED58D6D37C8E779E4959162ACD3C25C2406490A3A32E0DB0B5EDE14B8EE4688902A22DC4F816073195D643D7EA7C41744975FEC130CCDD2F3FF1021DAB6BCF5389D928F40A351A89F3C507F02F94585334D43FBAAEFD0CF584C4A39BECB6A5BB1FC20ED00D153842FE329B3D63B52A05A6E1B1A2C830975B227EBE28012079A059618C323C7041531D871F1E5A534CCF73F362693FDB7C072A49CAFA2D4ADF04759FA7DC982CA76ABD7FE2B670130C56F6BF27B777C63

/-- The inverse substitution table. -/
def aesInvTable : Nat := 0x7D0C2155631469E126D677BA7E042B17619953833CBBEBC8B0F52AAE4D3BE0A0EF9CC9939F7AE52D0D4AB519A97F51605FEC8027591012B131C7078833A8DD1FF45ACD78FEC0DB9A2079D2C64B3E56FC1BBE18AA0E62B76F89C5291D711AF1476EDF751CE837F9E28535ADE72274AC9673E6B4F0CECFF297EADC674F4111913A6B8A130103BDAFC1020F3FCA8F1E2CD00645B3B80558E4F70AD3BC8C00ABD890849D8DA75746155EDAB9EDFD5048706C92B6655DCC5CA4D41698688664F6F87225D18B6D49A25B76B224D92866A12E084EC3FA420B954CEE3D23C2A632947B54CBE9DEC444438E3487FF2F9B8239E37CFBD7F3819EA340BF38A53630D56A0952

def sbox (b : Nat) : Nat := aesTable / 2 ^ (8 * b) % 256

def invSbox (b : Nat) : Nat := aesInvTable / 2 ^ (8 * b) % 256

/-- Byte r of a 32-bit column. -/
def colByte (w r : Nat) : Nat := w / 2 ^ (24 - 8 * r) % 256

def colOf (a b c d : Nat) : Nat := a * 2 ^ 24 + b * 2 ^ 16 + c * 2 ^ 8 + d

def subCol (w : Nat) : Nat := colOf (sbox (colByte w 0)) (sbox (colByte w 1)) (sbox (colByte w 2)) (sbox (colByte w 3))

/-- Multiplication by x in the AES field. -/
def xtime (b : Nat) : Nat := if 128 ≤ b then (2 * b) ^^^ 0x11B else 2 * b

/-- Multiplication in the AES field by a constant of four bits. -/
def aesMul (k b : Nat) : Nat :=
  let b2 := xtime b
  let b4 := xtime b2
  let b8 := xtime b4
  (if k % 2 = 1 then b else 0) ^^^ (if k / 2 % 2 = 1 then b2 else 0) ^^^ (if k / 4 % 2 = 1 then b4 else 0) ^^^
    (if k / 8 % 2 = 1 then b8 else 0)

/-- A column times a circulant of four constants. -/
def mixCol (k0 k1 k2 k3 w : Nat) : Nat :=
  let a := colByte w 0
  let b := colByte w 1
  let c := colByte w 2
  let d := colByte w 3
  colOf (aesMul k0 a ^^^ aesMul k1 b ^^^ aesMul k2 c ^^^ aesMul k3 d)
    (aesMul k3 a ^^^ aesMul k0 b ^^^ aesMul k1 c ^^^ aesMul k2 d)
    (aesMul k2 a ^^^ aesMul k3 b ^^^ aesMul k0 c ^^^ aesMul k1 d)
    (aesMul k1 a ^^^ aesMul k2 b ^^^ aesMul k3 c ^^^ aesMul k0 d)

/-- A block of four columns. -/
structure Block where
  c0 : Nat
  c1 : Nat
  c2 : Nat
  c3 : Nat
deriving DecidableEq, Repr

def blockOf (v : Nat) : Block :=
  ⟨v / 2 ^ 96 % 2 ^ 32, v / 2 ^ 64 % 2 ^ 32, v / 2 ^ 32 % 2 ^ 32, v % 2 ^ 32⟩

def blockNat (b : Block) : Nat := b.c0 * 2 ^ 96 + b.c1 * 2 ^ 64 + b.c2 * 2 ^ 32 + b.c3

def blockXor (a b : Block) : Block := ⟨a.c0 ^^^ b.c0, a.c1 ^^^ b.c1, a.c2 ^^^ b.c2, a.c3 ^^^ b.c3⟩

def blockMap (f : Nat → Nat) (b : Block) : Block := ⟨f b.c0, f b.c1, f b.c2, f b.c3⟩

/-- SubBytes and ShiftRows. -/
def subShift (b : Block) : Block :=
  let f := fun (p q r s : Nat) => colOf (sbox (colByte p 0)) (sbox (colByte q 1)) (sbox (colByte r 2)) (sbox (colByte s 3))
  ⟨f b.c0 b.c1 b.c2 b.c3, f b.c1 b.c2 b.c3 b.c0, f b.c2 b.c3 b.c0 b.c1, f b.c3 b.c0 b.c1 b.c2⟩

/-- InvShiftRows and InvSubBytes. -/
def invSubShift (b : Block) : Block :=
  let f := fun (p q r s : Nat) =>
    colOf (invSbox (colByte p 0)) (invSbox (colByte q 1)) (invSbox (colByte r 2)) (invSbox (colByte s 3))
  ⟨f b.c0 b.c3 b.c2 b.c1, f b.c1 b.c0 b.c3 b.c2, f b.c2 b.c1 b.c0 b.c3, f b.c3 b.c2 b.c1 b.c0⟩

/-- The next two round keys of the schedule. -/
def nextKeys (rcon : Nat) (a b : Block) : Block × Block :=
  let t := subCol (b.c3 * 256 % 2 ^ 32 + b.c3 / 2 ^ 24)
  let w0 := a.c0 ^^^ t ^^^ (rcon * 2 ^ 24)
  let w1 := a.c1 ^^^ w0
  let w2 := a.c2 ^^^ w1
  let w3 := a.c3 ^^^ w2
  let w4 := b.c0 ^^^ subCol w3
  let w5 := b.c1 ^^^ w4
  let w6 := b.c2 ^^^ w5
  (⟨w0, w1, w2, w3⟩, ⟨w4, w5, w6, b.c3 ^^^ w6⟩)

/-- The round keys from a pair onward; each pair of rounds takes the next round constant. -/
def keysFrom : Nat → Nat → Block → Block → List Block
  | 0, _, a, _ => [a]
  | n + 1, rcon, a, b => a :: b :: keysFrom n (rcon * 2) (nextKeys rcon a b).1 (nextKeys rcon a b).2

/-- The 15 round keys of a 256-bit key. -/
def roundKeys (key : Nat) : List Block := keysFrom 7 1 (blockOf (key / 2 ^ 128)) (blockOf key)

/-- The rounds after the first key addition. -/
def encRounds : List Block → Block → Block
  | [], b => b
  | [k], b => blockXor (subShift b) k
  | k :: ks, b => encRounds ks (blockXor (blockMap (mixCol 2 3 1 1) (subShift b)) k)

/-- AES-256 encryption of a block. -/
def aesEnc (key block : Nat) : Nat :=
  match roundKeys key with
  | k :: ks => blockNat (encRounds ks (blockXor (blockOf block) k))
  | [] => 0

def decRounds : List Block → Block → Block
  | [], b => b
  | [k], b => blockXor (invSubShift b) k
  | k :: ks, b => decRounds ks (blockMap (mixCol 14 11 13 9) (blockXor (invSubShift b) k))

/-- AES-256 decryption of a block. -/
def aesDec (key block : Nat) : Nat :=
  match (roundKeys key).reverse with
  | k :: ks => blockNat (decRounds ks (blockXor (blockOf block) k))
  | [] => 0

/-! ### CMAC (NIST SP 800-38B), GCM (NIST SP 800-38D), KW (NIST SP 800-38F) -/

/-- Doubling in the field of CMAC. -/
def cmacDouble (v : Nat) : Nat :=
  let d := v * 2 % 2 ^ 128
  if v / 2 ^ 127 % 2 = 1 then d ^^^ 0x87 else d

/-- Split bytes into blocks of at most 16; fuel bounds the count. -/
def chunks16 : Nat → List Nat → List (List Nat)
  | 0, _ => []
  | n + 1, bs => if bs.length ≤ 16 then [bs] else bs.take 16 :: chunks16 n (bs.drop 16)

/-- AES-CMAC of a message of bytes. -/
def cmac (key : Nat) (msg : List Nat) : Nat :=
  let k1 := cmacDouble (aesEnc key 0)
  let k2 := cmacDouble k1
  let bl := chunks16 (msg.length / 16 + 1) msg
  let body := bl.dropLast
  let last := (bl.getLast?).getD []
  let fin := if last.length = 16 then beNat last ^^^ k1
    else beNat (last ++ 0x80 :: List.replicate (15 - last.length) 0) ^^^ k2
  aesEnc key ((body.foldl (fun x b => aesEnc key (x ^^^ beNat b)) 0) ^^^ fin)

/-- Multiplication in the field of GHASH, bit 0 being the most significant. -/
def ghashMul (x y : Nat) : Nat :=
  ((List.range 128).foldl (fun (zv : Nat × Nat) i =>
    (if x / 2 ^ (127 - i) % 2 = 1 then zv.1 ^^^ zv.2 else zv.1,
     if zv.2 % 2 = 1 then (zv.2 / 2) ^^^ (0xE1 * 2 ^ 120) else zv.2 / 2)) (0, y)).1

/-- Zero-padded blocks of bytes; fuel bounds the count. -/
def padBlocks : Nat → List Nat → List Nat
  | 0, _ => []
  | _, [] => []
  | n + 1, bs => beNat ((bs.take 16) ++ List.replicate (16 - (bs.take 16).length) 0) :: padBlocks n (bs.drop 16)

/-- GHASH of additional data and text. -/
def ghash (hk : Nat) (aad text : List Nat) : Nat :=
  let bl := padBlocks (aad.length + 1) aad ++ padBlocks (text.length + 1) text ++
    [aad.length * 8 * 2 ^ 64 + text.length * 8]
  bl.foldl (fun y b => ghashMul (y ^^^ b) hk) 0

/-- Counter-mode output of GCM on text, from a counter value, for a 96-bit nonce. -/
def gcmCtr : Nat → Nat → Nat → Nat → List Nat → List Nat
  | 0, _, _, _, _ => []
  | _, _, _, _, [] => []
  | n + 1, key, nonce, i, bs =>
    let ks := beBytes 16 (aesEnc key (nonce * 2 ^ 32 + i % 2 ^ 32))
    List.zipWith (fun a b => a ^^^ b) (bs.take 16) ks ++ gcmCtr n key nonce (i + 1) (bs.drop 16)

/-- The tag of GCM for additional data and ciphertext. -/
def gcmTag (key nonce : Nat) (aad cipher : List Nat) : Nat :=
  ghash (aesEnc key 0) aad cipher ^^^ aesEnc key (nonce * 2 ^ 32 + 1)

/-- GCM encryption with a 96-bit nonce: ciphertext and tag. -/
def gcmSeal (key nonce : Nat) (aad plain : List Nat) : List Nat × Nat :=
  let c := gcmCtr (plain.length + 1) key nonce 2 plain
  (c, gcmTag key nonce aad c)

/-- GCM decryption: the plaintext, if the tag agrees. -/
def gcmOpen (key nonce : Nat) (aad cipher : List Nat) (tag : Nat) : Option (List Nat) :=
  if gcmTag key nonce aad cipher = tag then some (gcmCtr (cipher.length + 1) key nonce 2 cipher) else none

/-- One step of KW wrapping: step t on its register. -/
def kwStep (kek : Nat) (n : Nat) (s : Nat × List Nat) (t : Nat) : Nat × List Nat :=
  let i := (t - 1) % n
  let b := aesEnc kek (s.1 * 2 ^ 64 + (s.2[i]?).getD 0)
  ((b / 2 ^ 64) ^^^ t, s.2.set i (b % 2 ^ 64))

/-- AES KW of 64-bit words with the default initial value. -/
def kwWrap (kek : Nat) (ws : List Nat) : List Nat :=
  let r := (List.range (6 * ws.length)).foldl (fun s t => kwStep kek ws.length s (t + 1)) (0xA6A6A6A6A6A6A6A6, ws)
  r.1 :: r.2

/-- One step of KW unwrapping. -/
def kwUnstep (kek : Nat) (n : Nat) (s : Nat × List Nat) (t : Nat) : Nat × List Nat :=
  let i := (t - 1) % n
  let b := aesDec kek ((s.1 ^^^ t) * 2 ^ 64 + (s.2[i]?).getD 0)
  (b / 2 ^ 64, s.2.set i (b % 2 ^ 64))

/-- AES KW unwrapping: the words, if the integrity check passes. -/
def kwUnwrap (kek : Nat) (ws : List Nat) : Option (List Nat) :=
  match ws with
  | [] => none
  | a :: rs =>
    let n := rs.length
    let r := (List.range (6 * n)).foldl (fun s t => kwUnstep kek n s (6 * n - t)) (a, rs)
    if r.1 = 0xA6A6A6A6A6A6A6A6 then some r.2 else none

/-! ### SHA-256 (FIPS 180-4) and HMAC (FIPS 198-1) -/

/-- The round constants, the first in the most significant word. -/
def shaTable : Nat :=
  0x428A2F9871374491B5C0FBCFE9B5DBA53956C25B59F111F1923F82A4AB1C5ED5D807AA9812835B01243185BE550C7DC372BE5D7480DEB1FE9BDC06A7C19BF174E49B69C1EFBE47860FC19DC6240CA1CC2DE92C6F4A7484AA5CB0A9DC76F988DA983E5152A831C66DB00327C8BF597FC7C6E00BF3D5A7914706CA63511429296727B70A852E1B21384D2C6DFC53380D13650A7354766A0ABB81C2C92E92722C85A2BFE8A1A81A664BC24B8B70C76C51A3D192E819D6990624F40E3585106AA07019A4C1161E376C082748774C34B0BCB5391C0CB34ED8AA4A5B9CCA4F682E6FF3748F82EE78A5636F84C878148CC7020890BEFFFAA4506CEBBEF9A3F7C67178F2

def shaK (i : Nat) : Nat := shaTable / 2 ^ (32 * (63 - i)) % 2 ^ 32

def rotr (w n : Nat) : Nat := (w / 2 ^ n + w * 2 ^ (32 - n)) % 2 ^ 32

/-- The working variables of SHA-256. -/
structure Sha where
  a : Nat
  b : Nat
  c : Nat
  d : Nat
  e : Nat
  f : Nat
  g : Nat
  h : Nat
deriving DecidableEq, Repr

def shaInit : Sha := ⟨0x6A09E667, 0xBB67AE85, 0x3C6EF372, 0xA54FF53A, 0x510E527F, 0x9B05688C, 0x1F83D9AB, 0x5BE0CD19⟩

/-- One round with the sum of constant and schedule word. -/
def shaRound (s : Sha) (kw : Nat) : Sha :=
  let s1 := rotr s.e 6 ^^^ rotr s.e 11 ^^^ rotr s.e 25
  let ch := (s.e &&& s.f) ^^^ ((0xFFFFFFFF ^^^ s.e) &&& s.g)
  let t1 := s.h + s1 + ch + kw
  let s0 := rotr s.a 2 ^^^ rotr s.a 13 ^^^ rotr s.a 22
  let maj := (s.a &&& s.b) ^^^ (s.a &&& s.c) ^^^ (s.b &&& s.c)
  ⟨(t1 + s0 + maj) % 2 ^ 32, s.a, s.b, s.c, (s.d + t1) % 2 ^ 32, s.e, s.f, s.g⟩

/-- The next schedule word from the last 16, newest first. -/
def shaNext (l : List Nat) : Nat :=
  let x := (l[14]?).getD 0
  let y := (l[1]?).getD 0
  ((rotr y 17 ^^^ rotr y 19 ^^^ (y / 2 ^ 10)) + (l[6]?).getD 0 + (rotr x 7 ^^^ rotr x 18 ^^^ (x / 2 ^ 3)) +
    (l[15]?).getD 0) % 2 ^ 32

/-- Rounds from one onward; the list holds the schedule words so far, newest first. -/
def shaRounds : Nat → Nat → List Nat → Sha → Sha
  | 0, _, _, s => s
  | n + 1, i, l, s =>
    if i < 16 then shaRounds n (i + 1) l (shaRound s (shaK i + (l[15 - i]?).getD 0))
    else
      let w := shaNext l
      shaRounds n (i + 1) (w :: l.take 15) (shaRound s (shaK i + w))

/-- Compress one block of 64 bytes. -/
def shaBlock (s : Sha) (bs : List Nat) : Sha :=
  let v := beNat bs
  let ws := (List.range 16).map (fun i => v / 2 ^ (32 * i) % 2 ^ 32)
  let r := shaRounds 64 0 ws s
  let p := fun x y => (x + y) % 2 ^ 32
  ⟨p s.a r.a, p s.b r.b, p s.c r.c, p s.d r.d, p s.e r.e, p s.f r.f, p s.g r.g, p s.h r.h⟩

/-- Blocks of a padded message; fuel bounds the count. -/
def shaBlocks : Nat → List Nat → Sha → Sha
  | 0, _, s => s
  | n + 1, bs, s => if bs = [] then s else shaBlocks n (bs.drop 64) (shaBlock s (bs.take 64))

/-- SHA-256 of bytes, as a 256-bit number. -/
def sha256 (bs : List Nat) : Nat :=
  let pad := bs ++ 0x80 :: List.replicate ((119 - bs.length % 64) % 64) 0 ++ beBytes 8 (8 * bs.length)
  let s := shaBlocks (bs.length / 64 + 2) pad shaInit
  beNat ([s.a, s.b, s.c, s.d, s.e, s.f, s.g, s.h].flatMap (beBytes 4))

/-- HMAC-SHA-256 with a 32-byte key. -/
def hmac (key : Nat) (msg : List Nat) : Nat :=
  let k := beBytes 32 key ++ List.replicate 32 0
  let inner := sha256 (k.map (fun b => b ^^^ 0x36) ++ msg)
  sha256 (k.map (fun b => b ^^^ 0x5C) ++ beBytes 32 inner)

end Sys2Proof.Machine
end

