-- ==== Sys2Proof/Machine/RegMap.lean ====
section
/-!
DEFINITION. The register map of control space: one row per register of the chapters' field tables (R32-R34, R540),
with its index dimensions, access masks by R18 and reset value; and one address function per register.
-/
namespace Sys2Proof.Machine

/-- What one index of a register's address runs over (R2, R22, R26). -/
inductive IndexKind where
  | trunk | output | lane | dock | sp | queue | pcie | eth | usb | channel | pwc | other
deriving DecidableEq, Repr

/-- One register of the map: its lowest address, its dimensions (count, stride, index), the masks of its SH, RW, W1C,
WO and SC bits, and its reset value where no fuse or rule fixes it. -/
structure RegRow where
  base : Nat
  dims : List (Nat × Nat × IndexKind)
  sh : Word
  rw : Word
  w1c : Word
  wo : Word
  sc : Word
  reset : Word
deriving DecidableEq, Repr

/-- Registers of the TOP block. -/
def rowsTop : List RegRow := [
  ⟨0x0, [], 0x0, 0x0, 0x0, 0x0, 0x0, 0x46579648⟩,
  ⟨0x4, [], 0x0, 0x0, 0x0, 0x0, 0x0, 0x0⟩,
  ⟨0x8, [], 0x0, 0x0, 0x0, 0x0, 0x0, 0x0⟩,
  ⟨0xC, [], 0x0, 0x0, 0x0, 0x0, 0x0, 0x0⟩,
  ⟨0x10, [], 0x0, 0x0, 0x0, 0x0, 0x0, 0x0⟩,
  ⟨0x14, [], 0x0, 0x0, 0x0, 0x0, 0x0, 0x0⟩,
  ⟨0x18, [], 0x0, 0x0, 0x0, 0x0, 0x0, 0x0⟩]

/-- Registers of the TIM block. -/
def rowsTim0 : List RegRow := [
  ⟨0x100000, [], 0x0, 0x0, 0x0, 0x0, 0x0, 0x0⟩,
  ⟨0x100004, [], 0x0, 0x0, 0x0, 0x0, 0x0, 0x0⟩,
  ⟨0x100008, [], 0x0, 0x0, 0x0, 0x0, 0x0, 0x0⟩,
  ⟨0x100010, [], 0x0, 0x0, 0x0, 0x0, 0x0, 0x0⟩,
  ⟨0x100014, [], 0x0, 0x0, 0x0, 0x0, 0x0, 0x0⟩,
  ⟨0x100020, [], 0x0, 0xFFFFFFFF, 0x0, 0x0, 0x0, 0x0⟩,
  ⟨0x100024, [], 0x0, 0xFFFFFFFF, 0x0, 0x0, 0x0, 0x0⟩,
  ⟨0x100028, [], 0x0, 0x1, 0x2, 0x0, 0x1, 0x0⟩,
  ⟨0x100030, [], 0x0, 0xFFFFFFFF, 0x0, 0x0, 0x0, 0x0⟩,
  ⟨0x100034, [], 0x0, 0x0, 0x0, 0x0, 0x0, 0x0⟩,
  ⟨0x100040, [], 0x7F1, 0x0, 0x0, 0x0, 0x0, 0x2A0⟩,
  ⟨0x100044, [], 0x0, 0x0, 0x0, 0x0, 0x0, 0x0⟩,
  ⟨0x100048, [], 0x0, 0x0, 0x0, 0x0, 0x0, 0x0⟩,
  ⟨0x100050, [], 0x0, 0x0, 0x1F, 0x0, 0x0, 0x0⟩,
  ⟨0x100054, [], 0x0, 0x0, 0x7F, 0x0, 0x0, 0x0⟩,
  ⟨0x100080, [(2, 0x20, .other)], 0xF, 0x0, 0x0, 0x0, 0x0, 0xB⟩,
  ⟨0x100084, [(2, 0x20, .other)], 0xFFFFF, 0x0, 0x0, 0x0, 0x0, 0x186A0⟩,
  ⟨0x100088, [(2, 0x20, .other)], 0xFFFF, 0x0, 0x0, 0x0, 0x0, 0x0⟩,
  ⟨0x10008C, [(2, 0x20, .other)], 0x0, 0x0, 0x0, 0x0, 0x0, 0x0⟩,
  ⟨0x1000C0, [], 0xFFFF, 0x0, 0x0, 0x0, 0x0, 0x0⟩,
  ⟨0x100100, [], 0x1FFFF0F, 0x0, 0x0, 0x0, 0x0, 0x1D00⟩,
  ⟨0x100104, [], 0xFFFFFFFF, 0x0, 0x0, 0x0, 0x0, 0xFEF88080⟩,
  ⟨0x100108, [], 0xFFFFFFFF, 0x0, 0x0, 0x0, 0x0, 0x0⟩,
  ⟨0x10010C, [], 0xFFFFFFFF, 0x0, 0x0, 0x0, 0x0, 0x0⟩]

/-- Registers of the TIM block. -/
def rowsTim1 : List RegRow := [
  ⟨0x100110, [], 0xFFFFFFFF, 0x0, 0x0, 0x0, 0x0, 0x0⟩,
  ⟨0x100114, [], 0xFFFFFFFF, 0x0, 0x0, 0x0, 0x0, 0x0⟩,
  ⟨0x100118, [], 0xFFFF, 0x0, 0x0, 0x0, 0x0, 0x0⟩,
  ⟨0x100140, [(8, 0x4, .other)], 0x830FFFFF, 0x0, 0x0, 0x0, 0x0, 0x0⟩,
  ⟨0x100160, [(8, 0x4, .other)], 0x0, 0x0, 0x0, 0x0, 0x0, 0x0⟩,
  ⟨0x100200, [(8, 0x20, .output)], 0xFFFFFFFF, 0x0, 0x0, 0x0, 0x0, 0x0⟩,
  ⟨0x100204, [(8, 0x20, .output)], 0xFFFF, 0x0, 0x0, 0x0, 0x0, 0x0⟩,
  ⟨0x100208, [(8, 0x20, .output)], 0xFFFFFFFF, 0x0, 0x0, 0x0, 0x0, 0x0⟩,
  ⟨0x10020C, [(8, 0x20, .output)], 0xFFFFFFFF, 0x0, 0x0, 0x0, 0x0, 0x0⟩,
  ⟨0x100210, [(8, 0x20, .output)], 0x1, 0x0, 0x0, 0x0, 0x0, 0x0⟩]

/-- Registers of the TIM block. -/
def rowsTim : List RegRow := rowsTim0 ++ rowsTim1

/-- Registers of the TRN block. -/
def rowsTrn0 : List RegRow := [
  ⟨0x200000, [], 0x0, 0x1, 0x0, 0x0, 0x0, 0x1⟩,
  ⟨0x200004, [], 0x0, 0x0, 0x0, 0x0, 0x0, 0x0⟩,
  ⟨0x200008, [], 0x0, 0xFFFF, 0x0, 0x0, 0x0, 0x400⟩,
  ⟨0x20000C, [], 0x0, 0x0, 0x1F, 0x0, 0x0, 0x0⟩,
  ⟨0x200010, [(4, 0x4, .other)], 0x0, 0x0, 0x0, 0x0, 0x0, 0x0⟩,
  ⟨0x200100, [(8, 0x20, .other)], 0x0, 0x3, 0x0, 0x0, 0x2, 0x1⟩,
  ⟨0x200104, [(8, 0x20, .other)], 0x0, 0x7FF, 0x0, 0x0, 0x0, 0x0⟩,
  ⟨0x200108, [(8, 0x20, .other)], 0x0, 0x0, 0x0, 0x0, 0x0, 0x0⟩,
  ⟨0x20010C, [(8, 0x20, .other)], 0x0, 0x0, 0x1, 0x0, 0x0, 0x0⟩,
  ⟨0x200200, [(8, 0x20, .other)], 0x0, 0x1BF, 0x0, 0x0, 0x100, 0x0⟩,
  ⟨0x200204, [(8, 0x20, .other)], 0x0, 0x0, 0x0, 0x0, 0x0, 0x8000⟩,
  ⟨0x200208, [(8, 0x20, .other)], 0x0, 0x3FF, 0x0, 0x0, 0x0, 0x0⟩,
  ⟨0x200300, [(8, 0x10, .other)], 0xFF7F, 0x0, 0x0, 0x0, 0x0, 0x6⟩,
  ⟨0x200304, [(8, 0x10, .other)], 0xFFFF7FFF, 0x0, 0x0, 0x0, 0x0, 0x1000000⟩,
  ⟨0x200308, [(8, 0x10, .other)], 0x0, 0x0, 0x0, 0x0, 0x0, 0x0⟩,
  ⟨0x200400, [(32, 0x4, .other)], 0x0, 0x0, 0x0, 0x0, 0x0, 0x0⟩,
  ⟨0x200480, [(32, 0x4, .other)], 0x0, 0x0, 0x0, 0x1, 0x0, 0x0⟩,
  ⟨0x200500, [], 0x0, 0x0, 0x0, 0x0, 0x0, 0x0⟩,
  ⟨0x200504, [], 0x0, 0x0, 0x0, 0x0, 0x0, 0x0⟩,
  ⟨0x200508, [], 0x0, 0x0, 0x0, 0xFFFFFFFF, 0x0, 0x0⟩,
  ⟨0x200600, [(64, 0x4, .other)], 0x0, 0xFFFFFFFF, 0x0, 0x0, 0x0, 0x0⟩,
  ⟨0x200800, [(8, 0x10, .other)], 0x0, 0x0, 0x0, 0x0, 0x0, 0x0⟩,
  ⟨0x200804, [(8, 0x10, .other)], 0x0, 0x0, 0x0, 0x0, 0x0, 0x0⟩,
  ⟨0x200808, [(8, 0x10, .other)], 0x0, 0x0, 0x0, 0x0, 0x0, 0x0⟩]

/-- Registers of the TRN block. -/
def rowsTrn1 : List RegRow := [
  ⟨0x20080C, [(8, 0x10, .other)], 0x0, 0x0, 0x0, 0x0, 0x0, 0x0⟩,
  ⟨0x200880, [(8, 0x4, .other)], 0x0, 0x0, 0x0, 0x0, 0x0, 0x0⟩,
  ⟨0x200900, [], 0x0, 0x0, 0x0, 0x0, 0x0, 0x0⟩,
  ⟨0x200904, [], 0x0, 0x0, 0x0, 0x0, 0x0, 0x0⟩,
  ⟨0x200910, [(4, 0x4, .other)], 0x0, 0x0, 0x0, 0x0, 0x0, 0x0⟩,
  ⟨0x200920, [(8, 0x4, .other)], 0x0, 0x0, 0x0, 0xFFFFFFFF, 0x0, 0x0⟩,
  ⟨0x200940, [], 0x0, 0x1, 0x0, 0x0, 0x1, 0x0⟩,
  ⟨0x200980, [], 0x0, 0x3F, 0x0, 0x0, 0x0, 0x0⟩,
  ⟨0x200984, [], 0x0, 0x0, 0x0, 0x0, 0x0, 0x0⟩,
  ⟨0x200988, [], 0x0, 0x0, 0x0, 0x0, 0x0, 0x0⟩,
  ⟨0x200990, [(4, 0x4, .other)], 0x0, 0x0, 0x0, 0x0, 0x0, 0x0⟩,
  ⟨0x2009C0, [], 0x0, 0x0, 0xF, 0x0, 0x0, 0x0⟩,
  ⟨0x2009C4, [], 0x0, 0x0, 0x0, 0x0, 0x0, 0x0⟩,
  ⟨0x2009C8, [], 0x0, 0x0, 0x0, 0x0, 0x0, 0x0⟩,
  ⟨0x2009D0, [], 0x0, 0x0, 0x0, 0x0, 0x0, 0x0⟩,
  ⟨0x2009D4, [], 0x0, 0x0, 0x0, 0x0, 0x0, 0x0⟩,
  ⟨0x200A00, [(8, 0x8, .output)], 0x0, 0x0, 0x0, 0x0, 0x0, 0x0⟩,
  ⟨0x200A04, [(8, 0x8, .output)], 0x0, 0x0, 0x0, 0x0, 0x0, 0x0⟩]

/-- Registers of the TRN block. -/
def rowsTrn : List RegRow := rowsTrn0 ++ rowsTrn1

/-- Registers of the TRK block. -/
def rowsTrk0 : List RegRow := [
  ⟨0x400000, [(8, 0x10000, .trunk)], 0x1F7, 0x0, 0x0, 0x0, 0x0, 0xF4⟩,
  ⟨0x400004, [(8, 0x10000, .trunk)], 0x0, 0x0, 0x0, 0x0, 0x0, 0x0⟩,
  ⟨0x400008, [(8, 0x10000, .trunk)], 0x0, 0x0, 0x1FF, 0x0, 0x0, 0x0⟩,
  ⟨0x400010, [(8, 0x10000, .trunk)], 0x0, 0x0, 0x0, 0x0, 0x0, 0x0⟩,
  ⟨0x400014, [(8, 0x10000, .trunk)], 0x0, 0x0, 0x0, 0x0, 0x0, 0x0⟩,
  ⟨0x400018, [(8, 0x10000, .trunk)], 0x0, 0x0, 0x0, 0x0, 0x0, 0x0⟩,
  ⟨0x40001C, [(8, 0x10000, .trunk)], 0x0, 0x0, 0x0, 0x0, 0x0, 0x0⟩,
  ⟨0x400020, [(8, 0x10000, .trunk)], 0xFFFFFFFF, 0x0, 0x0, 0x0, 0x0, 0x40404040⟩,
  ⟨0x400024, [(8, 0x10000, .trunk)], 0xFFFFFFFF, 0x0, 0x0, 0x0, 0x0, 0x40404040⟩,
  ⟨0x400030, [(8, 0x10000, .trunk)], 0xFFFFF, 0x0, 0x0, 0x0, 0x0, 0x403E8⟩,
  ⟨0x400034, [(8, 0x10000, .trunk)], 0xFFFFFF, 0x0, 0x0, 0x0, 0x0, 0x80064⟩,
  ⟨0x400038, [(8, 0x10000, .trunk)], 0xFF, 0x0, 0x0, 0x0, 0x0, 0x8⟩,
  ⟨0x400040, [(8, 0x10000, .trunk)], 0x0, 0x0, 0x0, 0x0, 0x0, 0x0⟩,
  ⟨0x400044, [(8, 0x10000, .trunk)], 0x0, 0x0, 0x0, 0x0, 0x0, 0x0⟩,
  ⟨0x400050, [(8, 0x10000, .trunk)], 0x0, 0x0, 0x0, 0x0, 0x0, 0x0⟩,
  ⟨0x400054, [(8, 0x10000, .trunk)], 0x0, 0x0, 0x0, 0x0, 0x0, 0x0⟩,
  ⟨0x400058, [(8, 0x10000, .trunk)], 0x0, 0x0, 0x0, 0x0, 0x0, 0x0⟩,
  ⟨0x40005C, [(8, 0x10000, .trunk)], 0x0, 0x0, 0x0, 0x0, 0x0, 0x0⟩,
  ⟨0x400060, [(8, 0x10000, .trunk)], 0x0, 0x0, 0x0, 0x0, 0x0, 0x0⟩,
  ⟨0x400064, [(8, 0x10000, .trunk)], 0x0, 0x0, 0x0, 0x0, 0x0, 0x0⟩,
  ⟨0x400068, [(8, 0x10000, .trunk)], 0x0, 0x0, 0x0, 0x0, 0x0, 0x0⟩,
  ⟨0x40006C, [(8, 0x10000, .trunk)], 0x0, 0x0, 0x0, 0x0, 0x0, 0x0⟩,
  ⟨0x400070, [(8, 0x10000, .trunk)], 0x0, 0x0, 0x0, 0x0, 0x0, 0x0⟩,
  ⟨0x400074, [(8, 0x10000, .trunk)], 0x0, 0x0, 0x0, 0x0, 0x0, 0x0⟩]

/-- Registers of the TRK block. -/
def rowsTrk1 : List RegRow := [
  ⟨0x400078, [(8, 0x10000, .trunk)], 0x0, 0x0, 0x0, 0x0, 0x0, 0x0⟩]

/-- Registers of the TRK block. -/
def rowsTrk : List RegRow := rowsTrk0 ++ rowsTrk1

/-- Registers of the LANE block. -/
def rowsLane0 : List RegRow := [
  ⟨0x300000, [(98, 0x1000, .lane)], 0x0, 0x0, 0x0, 0x0, 0x0, 0x0⟩,
  ⟨0x300004, [(96, 0x1000, .lane)], 0xF, 0x0, 0x0, 0x0, 0x0, 0x0⟩,
  ⟨0x300008, [(98, 0x1000, .lane)], 0x0, 0x0, 0x0, 0x0, 0x0, 0x43209⟩,
  ⟨0x30000C, [(96, 0x1000, .lane)], 0x80FFFFFF, 0x0, 0x0, 0x0, 0x0, 0x43209⟩,
  ⟨0x300010, [(98, 0x1000, .lane)], 0x0, 0x0, 0x0, 0x0, 0x0, 0x0⟩,
  ⟨0x300014, [(98, 0x1000, .lane)], 0x0, 0x0, 0x0, 0x0, 0x0, 0x0⟩,
  ⟨0x300018, [(98, 0x1000, .lane)], 0x0, 0x0, 0x0, 0x0, 0x0, 0x0⟩,
  ⟨0x30001C, [(96, 0x1000, .lane)], 0x0, 0x0, 0x0, 0x0, 0x0, 0x0⟩,
  ⟨0x300020, [(96, 0x1000, .lane)], 0x0, 0x0, 0x0, 0x0, 0x0, 0x0⟩,
  ⟨0x300040, [(96, 0x1000, .lane), (4, 0x8, .other)], 0x0, 0xFFFFFFFF, 0x0, 0x0, 0x0, 0x0⟩,
  ⟨0x300044, [(96, 0x1000, .lane), (4, 0x8, .other)], 0x0, 0xFFFFFFFF, 0x0, 0x0, 0x0, 0x0⟩,
  ⟨0x300080, [(96, 0x1000, .lane)], 0x0, 0x0, 0x0, 0x0, 0x0, 0x0⟩,
  ⟨0x300090, [(96, 0x1000, .lane)], 0x0, 0x1FF, 0x0, 0x0, 0x100, 0x0⟩,
  ⟨0x300094, [(96, 0x1000, .lane)], 0x0, 0xFFFFFFFF, 0x0, 0x0, 0x0, 0x0⟩,
  ⟨0x300098, [(96, 0x1000, .lane)], 0x0, 0xFFFFFFFF, 0x0, 0x0, 0x0, 0x0⟩,
  ⟨0x3000A0, [(96, 0x1000, .lane)], 0x0, 0x0, 0x0, 0x0, 0x0, 0x0⟩,
  ⟨0x3000A4, [(96, 0x1000, .lane)], 0x0, 0x0, 0x0, 0x0, 0x0, 0x0⟩,
  ⟨0x3000A8, [(96, 0x1000, .lane)], 0x0, 0x0, 0x0, 0x0, 0x0, 0x0⟩,
  ⟨0x3000AC, [(96, 0x1000, .lane)], 0x0, 0x0, 0x0, 0x0, 0x0, 0x0⟩,
  ⟨0x300200, [(96, 0x1000, .lane)], 0x0, 0x1F, 0x0, 0x0, 0x0, 0xF⟩,
  ⟨0x300204, [(96, 0x1000, .lane)], 0x0, 0x0, 0x0, 0x0, 0x0, 0x0⟩,
  ⟨0x300240, [(98, 0x1000, .lane)], 0x0, 0x0, 0x0, 0x0, 0x0, 0x0⟩,
  ⟨0x300244, [(98, 0x1000, .lane)], 0x0, 0x0, 0x0, 0x0, 0x0, 0x0⟩,
  ⟨0x300248, [(98, 0x1000, .lane)], 0x0, 0x0, 0x0, 0x0, 0x0, 0x0⟩]

/-- Registers of the LANE block. -/
def rowsLane1 : List RegRow := [
  ⟨0x30024C, [(98, 0x1000, .lane)], 0x0, 0x0, 0x0, 0x0, 0x0, 0x0⟩,
  ⟨0x300250, [(98, 0x1000, .lane)], 0x0, 0x0, 0x0, 0x0, 0x0, 0x0⟩,
  ⟨0x360004, [(2, 0x1000, .other)], 0x3, 0x0, 0x0, 0x0, 0x0, 0x0⟩,
  ⟨0x360040, [(2, 0x1000, .other)], 0x0, 0xFFFFFFFF, 0x0, 0x0, 0x0, 0x0⟩,
  ⟨0x360044, [(2, 0x1000, .other)], 0x0, 0xFFFFFFFF, 0x0, 0x0, 0x0, 0x0⟩,
  ⟨0x380000, [(3, 0x4, .other)], 0x0, 0x0, 0x0, 0x0, 0x0, 0x0⟩,
  ⟨0x380010, [], 0x1F, 0x0, 0x0, 0x0, 0x0, 0x10⟩,
  ⟨0x380014, [], 0x0, 0x0, 0x0, 0x0, 0x0, 0x0⟩,
  ⟨0x380018, [], 0x0, 0x0, 0x7, 0x0, 0x0, 0x0⟩]

/-- Registers of the LANE block. -/
def rowsLane : List RegRow := rowsLane0 ++ rowsLane1

/-- Registers of the TUN block. -/
def rowsTun0 : List RegRow := [
  ⟨0x500000, [], 0xFF01FF00, 0x0, 0x0, 0x0, 0x0, 0x5000800⟩,
  ⟨0x500004, [], 0x0, 0x0, 0x7F, 0x0, 0x0, 0x0⟩,
  ⟨0x500008, [], 0x0, 0x0, 0x0, 0x0, 0x0, 0x0⟩,
  ⟨0x50000C, [], 0x0, 0x0, 0x0, 0x0, 0x0, 0x0⟩,
  ⟨0x500010, [], 0xFFFFFFFF, 0x0, 0x0, 0x0, 0x0, 0xFFFFFFFF⟩,
  ⟨0x500014, [], 0xFFFFFFFF, 0x0, 0x0, 0x0, 0x0, 0xFFFFFFFF⟩,
  ⟨0x500020, [], 0x0, 0x0, 0x0, 0x0, 0x0, 0x0⟩,
  ⟨0x500024, [], 0x0, 0x0, 0x0, 0x0, 0x0, 0x0⟩,
  ⟨0x500028, [], 0x0, 0x0, 0x0, 0x0, 0x0, 0x0⟩,
  ⟨0x50002C, [], 0x0, 0x0, 0x0, 0x0, 0x0, 0x0⟩,
  ⟨0x500030, [], 0x0, 0x0, 0x0, 0x0, 0x0, 0x0⟩,
  ⟨0x500034, [], 0x0, 0x0, 0x0, 0x0, 0x0, 0x0⟩,
  ⟨0x500038, [], 0x0, 0x0, 0x0, 0x0, 0x0, 0x0⟩,
  ⟨0x50003C, [], 0x0, 0x0, 0x0, 0x0, 0x0, 0x0⟩,
  ⟨0x500080, [(8, 0x4, .trunk)], 0x0, 0x0, 0x0, 0x0, 0x0, 0x0⟩,
  ⟨0x500100, [(4, 0x4, .eth)], 0x33F, 0x0, 0x0, 0x0, 0x0, 0x200⟩,
  ⟨0x500200, [(64, 0x4, .dock)], 0x3F, 0x0, 0x0, 0x0, 0x0, 0x0⟩,
  ⟨0x500400, [(64, 0x4, .dock)], 0x0, 0x0, 0xFFFF, 0x0, 0x0, 0x0⟩,
  ⟨0x500800, [(64, 0x20, .other), (8, 0x4, .other)], 0x9F000FFF, 0x0, 0x0, 0x0, 0x0, 0x0⟩,
  ⟨0x501000, [(64, 0x40, .dock), (4, 0x10, .other)], 0xFFFFFFFF, 0x0, 0x0, 0x0, 0x0, 0x0⟩,
  ⟨0x501004, [(64, 0x40, .dock), (4, 0x10, .other)], 0xFFFFFFF, 0x0, 0x0, 0x0, 0x0, 0x0⟩,
  ⟨0x501008, [(64, 0x40, .dock), (4, 0x10, .other)], 0x8000070F, 0x0, 0x0, 0x0, 0x0, 0x0⟩,
  ⟨0x502000, [(64, 0x20, .dock), (8, 0x4, .other)], 0x0, 0x0, 0x0, 0x0, 0x0, 0x0⟩,
  ⟨0x510000, [(24, 0x8000, .sp), (4096, 0x8, .other)], 0xFF3F83FF, 0x0, 0x0, 0x0, 0x0, 0x0⟩]

/-- Registers of the TUN block. -/
def rowsTun1 : List RegRow := [
  ⟨0x510004, [(24, 0x8000, .sp), (4096, 0x8, .other)], 0x9F000FFF, 0x0, 0x0, 0x0, 0x0, 0x0⟩,
  ⟨0x5D0000, [(1024, 0x10, .other), (4, 0x4, .other)], 0x0, 0x0, 0x0, 0x0, 0x0, 0x0⟩,
  ⟨0x5E0000, [(4096, 0x10, .other), (4, 0x4, .other)], 0x0, 0x0, 0x0, 0x0, 0x0, 0x0⟩,
  ⟨0x503000, [], 0x7FFFFFF, 0x0, 0x0, 0x0, 0x0, 0x40190⟩,
  ⟨0x503004, [], 0x0, 0x0, 0x7, 0x0, 0x0, 0x0⟩,
  ⟨0x503008, [], 0xFFFFFFFF, 0x0, 0x0, 0x0, 0x0, 0xFFFFFFFF⟩,
  ⟨0x50300C, [], 0xFFFFFFFF, 0x0, 0x0, 0x0, 0x0, 0xFFFFFFFF⟩,
  ⟨0x503020, [(8, 0x4, .pcie)], 0x0, 0x0, 0x0, 0x0, 0x0, 0x0⟩,
  ⟨0x503040, [(8, 0x4, .pcie)], 0x8000007F, 0x0, 0x0, 0x0, 0x0, 0x10⟩,
  ⟨0x503060, [], 0x8000007F, 0x0, 0x0, 0x0, 0x0, 0x10⟩,
  ⟨0x503080, [(16, 0x4, .sp)], 0x1FFFF, 0x0, 0x0, 0x0, 0x0, 0x800⟩,
  ⟨0x5030C0, [(16, 0x4, .sp)], 0x0, 0x0, 0x0, 0x0, 0x0, 0x0⟩,
  ⟨0x503100, [], 0x0, 0x0, 0x0, 0x0, 0x0, 0x0⟩,
  ⟨0x503104, [], 0x0, 0x0, 0x0, 0x0, 0x0, 0x0⟩,
  ⟨0x503108, [], 0x0, 0x0, 0x0, 0x0, 0x0, 0x0⟩,
  ⟨0x50310C, [], 0x0, 0x0, 0x0, 0x0, 0x0, 0x0⟩,
  ⟨0x503110, [], 0x0, 0x0, 0x0, 0x0, 0x0, 0x0⟩,
  ⟨0x503114, [], 0x0, 0x0, 0x0, 0x0, 0x0, 0x0⟩,
  ⟨0x503118, [], 0x0, 0x0, 0x0, 0x0, 0x0, 0x0⟩,
  ⟨0x50311C, [], 0x0, 0x0, 0x0, 0x0, 0x0, 0x0⟩,
  ⟨0x503400, [(64, 0x8, .dock)], 0x0, 0x0, 0x0, 0x0, 0x0, 0x0⟩,
  ⟨0x503404, [(64, 0x8, .dock)], 0x0, 0x0, 0x0, 0x0, 0x0, 0x0⟩,
  ⟨0x5F0000, [(64, 0x400, .dock), (64, 0x10, .other), (4, 0x4, .other)], 0x0, 0x0, 0x0, 0x0, 0x0, 0x0⟩]

/-- Registers of the TUN block. -/
def rowsTun : List RegRow := rowsTun0 ++ rowsTun1

/-- Registers of the SWC block. -/
def rowsSwc0 : List RegRow := [
  ⟨0x600000, [], 0x1FFFFFFF, 0x0, 0x0, 0x0, 0x0, 0x4001000⟩,
  ⟨0x600004, [], 0x0, 0x0, 0x1F, 0x0, 0x0, 0x0⟩,
  ⟨0x600008, [], 0x0, 0x0, 0x0, 0x0, 0x0, 0x37000⟩,
  ⟨0x60000C, [], 0x0, 0x0, 0x0, 0x0, 0x0, 0x37000⟩,
  ⟨0x600020, [], 0x7F03FF, 0x0, 0x0, 0x0, 0x0, 0x0⟩,
  ⟨0x600024, [], 0x0, 0x0, 0x0, 0x0, 0x0, 0x0⟩,
  ⟨0x600030, [], 0xFFFFFF, 0x0, 0x0, 0x0, 0x0, 0x101000⟩,
  ⟨0x600034, [], 0x0, 0x0, 0x0, 0x0, 0x0, 0x0⟩,
  ⟨0x600100, [(24, 0x20, .sp)], 0x8007FFFF, 0x0, 0x0, 0x0, 0x0, 0x80004000⟩,
  ⟨0x600104, [(24, 0x20, .sp)], 0xFFFF, 0x0, 0x0, 0x0, 0x0, 0x800⟩,
  ⟨0x600108, [(24, 0x20, .sp)], 0x3FFFFF, 0x0, 0x0, 0x0, 0x0, 0x0⟩,
  ⟨0x60010C, [(24, 0x20, .sp)], 0x0, 0x0, 0x0, 0x0, 0x0, 0x0⟩,
  ⟨0x600110, [(24, 0x20, .sp)], 0x0, 0x0, 0x0, 0x0, 0x0, 0x0⟩,
  ⟨0x600114, [(24, 0x20, .sp)], 0x0, 0x0, 0x0, 0x0, 0x0, 0x0⟩,
  ⟨0x600118, [(24, 0x20, .sp)], 0x0, 0x0, 0x0, 0x0, 0x0, 0x0⟩,
  ⟨0x600800, [(24, 0x20, .sp)], 0x0, 0x0, 0x0, 0x0, 0x0, 0x0⟩,
  ⟨0x600804, [(24, 0x20, .sp)], 0x0, 0x0, 0x0, 0x0, 0x0, 0x0⟩,
  ⟨0x600808, [(24, 0x20, .sp)], 0x0, 0x0, 0x0, 0x0, 0x0, 0x0⟩,
  ⟨0x60080C, [(24, 0x20, .sp)], 0x0, 0x0, 0x0, 0x0, 0x0, 0x0⟩,
  ⟨0x600810, [(24, 0x20, .sp)], 0x0, 0x0, 0x0, 0x0, 0x0, 0x0⟩,
  ⟨0x600814, [(24, 0x20, .sp)], 0x0, 0x0, 0x0, 0x0, 0x0, 0x0⟩,
  ⟨0x600818, [(24, 0x20, .sp)], 0x0, 0x0, 0x0, 0x0, 0x0, 0x0⟩,
  ⟨0x603000, [(64, 0x4, .dock)], 0x0, 0x0, 0x0, 0x0, 0x0, 0x0⟩,
  ⟨0x604000, [(64, 0x40, .dock), (16, 0x4, .other)], 0x0, 0x0, 0x0, 0x0, 0x0, 0x0⟩]

/-- Registers of the SWC block. -/
def rowsSwc1 : List RegRow := [
  ⟨0x610000, [(4096, 0x4, .queue)], 0x8007FFFF, 0x0, 0x0, 0x0, 0x0, 0x80000000⟩,
  ⟨0x620000, [(4096, 0x8, .queue)], 0x0, 0x0, 0x0, 0x0, 0x0, 0x0⟩,
  ⟨0x620004, [(4096, 0x8, .queue)], 0x0, 0x0, 0x0, 0x0, 0x0, 0x0⟩]

/-- Registers of the SWC block. -/
def rowsSwc : List RegRow := rowsSwc0 ++ rowsSwc1

/-- Registers of the TMG block. -/
def rowsTmg0 : List RegRow := [
  ⟨0x700000, [], 0xFFFFFF, 0x0, 0x0, 0x0, 0x0, 0x0⟩,
  ⟨0x700004, [], 0x0, 0x0, 0x7, 0x0, 0x0, 0x0⟩,
  ⟨0x700008, [], 0x0, 0x0, 0x0, 0x0, 0x0, 0x0⟩,
  ⟨0x70000C, [], 0x0, 0x0, 0x0, 0x0, 0x0, 0x0⟩,
  ⟨0x700010, [], 0x0, 0x0, 0x0, 0x0, 0x0, 0xC350⟩,
  ⟨0x700100, [(21, 0x10, .sp)], 0x100FF, 0x0, 0x0, 0x0, 0x0, 0x0⟩,
  ⟨0x700104, [(21, 0x10, .sp)], 0x0, 0x0, 0x0, 0x0, 0x0, 0x0⟩,
  ⟨0x710000, [(64, 0x800, .dock), (21, 0x40, .sp), (8, 0x4, .other)], 0xFFFF, 0x0, 0x0, 0x0, 0x0, 0x1⟩,
  ⟨0x710020, [(64, 0x800, .dock), (21, 0x40, .sp)], 0xFFFF, 0x0, 0x0, 0x0, 0x0, 0x1⟩,
  ⟨0x730000, [(64, 0x400, .dock), (21, 0x20, .sp)], 0xFFFFFFFF, 0x0, 0x0, 0x0, 0x0, 0x0⟩,
  ⟨0x730004, [(64, 0x400, .dock), (21, 0x20, .sp)], 0xFFFFFFFF, 0x0, 0x0, 0x0, 0x0, 0x0⟩,
  ⟨0x730008, [(64, 0x400, .dock), (21, 0x20, .sp)], 0x7FFFFFFF, 0x0, 0x0, 0x0, 0x0, 0x0⟩,
  ⟨0x73000C, [(64, 0x400, .dock), (21, 0x20, .sp)], 0xFFFFFFFF, 0x0, 0x0, 0x0, 0x0, 0x0⟩,
  ⟨0x730010, [(64, 0x400, .dock), (21, 0x20, .sp)], 0x3, 0x0, 0x0, 0x0, 0x3, 0x0⟩,
  ⟨0x740000, [(4096, 0x20, .queue)], 0xFFFFFFFF, 0x0, 0x0, 0x0, 0x0, 0x0⟩,
  ⟨0x740004, [(4096, 0x20, .queue)], 0xFFFFFFFF, 0x0, 0x0, 0x0, 0x0, 0x0⟩,
  ⟨0x740008, [(4096, 0x20, .queue)], 0x7FFFFFFF, 0x0, 0x0, 0x0, 0x0, 0x0⟩,
  ⟨0x74000C, [(4096, 0x20, .queue)], 0xFFFFFFFF, 0x0, 0x0, 0x0, 0x0, 0x0⟩,
  ⟨0x740010, [(4096, 0x20, .queue)], 0x3, 0x0, 0x0, 0x0, 0x3, 0x0⟩,
  ⟨0x760000, [(4096, 0x4, .queue)], 0x0, 0x0, 0x0, 0x0, 0x0, 0x0⟩,
  ⟨0x764000, [(64, 0x80, .dock), (21, 0x4, .sp)], 0x0, 0x0, 0x0, 0x0, 0x0, 0x0⟩,
  ⟨0x788000, [(1024, 0x4, .other)], 0x0, 0x0, 0x0, 0x0, 0x0, 0x0⟩,
  ⟨0x770000, [(4096, 0x4, .queue)], 0x80073F1F, 0x0, 0x0, 0x0, 0x0, 0x0⟩,
  ⟨0x774000, [(4096, 0x4, .queue)], 0x0, 0x0, 0x0, 0x0, 0x0, 0x0⟩]

/-- Registers of the TMG block. -/
def rowsTmg1 : List RegRow := [
  ⟨0x780000, [(1024, 0x20, .other)], 0xFFFFFFFF, 0x0, 0x0, 0x0, 0x0, 0x0⟩,
  ⟨0x780004, [(1024, 0x20, .other)], 0xFFFFFFFF, 0x0, 0x0, 0x0, 0x0, 0x0⟩,
  ⟨0x780008, [(1024, 0x20, .other)], 0x7FFFFFFF, 0x0, 0x0, 0x0, 0x0, 0x0⟩,
  ⟨0x78000C, [(1024, 0x20, .other)], 0xFFFFFFFF, 0x0, 0x0, 0x0, 0x0, 0x0⟩,
  ⟨0x780010, [(1024, 0x20, .other)], 0x31F, 0x0, 0x0, 0x0, 0x0, 0x0⟩,
  ⟨0x790000, [(1024, 0x8, .other)], 0x0, 0x0, 0x0, 0x0, 0x0, 0x0⟩,
  ⟨0x790004, [(1024, 0x8, .other)], 0x0, 0x0, 0x0, 0x0, 0x0, 0x0⟩,
  ⟨0x7A0000, [(4096, 0x8, .queue)], 0x0, 0x0, 0x0, 0x0, 0x0, 0x0⟩,
  ⟨0x7A0004, [(4096, 0x8, .queue)], 0x0, 0x0, 0x0, 0x0, 0x0, 0x0⟩,
  ⟨0x7B0000, [(21, 0x10, .sp)], 0x0, 0x0, 0x0, 0x0, 0x0, 0x0⟩,
  ⟨0x7B0004, [(21, 0x10, .sp)], 0x0, 0x0, 0x0, 0x0, 0x0, 0x0⟩,
  ⟨0x7B0008, [(21, 0x10, .sp)], 0x0, 0x0, 0x0, 0x0, 0x0, 0x0⟩]

/-- Registers of the TMG block. -/
def rowsTmg : List RegRow := rowsTmg0 ++ rowsTmg1

/-- Registers of the DSP block. -/
def rowsDsp0 : List RegRow := [
  ⟨0x800000, [(8, 0x10000, .output)], 0x0, 0x0, 0x0, 0x0, 0x0, 0x0⟩,
  ⟨0x800004, [(8, 0x10000, .output)], 0x0, 0x0, 0xFF, 0x0, 0x0, 0x0⟩,
  ⟨0x800008, [(8, 0x10000, .output)], 0x0, 0x0, 0x0, 0x0, 0x0, 0x0⟩,
  ⟨0x80000C, [(8, 0x10000, .output)], 0x0, 0x0, 0x0, 0x1, 0x0, 0x0⟩,
  ⟨0x800010, [(8, 0x10000, .output)], 0x1FF, 0x0, 0x0, 0x0, 0x0, 0x10C⟩,
  ⟨0x800014, [(8, 0x10000, .output)], 0xFFFFFFFF, 0x0, 0x0, 0x0, 0x0, 0x0⟩,
  ⟨0x800018, [(8, 0x10000, .output)], 0xFFFFFFFF, 0x0, 0x0, 0x0, 0x0, 0x0⟩,
  ⟨0x80001C, [(8, 0x10000, .output)], 0xFFFFFFFF, 0x0, 0x0, 0x0, 0x0, 0x0⟩,
  ⟨0x800020, [(8, 0x10000, .output)], 0xFFFFFFFF, 0x0, 0x0, 0x0, 0x0, 0x0⟩,
  ⟨0x800024, [(8, 0x10000, .output)], 0xFFFFFFFF, 0x0, 0x0, 0x0, 0x0, 0x0⟩,
  ⟨0x800028, [(8, 0x10000, .output)], 0x3FFFFFFF, 0x0, 0x0, 0x0, 0x0, 0x0⟩,
  ⟨0x80002C, [(8, 0x10000, .output)], 0x1F03FF, 0x0, 0x0, 0x0, 0x0, 0x400C0⟩,
  ⟨0x800030, [(8, 0x10000, .output)], 0xFFFF, 0x0, 0x0, 0x0, 0x0, 0x10⟩,
  ⟨0x800100, [(8, 0x10000, .output), (8, 0x40, .other)], 0xBF03FF0F, 0x0, 0x0, 0x0, 0x0, 0x2FF00⟩,
  ⟨0x800104, [(8, 0x10000, .output), (8, 0x40, .other)], 0xFFFFFFFF, 0x0, 0x0, 0x0, 0x0, 0x0⟩,
  ⟨0x800108, [(8, 0x10000, .output), (8, 0x40, .other)], 0xFFFFFFFF, 0x0, 0x0, 0x0, 0x0, 0x0⟩,
  ⟨0x80010C, [(8, 0x10000, .output), (8, 0x40, .other)], 0xFFFFFFFF, 0x0, 0x0, 0x0, 0x0, 0x0⟩,
  ⟨0x800110, [(8, 0x10000, .output), (8, 0x40, .other)], 0xFFFFFFFF, 0x0, 0x0, 0x0, 0x0, 0x0⟩,
  ⟨0x800118, [(8, 0x10000, .output), (8, 0x40, .other)], 0xFFFFFFFF, 0x0, 0x0, 0x0, 0x0, 0x0⟩,
  ⟨0x800114, [(8, 0x10000, .output), (8, 0x40, .other)], 0xFFFFFFFF, 0x0, 0x0, 0x0, 0x0, 0x0⟩,
  ⟨0x80011C, [(8, 0x10000, .output), (8, 0x40, .other)], 0xFFFFFFFF, 0x0, 0x0, 0x0, 0x0, 0x0⟩,
  ⟨0x800120, [(8, 0x10000, .output), (8, 0x40, .other)], 0xFFFFFFFF, 0x0, 0x0, 0x0, 0x0, 0x0⟩,
  ⟨0x800124, [(8, 0x10000, .output), (8, 0x40, .other)], 0xFFFFFFFF, 0x0, 0x0, 0x0, 0x0, 0x0⟩,
  ⟨0x800128, [(8, 0x10000, .output), (8, 0x40, .other)], 0xFFFFFFFF, 0x0, 0x0, 0x0, 0x0, 0x0⟩]

/-- Registers of the DSP block. -/
def rowsDsp1 : List RegRow := [
  ⟨0x80012C, [(8, 0x10000, .output), (8, 0x40, .other)], 0xFFFFFFFF, 0x0, 0x0, 0x0, 0x0, 0x0⟩,
  ⟨0x800130, [(8, 0x10000, .output), (8, 0x40, .other)], 0xFFFFFFFF, 0x0, 0x0, 0x0, 0x0, 0x0⟩,
  ⟨0x800134, [(8, 0x10000, .output), (8, 0x40, .other)], 0xFFFFFFFF, 0x0, 0x0, 0x0, 0x0, 0x0⟩,
  ⟨0x800138, [(8, 0x10000, .output), (8, 0x40, .other)], 0xFFFFFFFF, 0x0, 0x0, 0x0, 0x0, 0x0⟩,
  ⟨0x80013C, [(8, 0x10000, .output), (8, 0x40, .other)], 0x0, 0x0, 0x0, 0x0, 0x0, 0x0⟩,
  ⟨0x800400, [(8, 0x10000, .output), (16, 0x20, .other)], 0x3FFF0F, 0x0, 0x0, 0x0, 0x0, 0x100⟩,
  ⟨0x800404, [(8, 0x10000, .output), (16, 0x20, .other)], 0xFFFFFFFF, 0x0, 0x0, 0x0, 0x0, 0x0⟩,
  ⟨0x800408, [(8, 0x10000, .output), (16, 0x20, .other)], 0xFFFFFFFF, 0x0, 0x0, 0x0, 0x0, 0x0⟩,
  ⟨0x80040C, [(8, 0x10000, .output), (16, 0x20, .other)], 0xFFFFFFFF, 0x0, 0x0, 0x0, 0x0, 0x0⟩,
  ⟨0x800410, [(8, 0x10000, .output), (16, 0x20, .other)], 0x0, 0x0, 0x0, 0x0, 0x0, 0x0⟩,
  ⟨0x800414, [(8, 0x10000, .output), (16, 0x20, .other)], 0x0, 0x0, 0x0, 0x0, 0x0, 0x0⟩,
  ⟨0x800418, [(8, 0x10000, .output), (16, 0x20, .other)], 0x0, 0x0, 0x0, 0x0, 0x0, 0x0⟩,
  ⟨0x801000, [(8, 0x10000, .output), (64, 0x10, .other), (4, 0x4, .other)], 0xFFF0FFF, 0x0, 0x0, 0x0, 0x0, 0x0⟩,
  ⟨0x801400, [(8, 0x10000, .output), (64, 0x10, .other), (4, 0x4, .other)], 0xFFF0FFF, 0x0, 0x0, 0x0, 0x0, 0x0⟩,
  ⟨0x800300, [(8, 0x10000, .output)], 0x0, 0xFF0FFFFF, 0x0, 0x0, 0x80000000, 0x0⟩,
  ⟨0x800304, [(8, 0x10000, .output)], 0x0, 0x0, 0x0, 0x0, 0x0, 0x0⟩,
  ⟨0x800310, [(8, 0x10000, .output), (4, 0x4, .other)], 0x0, 0xFFFFFFFF, 0x0, 0x0, 0x0, 0x0⟩,
  ⟨0x800080, [(8, 0x10000, .output)], 0x0, 0x0, 0x0, 0x0, 0x0, 0x0⟩,
  ⟨0x800084, [(8, 0x10000, .output)], 0x0, 0x0, 0x0, 0x0, 0x0, 0x0⟩,
  ⟨0x800088, [(8, 0x10000, .output)], 0x0, 0x0, 0x0, 0x0, 0x0, 0x0⟩,
  ⟨0x80008C, [(8, 0x10000, .output)], 0x0, 0x0, 0x0, 0x0, 0x0, 0x0⟩,
  ⟨0x800090, [(8, 0x10000, .output)], 0x0, 0x0, 0x0, 0x0, 0x0, 0x0⟩,
  ⟨0x880000, [], 0x8000FFFF, 0x0, 0x0, 0x0, 0x0, 0x320⟩,
  ⟨0x880004, [], 0x0, 0x0, 0x0, 0x0, 0x0, 0x0⟩]

/-- Registers of the DSP block. -/
def rowsDsp2 : List RegRow := [
  ⟨0x880008, [], 0x0, 0x0, 0x0, 0x0, 0x0, 0x0⟩,
  ⟨0x881000, [(64, 0x100, .dock), (16, 0x10, .other)], 0xFFFFF, 0x0, 0x0, 0x0, 0x0, 0x0⟩,
  ⟨0x881004, [(64, 0x100, .dock), (16, 0x10, .other)], 0xFFFFF, 0x0, 0x0, 0x0, 0x0, 0x0⟩,
  ⟨0x881008, [(64, 0x100, .dock), (16, 0x10, .other)], 0x1FFFFF, 0x0, 0x0, 0x0, 0x0, 0x0⟩]

/-- Registers of the DSP block. -/
def rowsDsp : List RegRow := rowsDsp0 ++ rowsDsp1 ++ rowsDsp2

/-- Registers of the USB block. -/
def rowsUsb : List RegRow := [
  ⟨0x900000, [], 0xFF, 0x0, 0x0, 0x0, 0x0, 0x14⟩,
  ⟨0x900004, [], 0x0, 0x0, 0xF, 0x0, 0x0, 0x0⟩,
  ⟨0x900008, [], 0x0, 0x0, 0x0, 0x0, 0x0, 0x80000⟩,
  ⟨0x900010, [], 0xFFFFFFFF, 0x0, 0x0, 0x0, 0x0, 0xFFFFFFFF⟩,
  ⟨0x900014, [], 0xFFFFFFFF, 0x0, 0x0, 0x0, 0x0, 0xFFFFFFFF⟩,
  ⟨0x900100, [(16, 0x10, .usb)], 0x80000F3F, 0x0, 0x0, 0x0, 0x0, 0x0⟩,
  ⟨0x900104, [(16, 0x10, .usb)], 0x3, 0x0, 0x0, 0x0, 0x0, 0x1⟩,
  ⟨0x900108, [(16, 0x10, .usb)], 0x0, 0x0, 0x0, 0x0, 0x0, 0x0⟩,
  ⟨0x901000, [(256, 0x10, .other)], 0x8000003F, 0x0, 0x0, 0x0, 0x0, 0x0⟩,
  ⟨0x901004, [(256, 0x10, .other)], 0x7FFFF, 0x0, 0x0, 0x0, 0x0, 0x0⟩,
  ⟨0x901008, [(256, 0x10, .other)], 0x7FFFF, 0x0, 0x0, 0x0, 0x0, 0x0⟩,
  ⟨0x90100C, [(256, 0x10, .other)], 0x0, 0x0, 0x0, 0x0, 0x0, 0x0⟩,
  ⟨0x902000, [(64, 0x10, .dock)], 0x31F, 0x0, 0x0, 0x0, 0x0, 0x10⟩,
  ⟨0x902004, [(64, 0x10, .dock)], 0x0, 0x0, 0x0, 0x0, 0x0, 0x0⟩,
  ⟨0x902008, [(64, 0x10, .dock)], 0x0, 0x0, 0x0, 0x0, 0x0, 0x0⟩,
  ⟨0x90200C, [(64, 0x10, .dock)], 0x0, 0x0, 0x0, 0x0, 0x0, 0x0⟩,
  ⟨0x900040, [], 0x0, 0x0, 0x0, 0x0, 0x0, 0x0⟩,
  ⟨0x900044, [], 0x0, 0x0, 0x0, 0x0, 0x0, 0x0⟩,
  ⟨0x900048, [], 0x0, 0x0, 0x0, 0x0, 0x0, 0x0⟩,
  ⟨0x90004C, [], 0x0, 0x0, 0x0, 0x0, 0x0, 0x0⟩,
  ⟨0x900050, [], 0x0, 0x0, 0x0, 0x0, 0x0, 0x0⟩,
  ⟨0x900054, [], 0x0, 0x0, 0x0, 0x0, 0x0, 0x0⟩,
  ⟨0x900058, [], 0x0, 0x0, 0x0, 0x0, 0x0, 0x0⟩]

/-- Registers of the VDK block. -/
def rowsVdk : List RegRow := [
  ⟨0xA00000, [(64, 0x1000, .dock)], 0x800000FF, 0x0, 0x0, 0x0, 0x0, 0x0⟩,
  ⟨0xA00004, [(64, 0x1000, .dock)], 0x1FFF1FFF, 0x0, 0x0, 0x0, 0x0, 0x0⟩,
  ⟨0xA00008, [(64, 0x1000, .dock)], 0x7FF07FF, 0x0, 0x0, 0x0, 0x0, 0x0⟩,
  ⟨0xA00010, [(64, 0x1000, .dock)], 0x0, 0x0, 0x0, 0x0, 0x0, 0x0⟩,
  ⟨0xA00014, [(64, 0x1000, .dock)], 0x0, 0x0, 0x0, 0x0, 0x0, 0x0⟩,
  ⟨0xA00018, [(64, 0x1000, .dock)], 0x0, 0x0, 0x0, 0x0, 0x0, 0x0⟩,
  ⟨0xA00020, [(64, 0x1000, .dock)], 0x0, 0x1, 0x0, 0x0, 0x0, 0x0⟩,
  ⟨0xA00024, [(64, 0x1000, .dock)], 0x0, 0x0, 0x0, 0x0, 0x0, 0x0⟩,
  ⟨0xA00028, [(64, 0x1000, .dock)], 0x0, 0x0, 0x0, 0x0, 0x0, 0x0⟩,
  ⟨0xA0002C, [(64, 0x1000, .dock)], 0x0, 0x0, 0x0, 0x0, 0x0, 0x0⟩,
  ⟨0xA00030, [(64, 0x1000, .dock)], 0x0, 0x0, 0x0, 0x0, 0x0, 0x0⟩,
  ⟨0xA00034, [(64, 0x1000, .dock)], 0x0, 0x0, 0x0, 0x0, 0x0, 0x0⟩,
  ⟨0xA00040, [(64, 0x1000, .dock)], 0x0, 0x0, 0x0, 0x0, 0x0, 0x0⟩,
  ⟨0xA00044, [(64, 0x1000, .dock)], 0x0, 0x0, 0x0, 0x0, 0x0, 0x0⟩,
  ⟨0xA00048, [(64, 0x1000, .dock)], 0x0, 0x0, 0x0, 0x0, 0x0, 0x0⟩,
  ⟨0xA80000, [], 0x0, 0x0, 0x0, 0x0, 0x0, 0x0⟩,
  ⟨0xA80004, [], 0x0, 0x0, 0x0, 0x0, 0x0, 0x0⟩,
  ⟨0xA80008, [], 0x0, 0x0, 0x0, 0x0, 0x0, 0x0⟩,
  ⟨0xA8000C, [], 0x0, 0x0, 0x0, 0x0, 0x0, 0x0⟩,
  ⟨0xA80010, [], 0x0, 0x0, 0x0, 0x0, 0x0, 0x0⟩,
  ⟨0xA80014, [], 0x0, 0x0, 0x3F, 0x0, 0x0, 0x0⟩]

/-- Registers of the KEY block. -/
def rowsKey : List RegRow := [
  ⟨0xB00000, [], 0x0, 0x0, 0x0, 0x0, 0x0, 0x0⟩,
  ⟨0xB00004, [], 0x0, 0x0, 0x0, 0x0, 0x0, 0x0⟩,
  ⟨0xB00008, [], 0x0, 0x0, 0x0, 0xFFFFFFFF, 0x0, 0x0⟩,
  ⟨0xB0000C, [], 0x0, 0x0, 0x0, 0xFFFFFFFF, 0x0, 0x0⟩,
  ⟨0xB00010, [], 0x0, 0x0, 0x3F, 0x0, 0x0, 0x0⟩,
  ⟨0xB00014, [], 0x0, 0x0, 0x0, 0x0, 0x0, 0x0⟩,
  ⟨0xB00018, [], 0x0, 0x0, 0x0, 0x0, 0x0, 0x0⟩,
  ⟨0xB00020, [(8, 0x4, .other)], 0x0, 0x0, 0x0, 0xFFFFFFFF, 0x0, 0x0⟩,
  ⟨0xB00040, [], 0x0, 0x0, 0x0, 0xFFFFFFFF, 0x0, 0x0⟩,
  ⟨0xB00044, [], 0x0, 0x800F03FF, 0x0, 0x0, 0x80000000, 0x0⟩,
  ⟨0xB00080, [], 0x0, 0x0, 0x0, 0x0, 0x0, 0x0⟩,
  ⟨0xB00084, [], 0x0, 0x0, 0x0, 0x0, 0x0, 0x0⟩,
  ⟨0xB00088, [], 0x0, 0x0, 0x0, 0x0, 0x0, 0x0⟩,
  ⟨0xB10000, [(1024, 0x20, .other)], 0x0, 0x0, 0x0, 0x0, 0x0, 0x0⟩,
  ⟨0xB10004, [(1024, 0x20, .other)], 0x0, 0x0, 0x0, 0x0, 0x0, 0x0⟩,
  ⟨0xB10008, [(1024, 0x20, .other)], 0x0, 0x0, 0x0, 0x0, 0x0, 0x0⟩,
  ⟨0xB1000C, [(1024, 0x20, .other)], 0x0, 0x0, 0x0, 0x0, 0x0, 0x0⟩,
  ⟨0xB10010, [(1024, 0x20, .other)], 0x0, 0x0, 0x0, 0x0, 0x0, 0x0⟩,
  ⟨0xB10014, [(1024, 0x20, .other)], 0x0, 0x0, 0x0, 0x0, 0x0, 0x0⟩,
  ⟨0xB10018, [(1024, 0x20, .other)], 0x0, 0x0, 0x0, 0x0, 0x0, 0x0⟩,
  ⟨0xB1001C, [(1024, 0x20, .other)], 0x0, 0x0, 0x0, 0x0, 0x0, 0x0⟩]

/-- Registers of the MEM block. -/
def rowsMem0 : List RegRow := [
  ⟨0xC00000, [], 0x1F0F, 0x0, 0x0, 0x0, 0x0, 0xA0F⟩,
  ⟨0xC00004, [], 0x0, 0x0, 0x1FF, 0x0, 0x0, 0x0⟩,
  ⟨0xC00008, [], 0x0, 0x0, 0x0, 0x0, 0x0, 0x0⟩,
  ⟨0xC0000C, [], 0x0, 0x0, 0x0, 0x0, 0x0, 0x0⟩,
  ⟨0xC00010, [], 0x0, 0x0, 0x0, 0x0, 0x0, 0x0⟩,
  ⟨0xC00020, [], 0xFFFFFFFF, 0x0, 0x0, 0x0, 0x0, 0x0⟩,
  ⟨0xC00024, [], 0xFFFFFFFF, 0x0, 0x0, 0x0, 0x0, 0x0⟩,
  ⟨0xC00060, [(8, 0x4, .other)], 0x0, 0x0, 0x0, 0x0, 0x0, 0x0⟩,
  ⟨0xC00040, [], 0x800000FF, 0x0, 0x0, 0x0, 0x0, 0x80000018⟩,
  ⟨0xC00044, [], 0x0, 0x0, 0x0, 0x0, 0x0, 0x0⟩,
  ⟨0xC00050, [], 0x8000FFFF, 0x0, 0x0, 0x0, 0x0, 0x0⟩,
  ⟨0xC00080, [], 0x0, 0x0, 0x0, 0x0, 0x0, 0x0⟩,
  ⟨0xC00084, [], 0x0, 0x0, 0x0, 0x0, 0x0, 0x0⟩,
  ⟨0xC00088, [], 0x0, 0x0, 0x0, 0x0, 0x0, 0x0⟩,
  ⟨0xC0008C, [], 0x0, 0x0, 0x0, 0x0, 0x0, 0x0⟩,
  ⟨0xC00100, [(8, 0x4, .other)], 0x0, 0x0, 0x0, 0x0, 0x0, 0x0⟩,
  ⟨0xC00120, [], 0x0, 0x0, 0x0, 0x0, 0x0, 0x0⟩,
  ⟨0xC00200, [(53, 0x4, .other)], 0x0, 0x0, 0x0, 0x0, 0x0, 0x0⟩,
  ⟨0xC00400, [(8, 0x20, .channel)], 0x0, 0x0, 0x0, 0x0, 0x0, 0x0⟩,
  ⟨0xC00404, [(8, 0x20, .channel)], 0x0, 0x0, 0x0, 0x0, 0x0, 0x0⟩,
  ⟨0xC00408, [(8, 0x20, .channel)], 0x0, 0x0, 0x0, 0x0, 0x0, 0x0⟩,
  ⟨0xC0040C, [(8, 0x20, .channel)], 0x0, 0x0, 0x0, 0x0, 0x0, 0x0⟩,
  ⟨0xC00410, [(8, 0x20, .channel)], 0x0, 0x0, 0x0, 0x0, 0x0, 0x0⟩,
  ⟨0xC00414, [(8, 0x20, .channel)], 0x0, 0x0, 0x0, 0x0, 0x0, 0x0⟩]

/-- Registers of the MEM block. -/
def rowsMem1 : List RegRow := [
  ⟨0xC10000, [(12, 0x100, .other), (53, 0x4, .other)], 0x0, 0x0, 0x0, 0x0, 0x0, 0x0⟩]

/-- Registers of the MEM block. -/
def rowsMem : List RegRow := rowsMem0 ++ rowsMem1

/-- Registers of the TEL block. -/
def rowsTel0 : List RegRow := [
  ⟨0xD00004, [], 0x0, 0x0, 0xF, 0x0, 0x0, 0x0⟩,
  ⟨0xD00010, [], 0xFFFFFFFF, 0x0, 0x0, 0x0, 0x0, 0x0⟩,
  ⟨0xD00014, [], 0xFFFFFFFF, 0x0, 0x0, 0x0, 0x0, 0x0⟩,
  ⟨0xD00018, [], 0x83FFFFFF, 0x0, 0x0, 0x0, 0x0, 0x400000⟩,
  ⟨0xD00020, [], 0x0, 0x0, 0x0, 0x0, 0x0, 0x0⟩,
  ⟨0xD00024, [], 0x0, 0x0, 0x0, 0x0, 0x0, 0x0⟩,
  ⟨0xD00028, [], 0x0, 0x0, 0x0, 0x0, 0x0, 0x0⟩,
  ⟨0xD0002C, [], 0x0, 0x0, 0x0, 0x0, 0x0, 0x0⟩,
  ⟨0xD00030, [], 0x0, 0xFFFFFFFF, 0x0, 0x0, 0x0, 0xACE10001⟩,
  ⟨0xD00040, [], 0x0, 0x0, 0x0, 0x0, 0x0, 0x0⟩,
  ⟨0xD00044, [], 0x0, 0x0, 0x0, 0x0, 0x0, 0x0⟩,
  ⟨0xD00048, [], 0x0, 0x0, 0x0, 0x0, 0x0, 0x0⟩,
  ⟨0xD0004C, [], 0x0, 0x0, 0x0, 0x0, 0x0, 0x0⟩,
  ⟨0xD00100, [(24, 0x4, .sp)], 0x1F, 0x0, 0x0, 0x0, 0x0, 0x0⟩,
  ⟨0xD00180, [], 0x0, 0x0, 0x0, 0x0, 0x0, 0x0⟩,
  ⟨0xD00200, [(16, 0x10, .other)], 0xFFFFFFFF, 0x0, 0x0, 0x0, 0x0, 0x0⟩,
  ⟨0xD00204, [(16, 0x10, .other)], 0xFFFFFFFF, 0x0, 0x0, 0x0, 0x0, 0x0⟩,
  ⟨0xD00208, [(16, 0x10, .other)], 0xFFFFFFFF, 0x0, 0x0, 0x0, 0x0, 0x0⟩,
  ⟨0xD0020C, [(16, 0x10, .other)], 0xFFFFFFFF, 0x0, 0x0, 0x0, 0x0, 0x0⟩,
  ⟨0xD00800, [(24, 0x40, .sp)], 0x0, 0x0, 0x0, 0x0, 0x0, 0x0⟩,
  ⟨0xD00804, [(24, 0x40, .sp)], 0x0, 0x0, 0x0, 0x0, 0x0, 0x0⟩,
  ⟨0xD00808, [(24, 0x40, .sp)], 0x0, 0x0, 0x0, 0x0, 0x0, 0x0⟩,
  ⟨0xD0080C, [(24, 0x40, .sp)], 0x0, 0x0, 0x0, 0x0, 0x0, 0x0⟩,
  ⟨0xD00810, [(24, 0x40, .sp)], 0x0, 0x0, 0x0, 0x0, 0x0, 0x0⟩]

/-- Registers of the TEL block. -/
def rowsTel1 : List RegRow := [
  ⟨0xD00814, [(24, 0x40, .sp)], 0x0, 0x0, 0x0, 0x0, 0x0, 0x0⟩,
  ⟨0xD00818, [(24, 0x40, .sp)], 0x0, 0x0, 0x0, 0x0, 0x0, 0x0⟩,
  ⟨0xD0081C, [(24, 0x40, .sp)], 0x0, 0x0, 0x0, 0x0, 0x0, 0x0⟩,
  ⟨0xD00820, [(24, 0x40, .sp)], 0x0, 0x0, 0x0, 0x0, 0x0, 0x0⟩,
  ⟨0xD00824, [(24, 0x40, .sp)], 0x0, 0x0, 0x0, 0x0, 0x0, 0x0⟩,
  ⟨0xD10000, [(256, 0x100, .other), (32, 0x8, .other)], 0x0, 0x0, 0x0, 0x0, 0x0, 0x0⟩,
  ⟨0xD10004, [(256, 0x100, .other), (32, 0x8, .other)], 0x0, 0x0, 0x0, 0x0, 0x0, 0x0⟩,
  ⟨0xD20000, [(256, 0x200, .other), (32, 0x10, .other)], 0x8000FFFF, 0x0, 0x0, 0x0, 0x0, 0x0⟩,
  ⟨0xD20004, [(256, 0x200, .other), (32, 0x10, .other)], 0xFFFFFFFF, 0x0, 0x0, 0x0, 0x0, 0x0⟩,
  ⟨0xD20008, [(256, 0x200, .other), (32, 0x10, .other)], 0xFFFFFFFF, 0x0, 0x0, 0x0, 0x0, 0x0⟩]

/-- Registers of the TEL block. -/
def rowsTel : List RegRow := rowsTel0 ++ rowsTel1

/-- Registers of the FLT block. -/
def rowsFlt : List RegRow := [
  ⟨0xE00000, [], 0x0, 0x0, 0xF, 0x0, 0x0, 0x0⟩,
  ⟨0xE00004, [], 0x0, 0x0, 0x0, 0x0, 0x0, 0x0⟩,
  ⟨0xE00008, [], 0x0, 0x0, 0x0, 0x0, 0x0, 0x0⟩,
  ⟨0xE00010, [(2, 0x8, .other)], 0x0, 0x80FFFF3F, 0x0, 0x0, 0x0, 0x6400⟩,
  ⟨0xE00014, [(2, 0x8, .other)], 0x0, 0xFFFFFFFF, 0x0, 0x0, 0x0, 0x0⟩,
  ⟨0xE00020, [(2, 0x4, .other)], 0x0, 0x0, 0x0, 0x0, 0x0, 0x0⟩,
  ⟨0xE00030, [], 0x0, 0x0, 0x0, 0x0, 0x0, 0x0⟩,
  ⟨0xE00034, [], 0x0, 0x0, 0x0, 0x0, 0x0, 0x0⟩,
  ⟨0xE00044, [(17, 0x4, .other)], 0x0, 0xFFFFFFFF, 0x0, 0x0, 0x0, 0x0⟩,
  ⟨0xE00100, [(10, 0x8, .other)], 0xFFFFFFFF, 0x0, 0x0, 0x0, 0x0, 0x0⟩,
  ⟨0xE00200, [(10, 0x40, .other), (8, 0x4, .other)], 0x0, 0x0, 0x0, 0x0, 0x0, 0x0⟩,
  ⟨0xE01000, [(10, 0x400, .other), (256, 0x4, .other)], 0x0, 0x0, 0x0, 0x0, 0x0, 0x0⟩]

/-- Registers of the PWR block. -/
def rowsPwr0 : List RegRow := [
  ⟨0xF00000, [], 0x0, 0x0, 0x0, 0x0, 0x0, 0x0⟩,
  ⟨0xF00004, [], 0x0, 0x0, 0x3FFF, 0x0, 0x0, 0x0⟩,
  ⟨0xF00008, [], 0x0, 0x0, 0x0, 0x0, 0x0, 0x0⟩,
  ⟨0xF00010, [], 0xFFFF, 0x0, 0x0, 0x0, 0x0, 0x5F64⟩,
  ⟨0xF00014, [], 0x0, 0x0, 0x0, 0x0, 0x0, 0x0⟩,
  ⟨0xF00020, [], 0x1FE, 0x0, 0x0, 0x0, 0x0, 0xDE⟩,
  ⟨0xF00024, [], 0xFFFFFFFF, 0x0, 0x0, 0x0, 0x0, 0x0⟩,
  ⟨0xF00028, [], 0xFF03FF, 0x0, 0x0, 0x0, 0x0, 0xA0014⟩,
  ⟨0xF00030, [], 0x0, 0x0, 0x0, 0x0, 0x0, 0x0⟩,
  ⟨0xF00034, [], 0x0, 0x0, 0x0, 0x0, 0x0, 0x0⟩,
  ⟨0xF00038, [], 0x0, 0x0, 0x0, 0x0, 0x0, 0x0⟩,
  ⟨0xF0003C, [], 0x0, 0x0, 0x0, 0x0, 0x0, 0x0⟩,
  ⟨0xF00044, [], 0x800003FF, 0x0, 0x0, 0x0, 0x0, 0x0⟩,
  ⟨0xF00048, [], 0x0, 0x8000003F, 0x40000000, 0x0, 0x80000000, 0x0⟩,
  ⟨0xF00050, [], 0x0, 0x0, 0x0, 0x0, 0x0, 0x0⟩,
  ⟨0xF00054, [], 0x0, 0x0, 0x0, 0x0, 0x0, 0x0⟩,
  ⟨0xF00058, [], 0x0, 0x0, 0x0, 0x0, 0x0, 0x0⟩,
  ⟨0xF00060, [], 0x0, 0x0, 0x0, 0xFFFF0001, 0x0, 0x0⟩,
  ⟨0xF00064, [], 0x0, 0xFFFFFFFF, 0x0, 0x0, 0x0, 0x0⟩,
  ⟨0xF00068, [], 0x0, 0xFFFFFFFF, 0x0, 0x0, 0x0, 0x0⟩,
  ⟨0xF0006C, [], 0x0, 0x0, 0x0, 0x0, 0x0, 0x0⟩,
  ⟨0xF00070, [], 0x0, 0x17F, 0x0, 0x0, 0x0, 0x4E⟩,
  ⟨0xF00080, [], 0xFF, 0x0, 0x0, 0x0, 0x0, 0x32⟩,
  ⟨0xF00090, [(2, 0x10, .other)], 0xFFFFFFFF, 0x0, 0x0, 0x0, 0x0, 0x3E827D8⟩]

/-- Registers of the PWR block. -/
def rowsPwr1 : List RegRow := [
  ⟨0xF00094, [(2, 0x10, .other)], 0x0, 0x0, 0x0, 0x0, 0x0, 0x0⟩,
  ⟨0xF00100, [(9, 0x10, .other)], 0xFFFFFFFF, 0x0, 0x0, 0x0, 0x0, 0x0⟩,
  ⟨0xF00104, [(9, 0x10, .other)], 0xFFFF, 0x0, 0x0, 0x0, 0x0, 0x0⟩,
  ⟨0xF00108, [(9, 0x10, .other)], 0x0, 0x0, 0x0, 0x0, 0x0, 0xFFFF0000⟩,
  ⟨0xF01000, [(24, 0x20, .pwc)], 0xFFFFFFFF, 0x0, 0x0, 0x0, 0x0, 0x3E8⟩,
  ⟨0xF01004, [(24, 0x20, .pwc)], 0x3FFFFFF, 0x0, 0x0, 0x0, 0x0, 0x640201⟩,
  ⟨0xF01008, [(24, 0x20, .pwc)], 0x0, 0x0, 0x0, 0x0, 0x0, 0x0⟩,
  ⟨0xF0100C, [(24, 0x20, .pwc)], 0x0, 0x0, 0x0, 0x0, 0x0, 0x0⟩,
  ⟨0xF01010, [(24, 0x20, .pwc)], 0x0, 0x0, 0x0, 0x0, 0x0, 0x0⟩,
  ⟨0xF01014, [(24, 0x20, .pwc)], 0x0, 0x0, 0x0, 0x0, 0x0, 0x0⟩]

/-- Registers of the PWR block. -/
def rowsPwr : List RegRow := rowsPwr0 ++ rowsPwr1

/-- The rows of the block that holds an address: sixteen blocks of 1 MiB (R32). -/
def blockRows (a : Nat) : List RegRow :=
  match a / 0x100000 with
  | 0 => rowsTop
  | 1 => rowsTim
  | 2 => rowsTrn
  | 3 => rowsLane
  | 4 => rowsTrk
  | 5 => rowsTun
  | 6 => rowsSwc
  | 7 => rowsTmg
  | 8 => rowsDsp
  | 9 => rowsUsb
  | 10 => rowsVdk
  | 11 => rowsKey
  | 12 => rowsMem
  | 13 => rowsTel
  | 14 => rowsFlt
  | 15 => rowsPwr
  | _ => []

abbrev aTopId : Nat := 0x0
abbrev aTopStepping : Nat := 0x4
abbrev aTopVariant : Nat := 0x8
abbrev aTopFuses : Nat := 0xC
abbrev aTopResourcesPort : Nat := 0x10
abbrev aTopResourcesUsb : Nat := 0x14
abbrev aTopResourcesMem : Nat := 0x18
abbrev aTimNowLo : Nat := 0x100000
abbrev aTimNowHi : Nat := 0x100004
abbrev aTimNowFrac : Nat := 0x100008
abbrev aTimEdgesLo : Nat := 0x100010
abbrev aTimEdgesHi : Nat := 0x100014
abbrev aTimStepLo : Nat := 0x100020
abbrev aTimStepHi : Nat := 0x100024
abbrev aTimStepCmd : Nat := 0x100028
abbrev aTimRateAdj : Nat := 0x100030
abbrev aTimRateNow : Nat := 0x100034
abbrev aTimTime1Cfg : Nat := 0x100040
abbrev aTimDiscStatus : Nat := 0x100044
abbrev aTimDiscOffset : Nat := 0x100048
abbrev aTimOverrun : Nat := 0x100050
abbrev aTimEvent : Nat := 0x100054
abbrev aTimTpCfg (i : Nat) : Nat := 0x100080 + i * 0x20
abbrev aTimTpWidth (i : Nat) : Nat := 0x100084 + i * 0x20
abbrev aTimTpAdvance (i : Nat) : Nat := 0x100088 + i * 0x20
abbrev aTimTpSeq (i : Nat) : Nat := 0x10008C + i * 0x20
abbrev aTimHubTag : Nat := 0x1000C0
abbrev aTimPtpCfg : Nat := 0x100100
abbrev aTimPtpClock : Nat := 0x100104
abbrev aTimPtpEpochLo : Nat := 0x100108
abbrev aTimPtpEpochHi : Nat := 0x10010C
abbrev aTimPtpIdLo : Nat := 0x100110
abbrev aTimPtpIdHi : Nat := 0x100114
abbrev aTimPtpUtc : Nat := 0x100118
abbrev aTimAudCfg (i : Nat) : Nat := 0x100140 + i * 0x4
abbrev aTimAudValue (i : Nat) : Nat := 0x100160 + i * 0x4
abbrev aTimFrPeriodLo (i : Nat) : Nat := 0x100200 + i * 0x20
abbrev aTimFrPeriodHi (i : Nat) : Nat := 0x100204 + i * 0x20
abbrev aTimFrStartLo (i : Nat) : Nat := 0x100208 + i * 0x20
abbrev aTimFrStartHi (i : Nat) : Nat := 0x10020C + i * 0x20
abbrev aTimFrCfg (i : Nat) : Nat := 0x100210 + i * 0x20
abbrev aTrnCtl : Nat := 0x200000
abbrev aTrnStatus : Nat := 0x200004
abbrev aTrnCmdTimeout : Nat := 0x200008
abbrev aTrnEvent : Nat := 0x20000C
abbrev aTrnThread (i : Nat) : Nat := 0x200010 + i * 0x4
abbrev aTrnCrCtl (i : Nat) : Nat := 0x200100 + i * 0x20
abbrev aTrnCrTail (i : Nat) : Nat := 0x200104 + i * 0x20
abbrev aTrnCrHead (i : Nat) : Nat := 0x200108 + i * 0x20
abbrev aTrnCrStatus (i : Nat) : Nat := 0x20010C + i * 0x20
abbrev aTrnCcCfg (i : Nat) : Nat := 0x200200 + i * 0x20
abbrev aTrnCcTail (i : Nat) : Nat := 0x200204 + i * 0x20
abbrev aTrnCcHead (i : Nat) : Nat := 0x200208 + i * 0x20
abbrev aTrnTpCfg (i : Nat) : Nat := 0x200300 + i * 0x10
abbrev aTrnTpStart (i : Nat) : Nat := 0x200304 + i * 0x10
abbrev aTrnTpStatus (i : Nat) : Nat := 0x200308 + i * 0x10
abbrev aTrnSemTake (i : Nat) : Nat := 0x200400 + i * 0x4
abbrev aTrnSemGive (i : Nat) : Nat := 0x200480 + i * 0x4
abbrev aTrnSemOwner0 : Nat := 0x200500
abbrev aTrnSemOwner1 : Nat := 0x200504
abbrev aTrnSemBreak : Nat := 0x200508
abbrev aTrnScratch (i : Nat) : Nat := 0x200600 + i * 0x4
abbrev aTrnTxStatus (i : Nat) : Nat := 0x200800 + i * 0x10
abbrev aTrnTxDocksLo (i : Nat) : Nat := 0x200804 + i * 0x10
abbrev aTrnTxDocksHi (i : Nat) : Nat := 0x200808 + i * 0x10
abbrev aTrnTxPorts (i : Nat) : Nat := 0x20080C + i * 0x10
abbrev aTrnTxLife (i : Nat) : Nat := 0x200880 + i * 0x4
abbrev aTrnVintageLo : Nat := 0x200900
abbrev aTrnVintageHi : Nat := 0x200904
abbrev aTrnDigest (i : Nat) : Nat := 0x200910 + i * 0x4
abbrev aTrnDigestKey (i : Nat) : Nat := 0x200920 + i * 0x4
abbrev aTrnDigestCtl : Nat := 0x200940
abbrev aTrnSliceSel : Nat := 0x200980
abbrev aTrnSliceVintageLo : Nat := 0x200984
abbrev aTrnSliceVintageHi : Nat := 0x200988
abbrev aTrnSliceDigest (i : Nat) : Nat := 0x200990 + i * 0x4
abbrev aTrnTxEvent : Nat := 0x2009C0
abbrev aTrnMmioDiscards : Nat := 0x2009C4
abbrev aTrnCommitQueue : Nat := 0x2009C8
abbrev aTrnAppliedTickLo : Nat := 0x2009D0
abbrev aTrnAppliedTickHi : Nat := 0x2009D4
abbrev aTrnDspVintLo (i : Nat) : Nat := 0x200A00 + i * 0x8
abbrev aTrnDspVintHi (i : Nat) : Nat := 0x200A04 + i * 0x8
abbrev aTrkCtl (i : Nat) : Nat := 0x400000 + i * 0x10000
abbrev aTrkStatus (i : Nat) : Nat := 0x400004 + i * 0x10000
abbrev aTrkEvent (i : Nat) : Nat := 0x400008 + i * 0x10000
abbrev aTrkPartnerIdLo (i : Nat) : Nat := 0x400010 + i * 0x10000
abbrev aTrkPartnerIdHi (i : Nat) : Nat := 0x400014 + i * 0x10000
abbrev aTrkPartnerCap (i : Nat) : Nat := 0x400018 + i * 0x10000
abbrev aTrkLaneMap (i : Nat) : Nat := 0x40001C + i * 0x10000
abbrev aTrkVcCredit0 (i : Nat) : Nat := 0x400020 + i * 0x10000
abbrev aTrkVcCredit1 (i : Nat) : Nat := 0x400024 + i * 0x10000
abbrev aTrkReplayCfg (i : Nat) : Nat := 0x400030 + i * 0x10000
abbrev aTrkIdleCfg (i : Nat) : Nat := 0x400034 + i * 0x10000
abbrev aTrkKeyGrace (i : Nat) : Nat := 0x400038 + i * 0x10000
abbrev aTrkSeq (i : Nat) : Nat := 0x400040 + i * 0x10000
abbrev aTrkReplayStatus (i : Nat) : Nat := 0x400044 + i * 0x10000
abbrev aTrkCntFecCorrLo (i : Nat) : Nat := 0x400050 + i * 0x10000
abbrev aTrkCntFecCorrHi (i : Nat) : Nat := 0x400054 + i * 0x10000
abbrev aTrkCntFecUncorr (i : Nat) : Nat := 0x400058 + i * 0x10000
abbrev aTrkCntReplay (i : Nat) : Nat := 0x40005C + i * 0x10000
abbrev aTrkCntGcmFail (i : Nat) : Nat := 0x400060 + i * 0x10000
abbrev aTrkCntGcmReplay (i : Nat) : Nat := 0x400064 + i * 0x10000
abbrev aTrkCntDrop (i : Nat) : Nat := 0x400068 + i * 0x10000
abbrev aTrkCntLost (i : Nat) : Nat := 0x40006C + i * 0x10000
abbrev aTrkTokenOffset (i : Nat) : Nat := 0x400070 + i * 0x10000
abbrev aTrkTokenDelay (i : Nat) : Nat := 0x400074 + i * 0x10000
abbrev aTrkTokenSeq (i : Nat) : Nat := 0x400078 + i * 0x10000
abbrev aLaneStatus (i : Nat) : Nat := 0x300000 + i * 0x1000
abbrev aLaneCtl (i : Nat) : Nat := 0x300004 + i * 0x1000
abbrev aLaneTxFfe (i : Nat) : Nat := 0x300008 + i * 0x1000
abbrev aLaneTxFfeOvr (i : Nat) : Nat := 0x30000C + i * 0x1000
abbrev aLaneCtle (i : Nat) : Nat := 0x300010 + i * 0x1000
abbrev aLaneDfe0 (i : Nat) : Nat := 0x300014 + i * 0x1000
abbrev aLaneDfe1 (i : Nat) : Nat := 0x300018 + i * 0x1000
abbrev aLaneDfe2 (i : Nat) : Nat := 0x30001C + i * 0x1000
abbrev aLaneDfe3 (i : Nat) : Nat := 0x300020 + i * 0x1000
abbrev aLaneSeedLo (i : Nat) (j : Nat) : Nat := 0x300040 + i * 0x1000 + j * 0x8
abbrev aLaneSeedHi (i : Nat) (j : Nat) : Nat := 0x300044 + i * 0x1000 + j * 0x8
abbrev aLaneLoop (i : Nat) : Nat := 0x300080 + i * 0x1000
abbrev aLanePatCfg (i : Nat) : Nat := 0x300090 + i * 0x1000
abbrev aLanePatUserLo (i : Nat) : Nat := 0x300094 + i * 0x1000
abbrev aLanePatUserHi (i : Nat) : Nat := 0x300098 + i * 0x1000
abbrev aLanePatErrLo (i : Nat) : Nat := 0x3000A0 + i * 0x1000
abbrev aLanePatErrHi (i : Nat) : Nat := 0x3000A4 + i * 0x1000
abbrev aLanePatBitsLo (i : Nat) : Nat := 0x3000A8 + i * 0x1000
abbrev aLanePatBitsHi (i : Nat) : Nat := 0x3000AC + i * 0x1000
abbrev aLaneScanCfg (i : Nat) : Nat := 0x300200 + i * 0x1000
abbrev aLaneScanStatus (i : Nat) : Nat := 0x300204 + i * 0x1000
abbrev aLaneCntCorr (i : Nat) : Nat := 0x300240 + i * 0x1000
abbrev aLaneCntUncorr (i : Nat) : Nat := 0x300244 + i * 0x1000
abbrev aLaneCntLockLoss (i : Nat) : Nat := 0x300248 + i * 0x1000
abbrev aLaneCntTrainFail (i : Nat) : Nat := 0x30024C + i * 0x1000
abbrev aLaneCntIdleExit (i : Nat) : Nat := 0x300250 + i * 0x1000
abbrev aLaneRetired (i : Nat) : Nat := 0x380000 + i * 0x4
abbrev aLaneBucketCfg : Nat := 0x380010
abbrev aLaneScans : Nat := 0x380014
abbrev aLaneEvent : Nat := 0x380018
abbrev aTunCfg : Nat := 0x500000
abbrev aTunEvent : Nat := 0x500004
abbrev aTunTags : Nat := 0x500008
abbrev aTunEntries : Nat := 0x50000C
abbrev aTunHfId : Nat := 0x500010
abbrev aTunHfSubsys : Nat := 0x500014
abbrev aTunCntNoRoute : Nat := 0x500020
abbrev aTunCntTypeErr : Nat := 0x500024
abbrev aTunCntUnexpCpl : Nat := 0x500028
abbrev aTunCntTagWait : Nat := 0x50002C
abbrev aTunCntEthNoclass : Nat := 0x500030
abbrev aTunCntEthReplDrop : Nat := 0x500034
abbrev aTunCntEthSrcDrop : Nat := 0x500038
abbrev aTunCntMoveDrop : Nat := 0x50003C
abbrev aTunHello (i : Nat) : Nat := 0x500080 + i * 0x4
abbrev aTunEthPort (i : Nat) : Nat := 0x500100 + i * 0x4
abbrev aTunHfCfg (i : Nat) : Nat := 0x500200 + i * 0x4
abbrev aTunDbPending (i : Nat) : Nat := 0x500400 + i * 0x4
abbrev aTunFan (i : Nat) (j : Nat) : Nat := 0x500800 + i * 0x20 + j * 0x4
abbrev aTunEthcMacLo (i : Nat) (j : Nat) : Nat := 0x501000 + i * 0x40 + j * 0x10
abbrev aTunEthcMacHi (i : Nat) (j : Nat) : Nat := 0x501004 + i * 0x40 + j * 0x10
abbrev aTunEthcCtl (i : Nat) (j : Nat) : Nat := 0x501008 + i * 0x40 + j * 0x10
abbrev aTunDb (i : Nat) (j : Nat) : Nat := 0x502000 + i * 0x20 + j * 0x4
abbrev aTunT (i : Nat) (j : Nat) : Nat := 0x510000 + i * 0x8000 + j * 0x8
abbrev aTunR (i : Nat) (j : Nat) : Nat := 0x510004 + i * 0x8000 + j * 0x8
abbrev aTunDev (i : Nat) (j : Nat) : Nat := 0x5D0000 + i * 0x10 + j * 0x4
abbrev aTunTag (i : Nat) (j : Nat) : Nat := 0x5E0000 + i * 0x10 + j * 0x4
abbrev aTunBrgCfg : Nat := 0x503000
abbrev aTunBrgEvent : Nat := 0x503004
abbrev aTunVswId : Nat := 0x503008
abbrev aTunVswSubsys : Nat := 0x50300C
abbrev aTunBrgLock (i : Nat) : Nat := 0x503020 + i * 0x4
abbrev aTunPf (i : Nat) : Nat := 0x503040 + i * 0x4
abbrev aTunPfAper : Nat := 0x503060
abbrev aTunCplpool (i : Nat) : Nat := 0x503080 + i * 0x4
abbrev aTunCpluse (i : Nat) : Nat := 0x5030C0 + i * 0x4
abbrev aTunCntLockBreak : Nat := 0x503100
abbrev aTunCntCplTimeout : Nat := 0x503104
abbrev aTunCntCplDiscard : Nat := 0x503108
abbrev aTunCntCplPoolWait : Nat := 0x50310C
abbrev aTunCntPfHit : Nat := 0x503110
abbrev aTunCntPfDiscard : Nat := 0x503114
abbrev aTunCntSplit : Nat := 0x503118
abbrev aTunCntPostedErr : Nat := 0x50311C
abbrev aTunPelCount (i : Nat) : Nat := 0x503400 + i * 0x8
abbrev aTunPelOverflow (i : Nat) : Nat := 0x503404 + i * 0x8
abbrev aTunPel (i : Nat) (j : Nat) (k : Nat) : Nat := 0x5F0000 + i * 0x400 + j * 0x10 + k * 0x4
abbrev aSwcCfg : Nat := 0x600000
abbrev aSwcEvent : Nat := 0x600004
abbrev aSwcShared : Nat := 0x600008
abbrev aSwcFree : Nat := 0x60000C
abbrev aSwcSpill : Nat := 0x600020
abbrev aSwcSpillUsed : Nat := 0x600024
abbrev aSwcFenceCfg : Nat := 0x600030
abbrev aSwcFenceStatus : Nat := 0x600034
abbrev aSwcPortQuota (i : Nat) : Nat := 0x600100 + i * 0x20
abbrev aSwcPortVoq (i : Nat) : Nat := 0x600104 + i * 0x20
abbrev aSwcPortSpill (i : Nat) : Nat := 0x600108 + i * 0x20
abbrev aSwcPortUse (i : Nat) : Nat := 0x60010C + i * 0x20
abbrev aSwcPortVoquse (i : Nat) : Nat := 0x600110 + i * 0x20
abbrev aSwcPortBarrels (i : Nat) : Nat := 0x600114 + i * 0x20
abbrev aSwcPortPtr (i : Nat) : Nat := 0x600118 + i * 0x20
abbrev aSwcCntPushout (i : Nat) : Nat := 0x600800 + i * 0x20
abbrev aSwcCntDrop (i : Nat) : Nat := 0x600804 + i * 0x20
abbrev aSwcCntIndrop (i : Nat) : Nat := 0x600808 + i * 0x20
abbrev aSwcCntSpill (i : Nat) : Nat := 0x60080C + i * 0x20
abbrev aSwcCntDrain (i : Nat) : Nat := 0x600810 + i * 0x20
abbrev aSwcCntLost (i : Nat) : Nat := 0x600814 + i * 0x20
abbrev aSwcCntHeld (i : Nat) : Nat := 0x600818 + i * 0x20
abbrev aSwcGrpStatus (i : Nat) : Nat := 0x603000 + i * 0x4
abbrev aSwcGrpMap (i : Nat) (j : Nat) : Nat := 0x604000 + i * 0x40 + j * 0x4
abbrev aSwcQCfg (i : Nat) : Nat := 0x610000 + i * 0x4
abbrev aSwcQState0 (i : Nat) : Nat := 0x620000 + i * 0x8
abbrev aSwcQState1 (i : Nat) : Nat := 0x620004 + i * 0x8
abbrev aTmgCfg : Nat := 0x700000
abbrev aTmgEvent : Nat := 0x700004
abbrev aTmgSampleTickLo : Nat := 0x700008
abbrev aTmgSampleTickHi : Nat := 0x70000C
abbrev aTmgSlots : Nat := 0x700010
abbrev aTmgPortCfg (i : Nat) : Nat := 0x700100 + i * 0x10
abbrev aTmgPortStatus (i : Nat) : Nat := 0x700104 + i * 0x10
abbrev aTmgCw (i : Nat) (j : Nat) (k : Nat) : Nat := 0x710000 + i * 0x800 + j * 0x40 + k * 0x4
abbrev aTmgDw (i : Nat) (j : Nat) : Nat := 0x710020 + i * 0x800 + j * 0x40
abbrev aTmgDsIdle (i : Nat) (j : Nat) : Nat := 0x730000 + i * 0x400 + j * 0x20
abbrev aTmgDsSend (i : Nat) (j : Nat) : Nat := 0x730004 + i * 0x400 + j * 0x20
abbrev aTmgDsHigh (i : Nat) (j : Nat) : Nat := 0x730008 + i * 0x400 + j * 0x20
abbrev aTmgDsLow (i : Nat) (j : Nat) : Nat := 0x73000C + i * 0x400 + j * 0x20
abbrev aTmgDsCtl (i : Nat) (j : Nat) : Nat := 0x730010 + i * 0x400 + j * 0x20
abbrev aTmgQsIdle (i : Nat) : Nat := 0x740000 + i * 0x20
abbrev aTmgQsSend (i : Nat) : Nat := 0x740004 + i * 0x20
abbrev aTmgQsHigh (i : Nat) : Nat := 0x740008 + i * 0x20
abbrev aTmgQsLow (i : Nat) : Nat := 0x74000C + i * 0x20
abbrev aTmgQsCtl (i : Nat) : Nat := 0x740010 + i * 0x20
abbrev aTmgQcr (i : Nat) : Nat := 0x760000 + i * 0x4
abbrev aTmgDcr (i : Nat) (j : Nat) : Nat := 0x764000 + i * 0x80 + j * 0x4
abbrev aTmgPlcr (i : Nat) : Nat := 0x788000 + i * 0x4
abbrev aTmgQmap (i : Nat) : Nat := 0x770000 + i * 0x4
abbrev aTmgQstat (i : Nat) : Nat := 0x774000 + i * 0x4
abbrev aTmgPlIdle (i : Nat) : Nat := 0x780000 + i * 0x20
abbrev aTmgPlSend (i : Nat) : Nat := 0x780004 + i * 0x20
abbrev aTmgPlHigh (i : Nat) : Nat := 0x780008 + i * 0x20
abbrev aTmgPlLow (i : Nat) : Nat := 0x78000C + i * 0x20
abbrev aTmgPlCtl (i : Nat) : Nat := 0x780010 + i * 0x20
abbrev aTmgPlcntRed (i : Nat) : Nat := 0x790000 + i * 0x8
abbrev aTmgPlcntDrop (i : Nat) : Nat := 0x790004 + i * 0x8
abbrev aTmgSmpLo (i : Nat) : Nat := 0x7A0000 + i * 0x8
abbrev aTmgSmpHi (i : Nat) : Nat := 0x7A0004 + i * 0x8
abbrev aTmgCntPause (i : Nat) : Nat := 0x7B0000 + i * 0x10
abbrev aTmgCntSysq (i : Nat) : Nat := 0x7B0004 + i * 0x10
abbrev aTmgCntRed (i : Nat) : Nat := 0x7B0008 + i * 0x10
abbrev aDspStatus (i : Nat) : Nat := 0x800000 + i * 0x10000
abbrev aDspEvent (i : Nat) : Nat := 0x800004 + i * 0x10000
abbrev aDspDemand (i : Nat) : Nat := 0x800008 + i * 0x10000
abbrev aDspSafeClr (i : Nat) : Nat := 0x80000C + i * 0x10000
abbrev aDspTctl (i : Nat) : Nat := 0x800010 + i * 0x10000
abbrev aDspH0 (i : Nat) : Nat := 0x800014 + i * 0x10000
abbrev aDspH1 (i : Nat) : Nat := 0x800018 + i * 0x10000
abbrev aDspV0 (i : Nat) : Nat := 0x80001C + i * 0x10000
abbrev aDspV1 (i : Nat) : Nat := 0x800020 + i * 0x10000
abbrev aDspPclk (i : Nat) : Nat := 0x800024 + i * 0x10000
abbrev aDspBg (i : Nat) : Nat := 0x800028 + i * 0x10000
abbrev aDspDsc0 (i : Nat) : Nat := 0x80002C + i * 0x10000
abbrev aDspDsc1 (i : Nat) : Nat := 0x800030 + i * 0x10000
abbrev aDspLayerCtl (i : Nat) (j : Nat) : Nat := 0x800100 + i * 0x10000 + j * 0x40
abbrev aDspLayerAddrLo (i : Nat) (j : Nat) : Nat := 0x800104 + i * 0x10000 + j * 0x40
abbrev aDspLayerAddrHi (i : Nat) (j : Nat) : Nat := 0x800108 + i * 0x10000 + j * 0x40
abbrev aDspLayerStride (i : Nat) (j : Nat) : Nat := 0x80010C + i * 0x10000 + j * 0x40
abbrev aDspLayerSrcXy (i : Nat) (j : Nat) : Nat := 0x800110 + i * 0x10000 + j * 0x40
abbrev aDspLayerDstXy (i : Nat) (j : Nat) : Nat := 0x800118 + i * 0x10000 + j * 0x40
abbrev aDspLayerSrcWh (i : Nat) (j : Nat) : Nat := 0x800114 + i * 0x10000 + j * 0x40
abbrev aDspLayerDstWh (i : Nat) (j : Nat) : Nat := 0x80011C + i * 0x10000 + j * 0x40
abbrev aDspLayerUvOffset (i : Nat) (j : Nat) : Nat := 0x800120 + i * 0x10000 + j * 0x40
abbrev aDspLayerCsc0 (i : Nat) (j : Nat) : Nat := 0x800124 + i * 0x10000 + j * 0x40
abbrev aDspLayerCsc1 (i : Nat) (j : Nat) : Nat := 0x800128 + i * 0x10000 + j * 0x40
abbrev aDspLayerCsc2 (i : Nat) (j : Nat) : Nat := 0x80012C + i * 0x10000 + j * 0x40
abbrev aDspLayerCsc3 (i : Nat) (j : Nat) : Nat := 0x800130 + i * 0x10000 + j * 0x40
abbrev aDspLayerCsc4 (i : Nat) (j : Nat) : Nat := 0x800134 + i * 0x10000 + j * 0x40
abbrev aDspLayerCsc5 (i : Nat) (j : Nat) : Nat := 0x800138 + i * 0x10000 + j * 0x40
abbrev aDspLayerStatus (i : Nat) (j : Nat) : Nat := 0x80013C + i * 0x10000 + j * 0x40
abbrev aDspChkCtl (i : Nat) (j : Nat) : Nat := 0x800400 + i * 0x10000 + j * 0x20
abbrev aDspChkXy (i : Nat) (j : Nat) : Nat := 0x800404 + i * 0x10000 + j * 0x20
abbrev aDspChkWh (i : Nat) (j : Nat) : Nat := 0x800408 + i * 0x10000 + j * 0x20
abbrev aDspChkExpect (i : Nat) (j : Nat) : Nat := 0x80040C + i * 0x10000 + j * 0x20
abbrev aDspChkResult (i : Nat) (j : Nat) : Nat := 0x800410 + i * 0x10000 + j * 0x20
abbrev aDspChkStatus (i : Nat) (j : Nat) : Nat := 0x800414 + i * 0x10000 + j * 0x20
abbrev aDspChkCount (i : Nat) (j : Nat) : Nat := 0x800418 + i * 0x10000 + j * 0x20
abbrev aDspCoefH (i : Nat) (j : Nat) (k : Nat) : Nat := 0x801000 + i * 0x10000 + j * 0x10 + k * 0x4
abbrev aDspCoefV (i : Nat) (j : Nat) (k : Nat) : Nat := 0x801400 + i * 0x10000 + j * 0x10 + k * 0x4
abbrev aDspAuxCmd (i : Nat) : Nat := 0x800300 + i * 0x10000
abbrev aDspAuxStatus (i : Nat) : Nat := 0x800304 + i * 0x10000
abbrev aDspAuxData (i : Nat) (j : Nat) : Nat := 0x800310 + i * 0x10000 + j * 0x4
abbrev aDspCntFrames (i : Nat) : Nat := 0x800080 + i * 0x10000
abbrev aDspCntUnderrun (i : Nat) : Nat := 0x800084 + i * 0x10000
abbrev aDspCntFetchErr (i : Nat) : Nat := 0x800088 + i * 0x10000
abbrev aDspCntMismatch (i : Nat) : Nat := 0x80008C + i * 0x10000
abbrev aDspCntRetrain (i : Nat) : Nat := 0x800090 + i * 0x10000
abbrev aDspCfg : Nat := 0x880000
abbrev aDspTotalDemand : Nat := 0x880004
abbrev aDspEngines : Nat := 0x880008
abbrev aDspApBase (i : Nat) (j : Nat) : Nat := 0x881000 + i * 0x100 + j * 0x10
abbrev aDspApOffset (i : Nat) (j : Nat) : Nat := 0x881004 + i * 0x100 + j * 0x10
abbrev aDspApSize (i : Nat) (j : Nat) : Nat := 0x881008 + i * 0x100 + j * 0x10
abbrev aUsbCfg : Nat := 0x900000
abbrev aUsbEvent : Nat := 0x900004
abbrev aUsbEpmFree : Nat := 0x900008
abbrev aUsbVhId : Nat := 0x900010
abbrev aUsbDfId : Nat := 0x900014
abbrev aUsbPortAssign (i : Nat) : Nat := 0x900100 + i * 0x10
abbrev aUsbPortCfg (i : Nat) : Nat := 0x900104 + i * 0x10
abbrev aUsbPortStatus (i : Nat) : Nat := 0x900108 + i * 0x10
abbrev aUsbEpmCtl (i : Nat) : Nat := 0x901000 + i * 0x10
abbrev aUsbEpmOffset (i : Nat) : Nat := 0x901004 + i * 0x10
abbrev aUsbEpmLength (i : Nat) : Nat := 0x901008 + i * 0x10
abbrev aUsbEpmUse (i : Nat) : Nat := 0x90100C + i * 0x10
abbrev aUsbVhCfg (i : Nat) : Nat := 0x902000 + i * 0x10
abbrev aUsbVhStatus (i : Nat) : Nat := 0x902004 + i * 0x10
abbrev aUsbVhWake (i : Nat) : Nat := 0x902008 + i * 0x10
abbrev aUsbVhWakeTick (i : Nat) : Nat := 0x90200C + i * 0x10
abbrev aUsbCntIsoDrop : Nat := 0x900040
abbrev aUsbCntNoPort : Nat := 0x900044
abbrev aUsbCntClamp : Nat := 0x900048
abbrev aUsbCntHeld : Nat := 0x90004C
abbrev aUsbCntCtlAbort : Nat := 0x900050
abbrev aUsbCntCollided : Nat := 0x900054
abbrev aUsbCntTtReset : Nat := 0x900058
abbrev aVdkCfg (i : Nat) : Nat := 0xA00000 + i * 0x1000
abbrev aVdkAllow0 (i : Nat) : Nat := 0xA00004 + i * 0x1000
abbrev aVdkAllow1 (i : Nat) : Nat := 0xA00008 + i * 0x1000
abbrev aVdkStatus (i : Nat) : Nat := 0xA00010 + i * 0x1000
abbrev aVdkUse0 (i : Nat) : Nat := 0xA00014 + i * 0x1000
abbrev aVdkUse1 (i : Nat) : Nat := 0xA00018 + i * 0x1000
abbrev aVdkRackCfg (i : Nat) : Nat := 0xA00020 + i * 0x1000
abbrev aVdkRackStatus (i : Nat) : Nat := 0xA00024 + i * 0x1000
abbrev aVdkImageLenLo (i : Nat) : Nat := 0xA00028 + i * 0x1000
abbrev aVdkImageLenHi (i : Nat) : Nat := 0xA0002C + i * 0x1000
abbrev aVdkFreezeTickLo (i : Nat) : Nat := 0xA00030 + i * 0x1000
abbrev aVdkFreezeTickHi (i : Nat) : Nat := 0xA00034 + i * 0x1000
abbrev aVdkCntFrozenDrop (i : Nat) : Nat := 0xA00040 + i * 0x1000
abbrev aVdkCntDiscard (i : Nat) : Nat := 0xA00044 + i * 0x1000
abbrev aVdkCntAbandoned (i : Nat) : Nat := 0xA00048 + i * 0x1000
abbrev aVdkInstanceLo : Nat := 0xA80000
abbrev aVdkInstanceHi : Nat := 0xA80004
abbrev aVdkSaveCountLo : Nat := 0xA80008
abbrev aVdkSaveCountHi : Nat := 0xA8000C
abbrev aVdkRacking : Nat := 0xA80010
abbrev aVdkEvent : Nat := 0xA80014
abbrev aKeyStatus : Nat := 0xB00000
abbrev aKeyLcFuse : Nat := 0xB00004
abbrev aKeyLcCmd : Nat := 0xB00008
abbrev aKeyFuseCmd : Nat := 0xB0000C
abbrev aKeyEvent : Nat := 0xB00010
abbrev aKeyKeylessLast : Nat := 0xB00014
abbrev aKeySlotsUsed : Nat := 0xB00018
abbrev aKeyImport (i : Nat) : Nat := 0xB00020 + i * 0x4
abbrev aKeyImportGen : Nat := 0xB00040
abbrev aKeyImportCtl : Nat := 0xB00044
abbrev aKeyCntKeyless : Nat := 0xB00080
abbrev aKeyCntStale : Nat := 0xB00084
abbrev aKeyCntLoadFail : Nat := 0xB00088
abbrev aKeySlotInfo (i : Nat) : Nat := 0xB10000 + i * 0x20
abbrev aKeySlotGen (i : Nat) : Nat := 0xB10004 + i * 0x20
abbrev aKeySlotIdLo (i : Nat) : Nat := 0xB10008 + i * 0x20
abbrev aKeySlotIdHi (i : Nat) : Nat := 0xB1000C + i * 0x20
abbrev aKeySlotAnc (i : Nat) : Nat := 0xB10010 + i * 0x20
abbrev aKeySlotAncGen1 (i : Nat) : Nat := 0xB10014 + i * 0x20
abbrev aKeySlotAncGen2 (i : Nat) : Nat := 0xB10018 + i * 0x20
abbrev aKeySlotAncGen3 (i : Nat) : Nat := 0xB1001C + i * 0x20
abbrev aMemCfg : Nat := 0xC00000
abbrev aMemEvent : Nat := 0xC00004
abbrev aMemCellarStatus : Nat := 0xC00008
abbrev aMemCellarSize : Nat := 0xC0000C
abbrev aMemCapacity : Nat := 0xC00010
abbrev aMemBwCfg0 : Nat := 0xC00020
abbrev aMemBwCfg1 : Nat := 0xC00024
abbrev aMemBwUse (i : Nat) : Nat := 0xC00060 + i * 0x4
abbrev aMemScrubCfg : Nat := 0xC00040
abbrev aMemScrubStatus : Nat := 0xC00044
abbrev aMemDpFallback : Nat := 0xC00050
abbrev aMemCntSramCorr : Nat := 0xC00080
abbrev aMemCntSramUncorr : Nat := 0xC00084
abbrev aMemCntRepair : Nat := 0xC00088
abbrev aMemCntTestRegions : Nat := 0xC0008C
abbrev aMemRetiredCask (i : Nat) : Nat := 0xC00100 + i * 0x4
abbrev aMemRetiredBanks : Nat := 0xC00120
abbrev aMemGrpStatus (i : Nat) : Nat := 0xC00200 + i * 0x4
abbrev aMemChStatus (i : Nat) : Nat := 0xC00400 + i * 0x20
abbrev aMemChErrLo (i : Nat) : Nat := 0xC00404 + i * 0x20
abbrev aMemChErrHi (i : Nat) : Nat := 0xC00408 + i * 0x20
abbrev aMemChCntCorr (i : Nat) : Nat := 0xC0040C + i * 0x20
abbrev aMemChCntUncorr (i : Nat) : Nat := 0xC00410 + i * 0x20
abbrev aMemChCntPoisonRd (i : Nat) : Nat := 0xC00414 + i * 0x20
abbrev aMemConf (i : Nat) (j : Nat) : Nat := 0xC10000 + i * 0x100 + j * 0x4
abbrev aTelEvent : Nat := 0xD00004
abbrev aTelRingBaseLo : Nat := 0xD00010
abbrev aTelRingBaseHi : Nat := 0xD00014
abbrev aTelRingCfg : Nat := 0xD00018
abbrev aTelRingLen : Nat := 0xD00020
abbrev aTelRingWr : Nat := 0xD00024
abbrev aTelSeqLo : Nat := 0xD00028
abbrev aTelSeqHi : Nat := 0xD0002C
abbrev aTelMarkSeed : Nat := 0xD00030
abbrev aTelCntSkipped : Nat := 0xD00040
abbrev aTelCntMarkSkip : Nat := 0xD00044
abbrev aTelCntRingLost : Nat := 0xD00048
abbrev aTelCntMarks : Nat := 0xD0004C
abbrev aTelMarkCfg (i : Nat) : Nat := 0xD00100 + i * 0x4
abbrev aTelMarkOpen : Nat := 0xD00180
abbrev aTelRangeBaseLo (i : Nat) : Nat := 0xD00200 + i * 0x10
abbrev aTelRangeBaseHi (i : Nat) : Nat := 0xD00204 + i * 0x10
abbrev aTelRangeLimitLo (i : Nat) : Nat := 0xD00208 + i * 0x10
abbrev aTelRangeLimitHi (i : Nat) : Nat := 0xD0020C + i * 0x10
abbrev aTelSlotRetiredLo (i : Nat) : Nat := 0xD00800 + i * 0x40
abbrev aTelSlotRetiredHi (i : Nat) : Nat := 0xD00804 + i * 0x40
abbrev aTelSlotWastedLo (i : Nat) : Nat := 0xD00808 + i * 0x40
abbrev aTelSlotWastedHi (i : Nat) : Nat := 0xD0080C + i * 0x40
abbrev aTelSlotFrontLo (i : Nat) : Nat := 0xD00810 + i * 0x40
abbrev aTelSlotFrontHi (i : Nat) : Nat := 0xD00814 + i * 0x40
abbrev aTelSlotBackLo (i : Nat) : Nat := 0xD00818 + i * 0x40
abbrev aTelSlotBackHi (i : Nat) : Nat := 0xD0081C + i * 0x40
abbrev aTelSlotPendingLo (i : Nat) : Nat := 0xD00820 + i * 0x40
abbrev aTelSlotPendingHi (i : Nat) : Nat := 0xD00824 + i * 0x40
abbrev aTelCntLo (i : Nat) (j : Nat) : Nat := 0xD10000 + i * 0x100 + j * 0x8
abbrev aTelCntHi (i : Nat) (j : Nat) : Nat := 0xD10004 + i * 0x100 + j * 0x8
abbrev aTelSelSel (i : Nat) (j : Nat) : Nat := 0xD20000 + i * 0x200 + j * 0x10
abbrev aTelSelFltLo (i : Nat) (j : Nat) : Nat := 0xD20004 + i * 0x200 + j * 0x10
abbrev aTelSelFltHi (i : Nat) (j : Nat) : Nat := 0xD20008 + i * 0x200 + j * 0x10
abbrev aFltEvent : Nat := 0xE00000
abbrev aFltLogSeq : Nat := 0xE00004
abbrev aFltLogWr : Nat := 0xE00008
abbrev aFltPCfg (i : Nat) : Nat := 0xE00010 + i * 0x8
abbrev aFltPAck (i : Nat) : Nat := 0xE00014 + i * 0x8
abbrev aFltPLost (i : Nat) : Nat := 0xE00020 + i * 0x4
abbrev aFltCntRetire : Nat := 0xE00030
abbrev aFltCntRestore : Nat := 0xE00034
abbrev aFltMask (i : Nat) : Nat := 0xE00044 + i * 0x4
abbrev aFltClassCfg (i : Nat) : Nat := 0xE00100 + i * 0x8
abbrev aFltRet (i : Nat) (j : Nat) : Nat := 0xE00200 + i * 0x40 + j * 0x4
abbrev aFltBkt (i : Nat) (j : Nat) : Nat := 0xE01000 + i * 0x400 + j * 0x4
abbrev aPwrStatus : Nat := 0xF00000
abbrev aPwrEvent : Nat := 0xF00004
abbrev aPwrResetCause : Nat := 0xF00008
abbrev aPwrTherm : Nat := 0xF00010
abbrev aPwrTemp : Nat := 0xF00014
abbrev aPwrWakeEn : Nat := 0xF00020
abbrev aPwrWakeTimer : Nat := 0xF00024
abbrev aPwrSentryCfg : Nat := 0xF00028
abbrev aPwrWakeRecord : Nat := 0xF00030
abbrev aPwrWakeTimeLo : Nat := 0xF00034
abbrev aPwrWakeTimeHi : Nat := 0xF00038
abbrev aPwrWakeCount : Nat := 0xF0003C
abbrev aPwrDozeCfg : Nat := 0xF00044
abbrev aPwrDockReset : Nat := 0xF00048
abbrev aPwrHoldLast : Nat := 0xF00050
abbrev aPwrHoldTicks : Nat := 0xF00054
abbrev aPwrCntHold : Nat := 0xF00058
abbrev aPwrTrimCmd : Nat := 0xF00060
abbrev aPwrTrimSrcLo : Nat := 0xF00064
abbrev aPwrTrimSrcHi : Nat := 0xF00068
abbrev aPwrTrimStatus : Nat := 0xF0006C
abbrev aPwrSbCfg : Nat := 0xF00070
abbrev aPwrFeedShare : Nat := 0xF00080
abbrev aPwrFeedCfg (i : Nat) : Nat := 0xF00090 + i * 0x10
abbrev aPwrFeedStatus (i : Nat) : Nat := 0xF00094 + i * 0x10
abbrev aPwrMonLevels (i : Nat) : Nat := 0xF00100 + i * 0x10
abbrev aPwrMonHyst (i : Nat) : Nat := 0xF00104 + i * 0x10
abbrev aPwrMonStatus (i : Nat) : Nat := 0xF00108 + i * 0x10
abbrev aPwrPwcCfg0 (i : Nat) : Nat := 0xF01000 + i * 0x20
abbrev aPwrPwcCfg1 (i : Nat) : Nat := 0xF01004 + i * 0x20
abbrev aPwrPwcStatus (i : Nat) : Nat := 0xF01008 + i * 0x20
abbrev aPwrPwcMeas (i : Nat) : Nat := 0xF0100C + i * 0x20
abbrev aPwrPwcRetryLeft (i : Nat) : Nat := 0xF01010 + i * 0x20
abbrev aPwrPwcTrips (i : Nat) : Nat := 0xF01014 + i * 0x20

end Sys2Proof.Machine
end

