-- ==== Sys2Proof/Config.lean ====
section
/-!
DEFINITION. What an implementation fixes and this manual does not give: free values. Each is an opaque
constant without a body, so nothing can be proved of its value (notes/assumptions/3.md).
-/
namespace Sys2Proof

/-- A fresh 64-bit value for the n-th free value of a run: a byte read from memory behind a management port or a host,
or any value a rule leaves open. The step reads and advances the counter `free`. -/
opaque Config.freeValue : Nat → BitVec 64

/-- The rootstock, 256 bits in fuses (R398); the manual never gives it. -/
opaque Config.rootstock : BitVec 256

/-- The factory contents of the trim store, byte by byte (R194, R518). -/
opaque Config.factoryTrim : Nat → BitVec 8

/-- The rate of a sink, partner or analogue part that the manual leaves to the device at the given site. -/
opaque Config.analogue : Nat → Nat → BitVec 32

/-- The unit-range component that a NaN of binary16 unpacks to (R339 gives no value). -/
opaque Config.nanComponent : BitVec 16 → BitVec 16

/-- The state bank of G52 that holds key-slot material (R432); the manual does not say which it is. -/
opaque Config.keyBank : Fin 16

/-- What the n-th test of all SRAM banks finds: for each failing bank its group, its number in the group, the rows that fail and whether
it fails again after repair (R434). -/
opaque Config.marchFails : Nat → List (Fin 53 × Fin 16 × Nat × Bool)

/-- The image that Doze entry writes to the Doze region (R508 gives it no layout). -/
opaque Config.dozeImage : Nat → List (BitVec 8)

end Sys2Proof
end

