-- ==== Sys2Proof/Machine/Tab.lean ====
section
/-!
DEFINITION. Sparse tables: lists of (key, value) with strictly rising keys. `tget` and `tset` read and write a table
whose unlisted keys hold a default: no listed entry equals it, so equal tables are equal lists.
-/
namespace Sys2Proof.Machine

/-- A sparse table with strictly rising keys. -/
abbrev Tab (α : Type) := List (Nat × α)

/-- The entry of a key, if listed. -/
def tfind {α : Type} : Tab α → Nat → Option α
  | [], _ => none
  | (k, v) :: t, a => if a = k then some v else tfind t a

/-- Unlist a key. -/
def tdel {α : Type} : Tab α → Nat → Tab α
  | [], _ => []
  | (k, w) :: t, a => if a = k then tdel t a else (k, w) :: tdel t a

/-- Put an entry before the first greater key. -/
def tins {α : Type} : Tab α → Nat → α → Tab α
  | [], a, v => [(a, v)]
  | (k, w) :: t, a, v => if a < k then (a, v) :: (k, w) :: t else (k, w) :: tins t a v

/-- List a key with a value, in its place. -/
def tput {α : Type} (t : Tab α) (a : Nat) (v : α) : Tab α := tins (tdel t a) a v

/-- The value of a key, the default where it is not listed. -/
def tget {α : Type} (d : α) (t : Tab α) (a : Nat) : α := (tfind t a).getD d

/-- Write the value of a key; writing the default unlists it. -/
def tset {α : Type} [DecidableEq α] (d : α) (t : Tab α) (a : Nat) (v : α) : Tab α :=
  if v = d then tdel t a else tput t a v

/-- Change the value of a key by a function. -/
def tmod {α : Type} [DecidableEq α] (d : α) (t : Tab α) (a : Nat) (f : α → α) : Tab α :=
  tset d t a (f (tget d t a))

/-- The keys rise strictly. -/
def keysRise {α : Type} : Tab α → Bool
  | [] => true
  | [_] => true
  | (k, _) :: (k', v') :: t => decide (k < k') && keysRise ((k', v') :: t)

/-- Put an element into a list before the first one that it may stand before. -/
def sortIn {α : Type} (le : α → α → Bool) (x : α) : List α → List α
  | [] => [x]
  | y :: ys => if le x y then x :: y :: ys else y :: sortIn le x ys

/-- Sort a list, elements that may stand in either order as they stood. -/
def sortBy {α : Type} (le : α → α → Bool) : List α → List α
  | [] => []
  | x :: xs => sortIn le x (sortBy le xs)

/-- The canonical form of a table with a default: keys rise and no entry equals the default. -/
def canonical {α : Type} [DecidableEq α] (d : α) (t : Tab α) : Bool :=
  keysRise t && t.all (fun e => decide (e.2 ≠ d))

end Sys2Proof.Machine
end

