-- ==== Sys2Proof/Machine/State.lean ====
section
/-!
DEFINITION. The state of the hub as plain data, grouped by chapter, its fault and refusal reasons, and the state at
the end of power-on reset.
-/
namespace Sys2Proof.Machine

/-- The fuses and bonding of the part (R2, R9, R12, R13, R400, R438). -/
structure Part where
  /-- Variant code of TOP_VARIANT. -/
  variant : Nat
  letter : Byte
  digit : Byte
  /-- FT2412_COMPAT; KEY_FUSE_CMD can blow it. -/
  compat : Bool
  lcBase : BitVec 3
  debugLock : Bool
  epoch : Byte
  /-- Density of each DRAM channel in units of 64 MiB. -/
  densities : List Nat
deriving DecidableEq, Repr

/-- A frame-start reference generator: its last instant as hub time in units of 2^-16 ns, and D, the sum of steps (R53). -/
structure FrGen where
  last : Option Int
  d : Int
deriving DecidableEq, Repr

/-- An audio accumulator and the edge count at which its open service interval began (R63). -/
structure Aud where
  acc : Nat
  from_ : Nat
deriving DecidableEq, Repr

/-- Timebase state that no register shows whole. -/
structure Tim where
  /-- Hub time at the last tick edge, in units of 2^-16 ns (R39). -/
  edgeFx : Nat
  /-- Hub time and core clock at which the rate in force began within this tick (R40), and the greatest rate offset of the tick
  in 10^-12 (R30). -/
  baseFx : Nat
  baseClk : Nat
  rateTop : Nat
  /-- Core clocks since power-on reset, now and at the last edge (R30). -/
  coreClk : Nat
  edgeClk : Nat
  /-- Core clocks of the tick that ended last (R30, R316). -/
  tickLen : Nat
  /-- Tick edges since power-on reset (R39, R43). -/
  edges : Nat
  /-- Core clock of the write that set ARM, while a step is armed (R42). -/
  stepArmed : Option Nat
  /-- Phases whose work is suspended (R47). -/
  suspended : BitVec 5
  /-- Highest phase whose work has begun in this tick (R45, R46), and the edge count of the last key-generation sweep (R49). -/
  phase : Nat
  sweepAt : Option Nat
  /-- Core clock at which P0 last ended its work (R46, R96). -/
  p0End : Nat
  fr : Tab FrGen
  /-- The next code frame of a time port carries STEPPED (R55). -/
  stepped : Tab Bool
  /-- Nominal instant of a pulse whose code frame is still to come (R55). -/
  pulseAt : Tab Nat
  /-- Edge count of the last pulse of a time port: an edge carries at most one pulse (R54). -/
  lastPulse : Tab Nat
  aud : Tab Aud
  /-- Discipline loop: consecutive windows in range, the edge count at the window's start. -/
  inRange : Nat
  windowStart : Nat
  /-- Hub time, in units of 2^-16 ns, at which the last interval of Sync and of Announce began (R60). -/
  syncAt : Option Int
  annAt : Option Int
  /-- Next sequenceId of Sync and of Announce per Ethernet port, and PTP frames discarded (R58). -/
  syncSeq : Tab (BitVec 16)
  annSeq : Tab (BitVec 16)
  ptpDiscards : Tab Nat
deriving DecidableEq, Repr

/-- A transaction scope (R110). -/
structure Scope where
  docks : BitVec 64
  ports : BitVec 24
  outputs : BitVec 8
  global : Bool
deriving DecidableEq, Repr

/-- Records of a transaction in staging order: control-space address and value (R115). -/
abbrev Recs := List (Nat × Word)

/-- An open transaction (R104, R106, R109). -/
structure Tx where
  owner : Port
  scope : Scope
  lifeStart : Nat
  /-- Lifetime in tick edges; 0 = none. -/
  life : Nat
  recs : Recs
  /-- A TX.COMMIT waits for acceptance, by R109 and R121. -/
  committing : Bool
  /-- The transaction is accepted and not yet applied. -/
  accepted : Bool
  /-- Words that TUN.OPEN or VDK.CREATE staged, with whether the transaction's own records already opened or created them
  (R221, R398); none = it had not staged them. -/
  opens : List (Nat × Option Bool)
  /-- Words that KEY.BIND staged (R180). -/
  binds : List Nat
deriving DecidableEq, Repr

/-- The operation that an internal transaction belongs to (R128). -/
inductive IntOp where
  | move (sp dst tid : Nat)
  | destroy (d : Nat) (force : Bool)
  | restore (d : Nat)
  | thaw (d : Nat)
deriving DecidableEq, Repr

/-- Where a submitted transaction comes from (R118, R128). -/
inductive TxSrc where
  | handle (h : Fin 8)
  /-- An implicit transaction of an S instruction (R80). -/
  | implicit
  /-- A direct MMIO write (R117). -/
  | direct
  /-- The internal transaction of an operation (R128). -/
  | internal (op : IntOp)
deriving DecidableEq, Repr

/-- A transaction waiting for validation or accepted (R118, R121): who waits for it, its tag in the order of entry, and
for an accepted one the core clock of acceptance (R51). -/
structure Sub where
  id : Nat
  src : TxSrc
  owner : Port
  recs : Recs
  /-- Id of the command that waits for the apply. -/
  waiter : Option Nat
  accClk : Nat
  opens : List (Nat × Option Bool)
  binds : List Nat
deriving DecidableEq, Repr

/-- Transactions, vintage and digest beyond the registers (chapter 4). -/
structure Txs where
  open_ : Tab Tx
  submitted : List Sub
  queue : List Sub
  delivering : Option Sub
  nextId : Nat
  vintage : BitVec 64
  digest : BitVec 128
  /-- The digest key in use and the key registers (R130, R132). -/
  keyInUse : BitVec 256
  keyRegs : BitVec 256
  /-- Tick edge at which a recomputation started. -/
  rekeyFrom : Option Nat
  sliceVintage : Tab (BitVec 64)
  sliceDigest : Tab (BitVec 128)
  /-- Latched slice selections per agent: dock, vintage, digest (R136). -/
  sliceSel : Tab (BitVec 6 × BitVec 64 × BitVec 128)
  /-- Core clock at which the apply under way started, and the first clock after the last one (R122). -/
  applyFrom : Nat
  applyNext : Nat
deriving DecidableEq, Repr

/-- The status of an instruction or command (R81). -/
inductive Status where
  | ok | busy | denied | invalid | conflict | timeout | aborted | fault
deriving DecidableEq, Repr

/-- What a long instruction waits for (R79, R90). -/
inductive Wait where
  /-- WAIT.TICK: edges to go and edge of issue. -/
  | tick (n : Nat) (from_ : Nat)
  /-- FENCE: its conditions, the order number of its command, the highest commit id to wait for, edge of issue. -/
  | fence (ring port applied : Bool) (seq : Nat) (upto : Nat) (from_ : Nat)
  /-- A transaction's acceptance or apply: the id of its submission, and the result where it is not the vintage. -/
  | tx (id : Nat) (result : Option Nat)
  /-- An operation handed to a block. -/
  | op
deriving DecidableEq, Repr

/-- A command or a tick-program run (R73-R79, R95-R98). -/
structure Cmd where
  id : Nat
  /-- Ring of the command; for a tick program its completion ring. -/
  ring : Nat
  /-- Index of the tick program, for a run. -/
  tp : Option (Fin 8)
  tag : Byte
  irq : Bool
  nocq : Bool
  order : Bool
  imem : Bool
  /-- Ring index of the first body word, or START. -/
  base : Nat
  /-- Words of the body or program. -/
  len : Nat
  body : List Word64
  txh : Option (Fin 8)
  /-- Thread it runs on; none before it starts and after a hand-off. -/
  thread : Option (Fin 4)
  started : Bool
  g : Tab Word64
  pc : Nat
  count : Nat
  last : Status
  curTx : Option (Fin 8)
  /-- Its current transaction was aborted (R108); it has applied or failed (R109). -/
  stale : Bool
  gone : Bool
  wait : Option Wait
  /-- RESET, HALT mode 1 or RUN = 0 ends it at its next instruction boundary. -/
  abort : Bool
  /-- Finished with this status and RESULT, the record held by a full completion ring (R84). -/
  held : Option (Status × Word64)
deriving DecidableEq, Repr

/-- Turner beyond its registers (chapter 3). -/
structure Trn where
  ringMem : Tab Word64
  ccMem : Tab (BitVec 128)
  imem : Tab Word64
  cmds : List Cmd
  nextCmd : Nat
  /-- Ring served last by the fetch unit. -/
  lastRing : Nat
  /-- Tick programs due at the start point and not yet begun. -/
  tpPending : BitVec 8
  sem : Tab Port
  linkUp0 : Bool
  linkUp1 : Bool
  /-- MSI-X vectors held while a port's link is down (R100). -/
  heldVec0 : BitVec 64
  heldVec1 : BitVec 64
  /-- Edge count of the last start point of each thread, and core clock at which a ring command last left it (R96, R98). -/
  tpEdge : Tab Nat
  leftAt : Tab Nat
  /-- Bus Master Enable of M0 and of M1 (R68). -/
  bme0 : Bool
  bme1 : Bool
deriving DecidableEq, Repr

/-- Fault manager beyond its registers (R479-R484). -/
structure Flt where
  /-- The fault log: 2,048 records of 32 bytes, byte 0 in bits [7:0]. -/
  log : Tab (BitVec 256)
  /-- Hold-off running and message due, per port. -/
  holdoff : Tab Bool
  due : Tab Bool
  /-- Edge of the switch-over that last applied a class's FLT_CLASSc_CFG. -/
  leakFrom : Tab Nat
  /-- RES.RESTOREs that run or wait, oldest first: class, index, command (R478). -/
  restores : List (Nat × Nat × Nat)
deriving DecidableEq, Repr

/-- Comma lock of one lane of a trunk (R147): agreeing commas seen, codeword of the last, partner's physical lane; COMMA_NO and
arrival in ps of the last comma, for deskew (R148). -/
structure LaneLock where
  seen : Nat
  lastCw : Nat
  partner : Nat
  locked : Bool
  no : Nat
  arrival : Nat
deriving DecidableEq, Repr
/-- A lane that has seen no comma. -/
def LaneLock.none : LaneLock := ⟨0, 0, 0, false, 0, 0⟩

/-- A lane's transmitter (R140-R142): the scrambler's state and the blocks of the codeword under way, oldest first. -/
structure LaneTx where
  scr : Nat
  blocks : List Nat
deriving DecidableEq, Repr
/-- A transmitter before its first block. -/
def LaneTx.idle : LaneTx := ⟨0, []⟩

/-- A stripe change that the hub asks for (R171): retire or return, new mask, target COMMA_NO, ID, sends so far. -/
structure Change where
  isReturn : Bool
  mask : Nat
  target : Nat
  id : Nat
  sends : Nat
  acked : Bool
  /-- The lane concerned, by physical index within the trunk. -/
  lane : Nat
  /-- Command that waits for the change: LANE.RETIRE or RES.RESTORE. -/
  waiter : Option Nat
deriving DecidableEq, Repr

/-- A DATA stave kept for replay (R160): SEQ, VC, FPO and body. -/
structure Stave where
  seq : Nat
  vc : Nat
  fpo : Nat
  body : List Word64
deriving DecidableEq, Repr

/-- A trunk link beyond its registers (R147-R177). -/
structure TrkSt where
  /-- Highest rate code tried next (R164). -/
  ceiling : Nat
  locks : Tab LaneLock
  /-- Lanes chosen in negotiation. -/
  chosen : Nat
  ts1 : Option (Word64 × Word64)
  ts1Acked : Nat
  /-- The partner's TS2, and its coefficients by lane from EQ_ACK. -/
  ts2 : Option Word64
  partnerEq : Tab Word64
  ts1Sent : Nat
  /-- Staves sent since the state was entered. -/
  sent : Nat
  idleDone : Bool
  /-- The 2 ms of LOCK are over (R164). -/
  lockOver : Bool
  /-- Staves dealt so far in the round under way, each a header and a body (R149). -/
  round : List (Word64 × List Word64)
  /-- Blocks of the codeword under way, and codewords since the last comma; none = a comma comes first (R146). -/
  slot : Nat
  sinceComma : Option Nat
  laneTx : Tab LaneTx
  /-- Lanes outside the set that send NULL staves, so as to join (R175). -/
  joining : Nat
  /-- EQ_REQs sent by lane (R165). -/
  eqSent : Tab Nat
  eqMine : Bool
  eqTheirs : Bool
  /-- Bit v: the partner's CREDIT of VC v has arrived. -/
  creditSeen : Nat
  creditSent : Bool
  readySeen : Bool
  readySent : Nat
  /-- Partner's initial credit, its last CCNT, and first transmissions, by VC (R158). -/
  init : Tab Nat
  freed : Tab Nat
  used : Tab Nat
  /-- Staves freed toward the partner by VC, and the VC reported next (R158). -/
  freedMine : Tab Nat
  /-- Accepted staves whose credit is withheld, by VC (R281). -/
  owed : Tab Nat
  nextCvc : Nat
  replay : List Stave
  /-- Staves of the replay buffer still to resend, when a replay runs. -/
  resend : Nat
  lastReplayAck : Option Nat
  nak : Bool
  /-- Packet in progress by VC on reception, and VCs that wait for an FPO (R154, R155). -/
  rx : Tab (List Word64)
  resync : Nat
  /-- Packets to send in the order released, and the units left of the packet under way by VC (R159). -/
  txq : List TunPacket
  tx : Tab (List Word64)
  /-- VCs with a packet under way, in the order released. -/
  under : List Nat
  /-- Link messages to send, each a list of units. -/
  linkq : List (List Word64)
  idleAsked : Bool
  idleFrom : Nat
  change : Option Change
  /-- The partner's accepted change: mask, target, whether it retires. -/
  theirs : Option (Nat × Nat × Bool)
  /-- The hub's changes that wait for the one in progress: return or retirement, lane, command that waits. -/
  todo : List (Bool × Nat × Option Nat)
  nextChange : Nat
  /-- ACK of the partner's RECOVER; the hub has sent its own. -/
  recoverAck : Option Nat
  recoverSent : Bool
  /-- Edge of the last TOKEN_SYNC. -/
  syncEdge : Nat
deriving DecidableEq, Repr
/-- A trunk at power-on. -/
def TrkSt.idle : TrkSt :=
  { ceiling := 2, locks := [], chosen := 0, ts1 := none, ts1Acked := 0, ts2 := none, partnerEq := [], ts1Sent := 0, sent := 0, idleDone := false,
    lockOver := false, round := [], slot := 0, sinceComma := none, laneTx := [], joining := 0, eqSent := [], eqMine := false, eqTheirs := false, creditSeen := 0, creditSent := false, readySeen := false, readySent := 0, init := [],
    freed := [], used := [], freedMine := [], owed := [], nextCvc := 0, replay := [], resend := 0, lastReplayAck := none, nak := false,
    rx := [], resync := 0, txq := [], tx := [], under := [], linkq := [], idleAsked := false, idleFrom := 0, change := none,
    theirs := none, todo := [], nextChange := 0, recoverAck := none, recoverSent := false, syncEdge := 0 }
/-- A key slot (R407, R408): state 0 EMPTY, 1 PENDING, 2 READY, 3 STALE, 4 SEALED. -/
structure KeySlot where
  state : Nat
  usage : Nat
  /-- ROOT: the nursery rootstock. -/
  nursery : Bool
  depth : Nat
  imported : Bool
  epoch : Nat
  gen : Nat
  key : BitVec 256
  keyId : BitVec 64
  /-- Slot and GEN of each ancestor, from level 1. -/
  anc : List (Nat × Nat)
deriving DecidableEq, Repr
/-- A slot at power-on. -/
def KeySlot.empty : KeySlot := ⟨0, 0, false, 0, false, 0, 0, 0, 0, []⟩

/-- A vault operation in the queue of R411: the id of its command, its slot, and what it needs. -/
inductive VaultOp where
  /-- A graft: the slot's state before it became PENDING, ROOT, parent, usage, context. -/
  | graft (cmd slot prev : Nat) (root : Bool) (parent usage ctx : Nat)
  /-- A load: the slot's state before, when the slot became PENDING; the blob's address. -/
  | load (cmd slot : Nat) (prev : Option Nat) (addr : Nat)
  | wrap (cmd slot addr : Nat)
deriving DecidableEq, Repr

/-- An anti-replay window (R181): bit i of seen stands for PN top − i. -/
structure Win where
  top : Nat
  seen : BitVec 64
deriving DecidableEq, Repr

/-- The key vault and the packet crypto state beyond the registers (R179-R181, R400-R423). Tables by end are keyed by
switch port times 4096 plus tunnel ID. -/
structure Keys where
  slots : Tab KeySlot
  /-- Life-cycle state in force (R402). -/
  lc : Nat
  nurseryEpoch : Nat
  /-- Target of the life-cycle change in progress. -/
  change : Option Nat
  /-- FT2412_COMPAT is being blown (R405). -/
  fuse : Bool
  ops : List VaultOp
  keyless : Tab Bool
  /-- Next PN to send of an end. -/
  pn : Tab Nat
  /-- Windows by end times 1024 plus slot. -/
  windows : Tab Win
  /-- Slot bound before the last rebind of an end, and its edge. -/
  grace : Tab (Nat × Nat)
deriving DecidableEq, Repr

/-- A packet inside the hub (R275, R277). -/
structure Pkt where
  id : Nat
  /-- Ingress and egress switch port. -/
  ing : Nat
  egr : Nat
  /-- The header, with the egress tunnel ID. -/
  hdr : Hdr
  payload : List Byte
  /-- 0 K, 1 C, 2 P, 3 N (R278). -/
  pass : Nat
  lossy : Bool
  red : Bool
  cls : Nat
  /-- Dock of the egress end; 64 = the hub's own. -/
  dock : Nat
  /-- Queue of the traffic manager; 4096 = none. -/
  queue : Nat
  stamp : Nat
  /-- Flow bucket of a group packet (R298). -/
  bucket : Option Nat
  /-- Admission number at the egress port, and core clock of admission. -/
  order : Nat
  since : Nat
  /-- Dock of the ingress end; 64 = none. -/
  src : Nat
  /-- Completion-pool cells released when the packet leaves, and the switch port of their pool (R264). -/
  cells : Nat
  pool : Nat
  /-- Ingress tunnel ID of a packet of a trunk. -/
  itid : Nat
  /-- The cask each of its cells was written to as the packet entered (R287); none before. -/
  casks : List Nat := []
deriving DecidableEq, Repr

/-- A tag of the tag pool (R238, R264). -/
structure Tag where
  /-- 1 PCIe, 2 USB. -/
  type : Nat
  toHost : Bool
  dock : Nat
  retSp : Nat
  retTid : Nat
  dev : Nat
  reqId : Nat
  reqTag : Nat
  /-- TIM_EDGES at issue. -/
  issued : Nat
  /-- Completion-pool cells reserved, and bytes the completions still owe. -/
  cells : Nat
  left : Nat
  /-- Edge at which discard state began (R268). -/
  discard : Option Nat
  tlp : Tlp
  /-- A prefetch read of PCIe port n, with the start of its data (R260). -/
  prefetch : Option Nat
deriving DecidableEq, Repr

/-- An entry of the device route table (R241). -/
structure Dev where
  /-- 1 PCIe, 2 USB, 3 Ethernet station. -/
  kind : Nat
  dock : Nat
  sp : Nat
  port : Nat
  detail : Nat
  detail2 : Nat
  seen : Nat
  /-- Edge of the last learning, for ageing. -/
  edge : Nat
deriving DecidableEq, Repr

/-- A dock's host event ring (R247-R251) and the events lost since the last OVERFLOW. -/
structure Evr where
  base : Nat
  ctl : Nat
  head : Nat
  tail : Nat
  phase : Bool
  lost : Nat
  since : Nat
  /-- Events held while the function is in D3hot: TYPE, DATA, TICK (R246). -/
  held : List (Nat × Nat × Nat)
deriving DecidableEq, Repr
/-- An event ring after reset. -/
def Evr.idle : Evr := ⟨0, 0, 0, 0, true, 0, 0, []⟩

/-- A prefetched piece of Pn's memory (R261): address, data, edge filled, used. -/
structure Pf where
  addr : Nat
  data : List Byte
  edge : Nat
  used : Bool
deriving DecidableEq, Repr

/-- A physical PCIe link: up, and its read requests by tag. -/
structure PLink where
  up : Bool
  rate : Nat
  width : Nat
deriving DecidableEq, Repr

/-- A tunnel move (R224, R225) after its switch-over. -/
structure Move where
  from_ : Nat
  dst : Nat
  tid : Nat
  cmd : Nat
  edge : Nat
  /-- Packet ids below this were queued before the switch-over. -/
  upto : Nat
  /-- Vintage of the switch-over. -/
  vint : Nat
  held : List Pkt
  /-- Step 6 is over; the grace of step 4 may still run. -/
  done : Bool
  graceOver : Bool
deriving DecidableEq, Repr

/-- The open unit of a segmented tunnel (R228): its KIND, FLOW, data so far, tag, and where its packets go; egress 31 = dropped. -/
structure Seg where
  kind : Nat
  flow : Nat
  data : List Byte
  tag : Nat
  egr : Nat
  etid : Nat
deriving DecidableEq, Repr

/-- Tunnels, adapters and bridges beyond the registers (chapters 7 and 8). -/
structure Tun where
  tags : Tab Tag
  /-- Most tags in use. -/
  tagHigh : Nat
  devs : Tab Dev
  /-- Freed handles and the edge of their freeing. -/
  freed : Tab Nat
  /-- Requests that wait for a tag or for completion space, with their ingress switch port (R240, R265). -/
  waitTag : List (Nat × TunPacket)
  waitPool : List (Nat × TunPacket)
  moves : List Move
  /-- Notice number of each trunk (R234). -/
  notices : Tab Nat
  /-- Open units at reception and at egress adapters, by switch port and tunnel ID and virtual channel. -/
  segIn : Tab Seg
  segOut : Tab Seg
  /-- Host configuration space by (dock times 16 plus function) times 1024 plus word: function 0 the upstream port, 1 the
  hub function, 2 + n the downstream port of Pn (R253-R255). -/
  config : Tab Word
  /-- BAR4 of the hub function by dock times 1024 plus word (R246). -/
  bar4 : Tab Word
  evr : Tab Evr
  /-- Docks' broken lock owners: dock, Requester ID (R259). -/
  broken : List (Nat × Nat)
  /-- Edge at which a port's bridge semaphore was taken, and requests held at the bridge (R258). -/
  lockEdge : Tab Nat
  lockHeld : Tab (List Pkt)
  prefetch : Tab (List Pf)
  plinks : Tab PLink
  /-- Ethernet links that are up. -/
  ethUp : BitVec 4
  /-- Cells reserved now in the completion pool of a switch port (R264). -/
  cplUse : Tab Nat
  /-- INTx levels asserted by port: bit 4n + pin. -/
  intx : Nat
deriving DecidableEq, Repr

/-- A barrel in the cellar (R295): slot, cells, leading cells that continue a packet. -/
structure Barrel where
  slot : Nat
  cells : Nat
  lead : Nat
  /-- Leading cells of packets that have been discarded (R296). -/
  skip : Nat := 0
deriving DecidableEq, Repr

/-- An egress queue of the traffic manager in the switch core (R293). -/
structure Queue where
  /-- Packets of the cask part. -/
  cask : List Pkt
  /-- Packets of the other parts, in order of admission. -/
  spill : List Pkt
  spilled : Bool
  /-- Cells of the drained barrels with the cask that holds each, and barrels in the drain reserve with the cells left in each. -/
  drained : List (List Byte × Nat)
  reserve : List Nat
  written : List Barrel
  /-- The open barrel: its slot, cells and the core clock of its first cell. -/
  openSlot : Option Nat
  openCells : List (List Byte)
  openLead : Nat
  openFrom : Nat
deriving DecidableEq, Repr
/-- An empty queue. -/
def Queue.empty : Queue := ⟨[], [], false, [], [], [], none, [], 0, 0⟩

/-- A fence of a dock (R300, R301). -/
structure Fence where
  no : Nat
  oldMask : Nat
  newMask : Nat
  /-- Member by bucket of the new map. -/
  newMap : List Nat
  /-- The buckets that move. -/
  moved : BitVec 256
  /-- Trunks whose FENCE_ACK has arrived. -/
  acked : Nat
  edge : Nat
  /-- By trunk: packet ids below this arrived before its acknowledgement. -/
  upto : Tab Nat
  hold : List Pkt
deriving DecidableEq, Repr

/-- The switch core beyond the registers (chapter 9). -/
structure Swc where
  nextPkt : Nat
  /-- Packets whose cells are being written, by ingress port. -/
  entry : Tab (List Pkt)
  /-- Virtual output queues by (ingress times 24 plus egress) times 4 plus pass. -/
  voq : Tab (List Pkt)
  /-- Batches matched and not yet relinked: egress port and packets. -/
  batches : List (Nat × List Pkt)
  sysq : Tab (List Pkt)
  /-- Lists of the direct ports by port times 4 plus pass. -/
  direct : Tab (List Pkt)
  queues : Tab Queue
  stamps : Tab Nat
  orders : Tab Nat
  /-- Barrel slots in use. -/
  slots : Tab Bool
  fences : Tab Fence
  /-- Docks whose map change waits (R302). -/
  waiting : List Nat
  /-- Packets of groups that have no ACTIVE member, by dock (R299). -/
  hold : Tab (List Pkt)
  /-- Packets with a cell in a cask that has been retired since they were written (R288), by packet id. -/
  lost : Tab Bool
  /-- Cells that each writer has written, modulo 256: ingress port i moves the pointer from 11 × i, the drain writer (24) from 0 (R287). -/
  wrote : Tab Nat
  /-- Cask accesses of the last cell slots: slot and cask (R287). -/
  taken : List (Nat × Nat)
deriving DecidableEq, Repr

/-- An exact fraction in lowest terms. -/
structure Frac where
  num : Int
  den : Nat
deriving DecidableEq, Repr

/-- A credit shaper or policer (R319): credit and remaining length in units of 2^-8. -/
structure Shaper where
  c : Frac
  left : Frac
  sending : Bool
deriving DecidableEq, Repr
/-- A shaper with no credit. -/
def Shaper.idle : Shaper := ⟨⟨0, 1⟩, ⟨0, 1⟩, false⟩

/-- A child of the schedule tree (R315): start and finish tag, and eligibility when last looked at. -/
structure Node where
  s : BitVec 64
  f : BitVec 64
  eligible : Bool
deriving DecidableEq, Repr

/-- The traffic manager beyond the registers (chapter 10). Port j has key j, dock d at it 256 + 64 j + d, its class c
65,536 + 8 (64 j + d) + c as parents; as children docks are 65,536 + 64 j + d, classes 131,072 + 8 (64 j + d) + c, queues q. -/
structure Tmg where
  /-- Virtual times of parents and tags of children. -/
  vtime : Tab (BitVec 64)
  nodes : Tab Node
  /-- Shapers of queues, of docks at ports, and policers. -/
  shapers : Tab Shaper
  /-- Core clock at which the pause of an Ethernet port began (R311). -/
  pauseAt : Tab Nat
deriving DecidableEq, Repr

/-- An eye scan that runs (R199-R203): its command, result address, and what the header keeps from its start; counts of the
points measured, tick and edge of the last window. -/
structure Scan where
  cmd : Nat
  addr : Nat
  eye : Nat
  dwell : Nat
  flags : Nat
  baud : Nat
  startTick : Nat
  lastTick : Nat
  dfe : List Word
  ffe : Word
  ctle : Word
  counts : List Word
  /-- UI compared of the point under way, and core clock of the scan's start. -/
  ui : Nat
  from_ : Nat
  /-- Edge of the last window; none before the first. -/
  edge : Option Nat
  /-- The lane left data or its loop, changed rate, retrained or was retired (R202). -/
  broken : Bool
deriving DecidableEq, Repr

/-- Lanes beyond their registers (chapter 6): scans by lane, the edge from which a PCIe port retrains as x1 (R209) with the
LANE.RETIRE that waits for it (R210), sampler offsets and sampling phase in force (R190, R193). -/
structure Lns where
  scans : Tab Scan
  x1 : Tab Nat
  x1Cmd : Tab Nat
  ofs : Tab Nat
deriving DecidableEq, Repr
/-- Display outputs beyond their registers (chapter 11). Registers hold the values after switch-over; `held` holds the active
value of each record that waits for the latch. -/
structure Dsp where
  held : Tab Word
  /-- Vintage that takes effect at the latch, by output. -/
  vint : Tab Nat
  /-- The sink as last reported, by output. -/
  sink : Tab SinkReport
  /-- Consecutive trainings in which a lane was reported failed (R208). -/
  fails : Tab Nat
  /-- Latch points that fell while P0 was applying, with the sink's report (R52). -/
  late : Tab SinkReport
  /-- Pixel, in raster order, from which a layer is transparent in this frame, by output times 8 plus layer (R347). -/
  cut : Tab Nat
  /-- Frames of an output locked to FRn (R343). -/
  frames : Tab Nat
  /-- The output shows only its background: from the next latch, and now; SAFE_CLR waits for the latch (R349). -/
  safeDue : Tab Bool
  safe : Tab Bool
  clr : Tab Bool
  /-- Check windows taken in this frame, by output times 16 plus window. -/
  checked : Tab Bool
  /-- Replies missing and AUX_DEFERs of the AUX transaction that runs (R331). -/
  aux : Tab (Nat × Nat)
deriving DecidableEq, Repr
/-- The place of a USB device below a dock's virtual hubs (R360): virtual port (0 = the hub itself), route string. -/
structure Loc where
  vport : Nat
  route : Nat
deriving DecidableEq, Repr

/-- A control endpoint of a virtual hub or of the device function (R370): address, configuration, remote-wake enable, and the
transfer in progress: setup bytes and the data of its OUT stage. -/
structure Ctl where
  addr : Nat
  config : Nat
  wake : Bool
  suspended : Bool
  setup : List Byte
  data : List Byte
deriving DecidableEq, Repr
/-- A control endpoint in the default state. -/
def Ctl.idle : Ctl := ⟨0, 0, false, false, [], []⟩

/-- A port of a virtual hub (R353): enabled, suspended or in U3, in reset, change bits, remote-wake mask. -/
structure VPort where
  enabled : Bool
  suspended : Bool
  change : Nat
  wakeMask : Nat
deriving DecidableEq, Repr
/-- A disabled port. -/
def VPort.idle : VPort := ⟨false, false, 0, 0⟩

/-- A USB 2.0 request that waits for its transaction (R359): dock, unit header, data, tag of the tag pool, edge of arrival. -/
structure UsbReq where
  dock : Nat
  unit : BitVec 64
  data : List Byte
  tag : Nat
  edge : Nat
deriving DecidableEq, Repr

/-- A block of endpoint memory in use or reserved (R362, R363): dock, buffer, its holder by a key, edge of its reservation, and
whether it is reserved and still unused. -/
structure Blk where
  dock : Nat
  buf : Nat
  key : Nat
  edge : Nat
  unused : Bool
deriving DecidableEq, Repr

/-- A wake of a virtual port (R371): core clock of its start, whether its report was cancelled. -/
structure Wake where
  start : Nat
  done : Bool
deriving DecidableEq, Repr

/-- The USB complex beyond its registers (chapter 12). Halves: 0 USB 2.0 hub, 1 SuperSpeed hub, 2 device function. -/
structure Usb where
  /-- Control endpoints by dock times 4 plus half. -/
  ctl : Tab Ctl
  /-- Virtual ports by (dock times 2 plus half) times 16 plus port. -/
  vports : Tab VPort
  /-- Places by dock times 128 plus USB 2.0 address (R360). -/
  locs : Tab Loc
  /-- Setup of a control transfer to a device by dock times 2^28 plus half times 2^27 plus route and address. -/
  setups : Tab (List Byte)
  /-- Requests by physical port: periodic and asynchronous lists. -/
  periodic : Tab (List UsbReq)
  async : Tab (List UsbReq)
  blocks : List Blk
  /-- Packets held for a block, by dock: toward a device and from one, with the physical port (R362). -/
  heldDown : Tab (List Pkt)
  heldUp : Tab (List (Nat × UsbPacket))
  /-- Wakes by dock times 16 plus virtual port. -/
  wakes : Tab Wake
  /-- Event records queued on EP1 by dock, with those lost (R367). -/
  ep1 : Tab (List (Nat × Nat × Nat))
  ep1Lost : Tab Nat
  /-- Edge at which the reset of a physical port on reassignment began (R356). -/
  resetFrom : Tab Nat
  /-- Bytes that a draining buffer still takes: offset and length (R366). -/
  drain : Tab (Nat × Nat)
deriving DecidableEq, Repr
/-- A request of a freeze record (R387): its tag entry, its tag, whether it is a read that is reissued, and whether the port
it was recorded for has left L0 since (R388). -/
structure Frozen where
  tag : Tag
  num : Nat
  read : Bool
  lost : Bool
deriving DecidableEq, Repr

/-- A racking operation (R389, R393): its command, dock, whether it saves, hub address, key slot, new mask of a restore, tick
at its start. -/
structure RackOp where
  cmd : Nat
  dock : Nat
  save : Bool
  addr : Nat
  slot : Nat
  mask : Nat
  tick : Nat
deriving DecidableEq, Repr

/-- Docks and racking beyond the registers (chapter 13). -/
structure Dck where
  /-- Freeze record by dock, in issue order. -/
  freeze : Tab (List Frozen)
  /-- Edge of freeze start and the RACK.FREEZE that waits, by dock. -/
  freezeEdge : Tab Nat
  freezeCmd : Tab Nat
  ops : List RackOp
  /-- Plain image of a restore that waits for its switch-over, by dock. -/
  image : Tab (List Byte)
  /-- Docks restored from an image of another hub (R395). -/
  foreign : Tab Bool
  /-- Power-on resets so far; VDK_INSTANCE is drawn afresh at each (R399). -/
  boots : Nat
deriving DecidableEq, Repr
/-- A copy or fill on a copy channel of SP23 (R88): id of its command, whether it fills, source address or pattern, destination, length. -/
structure Copy where
  cmd : Nat
  fill : Bool
  src : Nat
  dst : Nat
  len : Nat
deriving DecidableEq, Repr

/-- Memories beyond the registers (chapter 15). -/
structure Mst where
  /-- Poisoned lines by address over 64 (R441). -/
  poison : Tab Bool
  /-- Watch list of DRAM rows by channel, oldest first (R442). -/
  watch : Tab (List Nat)
  /-- Corrections of a channel since its last bucket unit (R440). -/
  corr : Tab Nat
  /-- Copies and fills under way or waiting for a channel, oldest first. -/
  copies : List Copy
  /-- Commands that hold or wait for one of the 16 copy channels of SP23, oldest first (R88). -/
  chan : List Nat
  /-- Edge of the last background test (R432). -/
  testEdge : Nat
  /-- Dual-port banks retired without fallback, one bit each (R436). -/
  dpLost : Nat
  /-- Records of a handle whose staging-store words are uncorrectable (R120, R124, R430). -/
  badRec : Tab (List Nat)
  /-- Spare rows used by bank: group times 32 plus bank (R433). -/
  spares : Tab Nat
  /-- Edge at which the pass of the patrol scrub began (R443). -/
  scrubFrom : Nat
  /-- Lines of the pass that the patrol scrub has read (R443). -/
  scrubAt : Nat
  /-- Bytes that each user of the cellar has asked for and not been served, by the numbers of MEM_BW_USEk, and the user, 1 to 4, whose
  rotating grant is next (R448). -/
  bwAsk : Tab Nat
  bwTurn : Nat
deriving DecidableEq, Repr

/-- Cells of a packet that leave a switch port's attachment, until their slots are settled (R458): the port, packet, virtual
channel, cells, those that have started to leave, SEQ of the stave with the packet's last byte on a trunk, and the fate once it
is final. -/
structure FateRec where
  port : Nat
  id : Nat
  vc : Nat
  cells : Nat
  started : Nat
  seq : Option Nat
  final : Option Bool
deriving DecidableEq, Repr

/-- A packet mark (R461); stage fields count core clocks from T0. -/
structure Mark where
  pkt : Nat
  /-- Core clock, tick edge and hub time of T0. -/
  clk : Nat
  edge : Nat
  t0 : Nat
  ing : Nat
  egr : Nat
  tid : Nat
  queue : Nat
  dock : Nat
  len : Nat
  cls : Nat
  pass : Nat
  lossy : Bool
  red : Bool
  spilled : Bool
  lookup : Nat
  relink : Option Nat
  spill : Option Nat
  drain : Option Nat
  firstOut : Option Nat
  lastOut : Option Nat
  fateAt : Option Nat
  vint : Nat
  no : Nat
  fate : Nat
deriving DecidableEq, Repr

/-- Telemetry beyond its registers (chapter 16). -/
structure Tel where
  fates : List FateRec
  /-- Cells still to leave of the packet at each port's attachment. -/
  busy : Tab Nat
  lfsr : Tab (BitVec 32)
  /-- Open marks, and closed ones in closing order. -/
  open_ : List Mark
  closed : List Mark
  /-- Marks since power-on reset. -/
  marks : Nat
  /-- Ticks without a latch since the last record. -/
  skipped : Nat
  /-- The snapshot buffer (R466). -/
  snap : List Byte
deriving DecidableEq, Repr
/-- What the hub does (R491, R506-R514): it runs; RESET# holds the core; it enters Doze; it is in Doze; it is in Off; it waits
after a rail failure. -/
inductive PwrMode where
  | run | warm | dozeEntry | doze | off | railWait
deriving DecidableEq, Repr

/-- Power beyond its registers (chapter 18). -/
structure Pwr where
  mode : PwrMode
  /-- Off was entered for temperature (R511). -/
  thermal : Bool
  /-- PWCn_DET# is low, and the edge of its last change, by channel (R500). -/
  det : Tab Bool
  detEdge : Tab Nat
  /-- Edge at which a retry wait began, and whether it runs, by channel (R503). -/
  retry : Tab Nat
  /-- Edge at which a gate was last pulled down (R504), and at which a ramp began (R501). -/
  gateDown : Tab Nat
  rampFrom : Tab Nat
  /-- PWC.ON commands that wait, by channel. -/
  waiting : Tab (List Nat)
  /-- Hold: edge of its start, edge of the last sample below WARN + HYST, lowest reading by monitor (R494). -/
  holdFrom : Nat
  holdLow : Nat
  holdMin : Tab Nat
  /-- Feeds that were lost and have not come back (R497). -/
  lost : Tab Bool
  /-- Feeds' voltage and presence at Doze entry, edge of entry, channels that tripped in Doze (R512). -/
  feeds : Tab (Nat × Bool)
  dozeFrom : Nat
  tripped : Nat
  /-- The image programmed into the trim store, none for the factory contents; an interrupted or failed rewrite leaves free
  contents (R518, R519). -/
  trim : Option (List Byte)
  /-- The image of the rewrite that runs. -/
  trimNew : Option (List Byte)
  /-- The SMBus pointer (R520). -/
  ptr : Word
deriving DecidableEq, Repr
/-- PTP messages the hub sends (R58, R59): sequenceId, clockIdentity and domain, and what each adds. -/
inductive PtpMsg where
  | sync (seq : Nat)
  /-- Precise origin timestamp: seconds, nanoseconds; the fraction in correctionField. -/
  | followUp (seq sec ns frac : Nat)
  | announce (seq priority1 priority2 clockClass clockAccuracy timeSource : Nat) (ptpTimescale : Bool) (utcOffset : Nat)
  | delayResp (seq sec ns frac : Nat) (requester : BitVec 80)
deriving DecidableEq, Repr

/-- What the hub sends outward, in order. -/
inductive Out where
  /-- An MSI-X message on a management port. -/
  | msix (p : Port) (vector : Nat)
  /-- A pulse of a time port: the hub time it marks, its width in ns, its advance in ns (R54). -/
  | pulse (n ns width advance : Nat)
  /-- A code frame of a time port as the levels of its line, two a bit, first level first; the line is low around it (R55). -/
  | code (n : Nat) (line : BitVec 288)
  /-- An untagged PTP frame on an Ethernet port: destination address, EtherType, clockIdentity, domainNumber and message (R58). -/
  | ptp (eth dest etherType identity domain : Nat) (msg : PtpMsg)
  /-- A stave dealt to a lane of a trunk: header and body units (R149). -/
  | stave (trunk lane : Nat) (header : Word64) (body : List Word64)
  /-- The line symbols of a codeword, and of a training burst, on a lane of a trunk: levels −3 to 3 on PAM4, bits on NRZ (R143, R169). -/
  | line (trunk lane : Nat) (symbols : List Int)
  | burst (trunk lane : Nat) (symbols : List Int)
  /-- An Ethernet frame sent on a port. -/
  | frame (eth : Nat) (data : List Byte)
  /-- A transaction layer packet sent on PCIe port Pn. -/
  | tlp (p : Nat) (t : Tlp)
  /-- A SuperSpeed packet, a USB 2.0 transaction request or a reset sent on port Un. -/
  | usb (u : Nat) (header : BitVec 96) (data : List Byte)
  | usb2 (u : Nat) (unit : BitVec 64) (data : List Byte)
  | usbReset (u : Nat)
  | usbResume (u : Nat)
  /-- An isochronous timestamp packet or SOF of port Un with its number (R357). -/
  | usbFrame (u number : Nat)
  /-- The hub device function's data to its host (R367-R369). -/
  | usbData (d ep : Nat) (data : List Byte)
  /-- Bytes written to a bus address of a management port. -/
  | bus (p : Port) (addr : Nat) (data : List Byte)
  /-- The value an agent read from a register. -/
  | data (r : Reader) (addr : Nat) (value : Word)
  /-- The data of an SMBus block read (R520). -/
  | smbus (addr : Nat) (value : Word)
deriving DecidableEq, Repr

/-- The hub but for its cellar memory and the queue of commands. -/
structure Hub where
  part : Part
  /-- Every control-space register that holds a value of its own; an unlisted address holds its reset value. -/
  regs : Tab Word
  /-- High-word latches: agent code times 2^24 plus the register's address (R20). -/
  latch : Tab Word
  tim : Tim
  trn : Trn
  txs : Txs
  flt : Flt
  /-- Trunk links by trunk number. -/
  trk : Tab TrkSt
  /-- Tunnel packets that have come off a link and wait to enter their switch port. -/
  arrived : List (Nat × TunPacket)
  keys : Keys
  mst : Mst
  tun : Tun
  swc : Swc
  tmg : Tmg
  usb : Usb
  dck : Dck
  tel : Tel
  dsp : Dsp
  lns : Lns
  pwr : Pwr
  /-- What the hub has sent outward, oldest first. -/
  out : List Out
  /-- Free values drawn so far (the model's own field). -/
  free : Nat
deriving DecidableEq, Repr

/-- The cellar: bytes that differ from 0, by cellar byte address (R438, R446). -/
structure Mem where
  cellar : List Host.Cell
deriving DecidableEq, Repr

/-- The machine: cellar, hub and the queue of waiting commands, first in, first out. -/
structure State where
  mem : Mem
  hub : Hub
  pending : List Instr
deriving DecidableEq, Repr

/-- The hub has no fault that stops it: errors become statuses, events and retirements (R86, R468). -/
inductive Fault where
deriving DecidableEq, Repr

/-- Why the model refuses a command. -/
inductive Refusal where
  /-- No meaning is written for the mnemonic; raised by an arm of exec only. Safe: the machine stops where the hub goes on. -/
  | notModelled (mnemonic : String)
deriving DecidableEq, Repr
/-- The part at reset: an FT9648-X8 of stepping B1, provisioned, with eight channels of 8 GiB.
DESIGN CHOICE (notes/assumptions/1.md): the fuses of a part are not the manual's to give. -/
def resetPart : Part :=
  { variant := 0, letter := 0x42, digit := 0x01, compat := false, lcBase := 1, debugLock := false, epoch := 0,
    densities := [128, 128, 128, 128, 128, 128, 128, 128] }

/-- The hub at the end of a power-on reset of a part. -/
def resetHub (p : Part) : Hub :=
  { part := p
    regs := []
    latch := []
    tim := { edgeFx := 0, baseFx := 0, baseClk := 0, rateTop := 0, coreClk := 0, edgeClk := 0, tickLen := 200000, edges := 0,
             stepArmed := none, suspended := 0, phase := 0, sweepAt := none, p0End := 0, syncAt := none, annAt := none, fr := [], stepped := [],
             pulseAt := [], lastPulse := [], aud := [], inRange := 0, windowStart := 0, syncSeq := [],
             annSeq := [], ptpDiscards := [] }
    trn := { ringMem := [], ccMem := [], imem := [], cmds := [], nextCmd := 0, lastRing := 7, tpPending := 0, sem := [],
             linkUp0 := true, linkUp1 := true, heldVec0 := 0, heldVec1 := 0, tpEdge := [], leftAt := [], bme0 := true, bme1 := true }
    txs := { open_ := [], submitted := [], queue := [], delivering := none, nextId := 0, vintage := 0, digest := 0,
             keyInUse := 0, keyRegs := 0, rekeyFrom := none, sliceVintage := [], sliceDigest := [], sliceSel := [],
             applyFrom := 0, applyNext := 0 }
    flt := { log := [], holdoff := [], due := [], leakFrom := [], restores := [] }
    trk := []
    arrived := []
    keys := { slots := [], lc := p.lcBase.toNat, nurseryEpoch := 0, change := none, fuse := false, ops := [], keyless := [],
              pn := [], windows := [], grace := [] }
    mst := { poison := [], watch := [], corr := [], copies := [], chan := [], testEdge := 0, dpLost := 0, badRec := [], spares := [], scrubFrom := 0, scrubAt := 0, bwAsk := [], bwTurn := 1 }
    tun := { tags := [], tagHigh := 0, devs := [], freed := [], waitTag := [], waitPool := [], moves := [], notices := [],
             segIn := [], segOut := [], config := [], bar4 := [], evr := [], broken := [], lockEdge := [], lockHeld := [],
             prefetch := [], plinks := [], ethUp := 0, cplUse := [], intx := 0 }
    swc := { nextPkt := 0, entry := [], voq := [], batches := [], sysq := [], direct := [], queues := [], stamps := [],
             orders := [], slots := [], fences := [], waiting := [], hold := [], lost := [], wrote := [], taken := [] }
    tmg := { vtime := [], nodes := [], shapers := [], pauseAt := [] }
    usb := { ctl := [], vports := [], locs := [], setups := [], periodic := [], async := [], blocks := [], heldDown := [],
             heldUp := [], wakes := [], ep1 := [], ep1Lost := [], resetFrom := [], drain := [] }
    dck := { freeze := [], freezeEdge := [], freezeCmd := [], ops := [], image := [], foreign := [], boots := 0 }
    tel := { fates := [], busy := [], lfsr := [], open_ := [], closed := [], marks := 0, skipped := 0, snap := [] }
    dsp := { held := [], vint := [], sink := [], fails := [], late := [], cut := [], frames := [], safeDue := [], safe := [], clr := [], checked := [],
             aux := [] }
    lns := { scans := [], x1 := [], x1Cmd := [], ofs := [] }
    pwr := { mode := .run, thermal := false, det := [], detEdge := [], retry := [], gateDown := [], rampFrom := [], waiting := [], holdFrom := 0, holdLow := 0,
             holdMin := [], lost := [], feeds := [], dozeFrom := 0, tripped := 0, trim := none, trimNew := none, ptr := 0 }
    out := []
    free := 0 }

/-- The machine right after power-on reset (R39, R517): nothing in memory, no command waiting. -/
def State.reset : State := { mem := { cellar := [] }, hub := resetHub resetPart, pending := [] }

end Sys2Proof.Machine
end

