-- ==== Sys2Proof/Machine/Ops.lean ====
section
/-!
DEFINITION. The named operations over the hub: the resources a variant has, registers and their fields, high-word
latches, hub time, and what goes outward.
-/
namespace Sys2Proof.Machine

/-- What a command answers. -/
abbrev Ans := Host.Outcome State Fault Refusal

/-- An operation that leaves the cellar and the queue alone. -/
def State.onHub (s : State) (f : Hub → Hub) : State := { s with hub := f s.hub }

/-- Does the core run? In Doze, Off, a warm reset and after a rail failure it does not (R491, R508, R511, R514). -/
def Hub.runs (h : Hub) : Bool := h.pwr.mode == .run

/-- Go on with the hub changed and nothing else, whatever the power state: what the always-on domain does. -/
def State.actAon (s : State) (f : Hub → Hub) : Ans := .next (s.onHub f)

/-- The same with the cellar. -/
def State.actAonMem (s : State) (f : Mem → Hub → Mem × Hub) : Ans :=
  .next { s with mem := (f s.mem s.hub).1, hub := (f s.mem s.hub).2 }

/-- Go on with the hub changed and nothing else; a core that does not run changes nothing. -/
def State.act (s : State) (f : Hub → Hub) : Ans := if s.hub.runs then s.actAon f else .next s

/-- Go on with cellar and hub changed, the queue as it is; a core that does not run changes nothing. -/
def State.actMem (s : State) (f : Mem → Hub → Mem × Hub) : Ans := if s.hub.runs then s.actAonMem f else .next s

/-- Bits [lo+n-1:lo] of a natural number. -/
def bitsOf (v lo n : Nat) : Nat := v / 2 ^ lo % 2 ^ n

/-- Put a value into bits [lo+n-1:lo]. -/
def putBits (v lo n x : Nat) : Nat :=
  v - bitsOf v lo n * 2 ^ lo + (x % 2 ^ n) * 2 ^ lo

/-- Is bit i of a number set? -/
def bitOf (v i : Nat) : Bool := v / 2 ^ i % 2 = 1

/-- A field of n bits read as two's complement. -/
def signed (v n : Nat) : Int := if v < 2 ^ (n - 1) then (v : Int) else (v : Int) - (2 ^ n : Nat)

/-- A mask with a 1 for each listed bit that a predicate takes. -/
def maskOf (n : Nat) (p : Nat → Bool) : Nat :=
  (List.range n).foldl (fun m i => if p i then m + 2 ^ i else m) 0

/-- The indices below n whose bit is set. -/
def bitsSet (n v : Nat) : List Nat := (List.range n).filter (bitOf v)

/-- A count of set bits. -/
def popcount (n v : Nat) : Nat := (bitsSet n v).length

/-! ### Resources of the variants (R2, R3, R26) -/

/-- The resources of one variant: package B, trunks, display outputs, PCIe ports, Ethernet ports, USB ports,
SuperSpeed ports, DRAM channels, docks, egress queues. -/
structure Variant where
  pkgB : Bool
  trunks : Nat
  outputs : Nat
  pcie : Nat
  eth : Nat
  usb : Nat
  ss : Nat
  channels : Nat
  docks : Nat
  queues : Nat
deriving DecidableEq, Repr

/-- The table of R2 by variant code. -/
def variantOf (code : Nat) : Variant :=
  match code with
  | 0 => ⟨false, 8, 8, 8, 4, 16, 12, 8, 64, 4096⟩
  | 1 => ⟨false, 6, 8, 8, 4, 16, 12, 8, 48, 1024⟩
  | 2 => ⟨false, 4, 8, 8, 4, 16, 12, 6, 32, 1024⟩
  | 3 => ⟨false, 8, 0, 8, 4, 16, 12, 8, 64, 4096⟩
  | 4 => ⟨false, 4, 0, 8, 4, 16, 12, 4, 32, 1024⟩
  | 5 => ⟨false, 8, 8, 0, 2, 8, 8, 8, 64, 1024⟩
  | 6 => ⟨false, 6, 6, 0, 2, 8, 8, 6, 48, 1024⟩
  | 7 => ⟨true, 4, 4, 4, 2, 12, 8, 4, 16, 1024⟩
  | 8 => ⟨true, 2, 4, 4, 2, 12, 8, 4, 8, 1024⟩
  | 9 => ⟨true, 2, 4, 0, 1, 8, 8, 2, 8, 1024⟩
  | 10 => ⟨true, 2, 2, 2, 1, 8, 8, 2, 8, 1024⟩
  | _ => ⟨true, 1, 2, 2, 1, 8, 8, 2, 4, 1024⟩

def Part.res (p : Part) : Variant := variantOf p.variant

/-- Is USB port Un present (R3)? -/
def usbPresent (v : Variant) (n : Nat) : Bool :=
  decide (n < v.ss) || (decide (12 ≤ n) && decide (n < 12 + (v.usb - v.ss)))

/-- The switch port of a lane's port, by R26; none for display lanes and management lanes. -/
def laneSp (l : Nat) : Option Nat :=
  if l < 32 then some (l / 4)
  else if l < 64 then none
  else if l < 80 then some (8 + (l - 64) / 2)
  else if l < 84 then some (16 + (l - 80))
  else if l < 96 then some 20
  else none

/-- Is a lane present (R3, R26)? -/
def lanePresent (v : Variant) (l : Nat) : Bool :=
  if l < 32 then decide (l / 4 < v.trunks)
  else if l < 64 then decide ((l - 32) / 4 < v.outputs)
  else if l < 80 then decide ((l - 64) / 2 < v.pcie)
  else if l < 84 then decide (l - 80 < v.eth)
  else if l < 96 then decide (l - 84 < v.ss)
  else decide (l < 98)

/-- Is a switch port present (R23)? -/
def spPresent (v : Variant) (n : Nat) : Bool :=
  if n < 8 then decide (n < v.trunks)
  else if n < 16 then decide (n - 8 < v.pcie)
  else if n < 20 then decide (n - 16 < v.eth)
  else decide (n < 24)

/-- Does the resource that an index names exist on the part? -/
def indexPresent (v : Variant) (k : IndexKind) (n : Nat) : Bool :=
  match k with
  | .trunk => decide (n < v.trunks)
  | .output => decide (n < v.outputs)
  | .lane => lanePresent v n
  | .dock => decide (n < v.docks)
  | .sp => spPresent v n
  | .queue => decide (n < v.queues)
  | .pcie => decide (n < v.pcie)
  | .eth => decide (n < v.eth)
  | .usb => usbPresent v n
  | .channel => decide (n < v.channels)
  | .pwc => if n < 16 then usbPresent v n else decide (n - 16 < v.pcie)
  | .other => true

/-- Resources of a bucket class (R470). -/
def classCount (c : Nat) : Nat :=
  match c with
  | 0 => 96
  | 1 => 256
  | 2 => 16
  | 3 => 8
  | 4 => 8
  | 5 => 8
  | 6 => 16
  | 7 => 4
  | 8 => 24
  | _ => 9

/-- What the indices of a bucket class run over (R470); classes of one index the hub always has have none. -/
def classKind (c : Nat) : IndexKind :=
  match c with
  | 0 => .lane
  | 3 => .channel
  | 4 => .output
  | 5 => .pcie
  | 6 => .usb
  | 7 => .eth
  | 8 => .pwc
  | _ => .other

/-! ### The register map -/

/-- The indices of an offset along dimensions, the remainder being zero. -/
def dimIndex : List (Nat × Nat × IndexKind) → Nat → Option (List (Nat × IndexKind))
  | [], off => if off = 0 then some [] else none
  | (c, st, k) :: ds, off =>
    if off / st < c then (dimIndex ds (off % st)).map (fun l => (off / st, k) :: l) else none

/-- The row and indices of an address, in a list of rows. -/
def findRow : List RegRow → Nat → Option (RegRow × List (Nat × IndexKind))
  | [], _ => none
  | r :: rs, a =>
    if r.base ≤ a then
      match dimIndex r.dims (a - r.base) with
      | some ix => some (r, ix)
      | none => findRow rs a
    else findRow rs a

/-- The register at an address; none where no chapter assigns one (R34, R540). -/
def regRow (a : Nat) : Option (RegRow × List (Nat × IndexKind)) := findRow (blockRows a) a

/-- Counters of a telemetry bank (R452); 0 where the code names none or its port or output is absent. -/
def bankSize (v : Variant) (b : Nat) : Nat :=
  let n := b % 16
  match b / 16 with
  | 1 => if n < 8 ∧ n < v.trunks then 8 else 0
  | 2 => if n = 0 then 16 else 0
  | 3 => if n = 0 then 32 else 0
  | 4 => if n = 0 then 32 else 0
  | 5 => if n < 8 ∧ n < v.outputs then 8 else 0
  | 6 => if n = 0 then 16 else 0
  | 7 => if n = 0 then 8 else 0
  | 8 => if n = 0 then 8 else 0
  | 9 => if n = 0 then 16 else 0
  | 10 => if n = 0 then 16 else 0
  | 11 => if n = 0 then 8 else 0
  | 12 => if n < 8 ∧ n < v.pcie then 8 else 0
  | 13 => if n < 4 ∧ n < v.eth then 8 else 0
  | _ => 0

/-- Does a register belong solely to an absent resource (R6): one of its indices names an absent one? Policers belong to
docks (R321), telemetry counters to banks (R452), buckets to the resources of their class (R470). -/
def absentReg (v : Variant) (base : Nat) (ix : List (Nat × IndexKind)) : Bool :=
  ix.any (fun e => !indexPresent v e.2 e.1) || (decide (v.outputs = 0) && decide (base / 0x100000 = 8)) ||
  (match ix with
    | (b, _) :: (k, _) :: _ => decide (0xD10000 ≤ base) && decide (base < 0xD30000) && decide (bankSize v b ≤ k) || (decide (base = 0xE01000) && (decide (classCount b ≤ k) || !indexPresent v (classKind b) k))
    | (p, _) :: _ => decide (0x780000 ≤ base) && decide (base < 0x7A0000) && decide (v.docks ≤ p / 16)
    | [] => false)

/-- WARN, RESET and HYST at reset of each monitored rail in mV (R487). -/
def railLevels (m : Nat) : Nat × Nat × Nat :=
  match m with
  | 0 => (10800, 9600, 200)
  | 1 => (720, 690, 10)
  | 2 => (770, 735, 10)
  | 3 => (815, 780, 10)
  | 4 => (1150, 1100, 10)
  | 5 => (1720, 1640, 10)
  | 6 => (1010, 970, 10)
  | 7 => (480, 460, 10)
  | _ => (3100, 2900, 50)

/-- THRESHOLD and LEAK_MS at reset of each bucket class (R470). -/
def bucketReset (c : Nat) : Nat × Nat :=
  match c with
  | 0 => (64, 1000)
  | 1 => (32, 10000)
  | 2 => (32, 10000)
  | 3 => (16, 60000)
  | 4 => (32, 10000)
  | 5 => (16, 60000)
  | 6 => (16, 60000)
  | 7 => (16, 60000)
  | 8 => (16, 60000)
  | _ => (32, 10000)

/-- A word from its value. -/
abbrev W (n : Nat) : Word := BitVec.ofNat 32 n

/-- Reset of a word of the scaling tables: 1,024 − 16p in tap 3 and 16p in tap 4 of phase p (chapter 11). -/
def bilinear (ix : List (Nat × IndexKind)) : Word :=
  match ix with
  | [_, (p, _), (1, _)] => W ((1024 - 16 * p) * 2 ^ 16)
  | [_, (p, _), (2, _)] => W (16 * p)
  | _ => 0

/-- A little-endian word of the factory trim store at a byte address. -/
def factoryWord (a : Nat) : Nat := (List.range 4).foldl (fun v i => v + (Config.factoryTrim (a + i)).toNat * 256 ^ i) 0

/-- The factory seed record of a lane and slot (R194). -/
def factoryRecord (l k : Nat) : Nat := factoryWord (l * 32 + k * 8) + factoryWord (l * 32 + k * 8 + 4) * 2 ^ 32

/-- The check of a seed record (R193). -/
def seedOk (v : Nat) : Bool :=
  decide (bitsOf v 0 8 = (List.range 7).foldl (fun x i => x ^^^ bitsOf v (8 * i + 8) 8) 0x5A)

/-- A record as loaded: one that fails its check is replaced by the defaults, whose CHECK byte R194 does not give. -/
def seedOr (v check : Nat) : Nat := if seedOk v then v else 12 * 2 ^ 59 + 6 * 2 ^ 55 + 0x80 * 2 ^ 16 + check % 256

/-- The value a register holds at reset where its row alone does not fix it: fuses (R11-R17), index-dependent values. -/
def resetSpecial (p : Part) (base : Nat) (ix : List (Nat × IndexKind)) (dflt : Word) : Word :=
  let v := p.res
  let i := (ix.head?.map (·.1)).getD 0
  let slot := (ix[1]?.map (·.1)).getD 0
  match base with
  | 0x4 => W (p.letter.toNat * 256 + p.digit.toNat)
  | 0x8 => W ((if v.pkgB then 256 else 0) + p.variant)
  | 0xC => W (if p.compat then 1 else 0)
  | 0x10 => W ((2 ^ v.eth - 1) * 2 ^ 24 + (2 ^ v.pcie - 1) * 2 ^ 16 + (2 ^ v.outputs - 1) * 2 ^ 8 + (2 ^ v.trunks - 1))
  | 0x14 => W ((2 ^ v.ss - 1) * 2 ^ 16 + maskOf 16 (usbPresent v))
  | 0x18 => W (v.queues * 2 ^ 16 + (if v.queues = 4096 then 2 ^ 15 else 0) + v.docks * 2 ^ 8 + (2 ^ v.channels - 1))
  | 0x300000 => W ((if lanePresent v i then 2 ^ 31 else 0) +
      (if i < 32 then 0 else if i < 64 then 1 else if i < 84 then 0 else if i < 96 then 1 else 2) * 2 ^ 26)
  | 0x300040 => W (seedOr (factoryRecord i slot) (Config.analogue i slot).toNat)
  | 0x300044 => W (seedOr (factoryRecord i slot) (Config.analogue i slot).toNat / 2 ^ 32)
  | 0x360040 => W (seedOr (factoryRecord (96 + i) 0) (Config.analogue (96 + i) 0).toNat)
  | 0x360044 => W (seedOr (factoryRecord (96 + i) 0) (Config.analogue (96 + i) 0).toNat / 2 ^ 32)
  | 0x700000 => W (if v.queues = 4096 then 2 ^ 31 else 0)
  | 0x774000 => W (i % 4 * 2 ^ 28)
  | 0xE00100 => W ((bucketReset i).1 * 2 ^ 16 + (bucketReset i).2)
  | 0xF00100 => W ((railLevels i).2.1 * 2 ^ 16 + (railLevels i).1)
  | 0xF00104 => W (railLevels i).2.2
  | 0xF01000 => if i < 16 then W 0x1E0503E8 else W 0x3C1403E8
  | 0x801000 => bilinear ix
  | 0x801400 => bilinear ix
  | 0x800124 => W 0x1000
  | 0x80012C => W 0x1000
  | 0x800134 => W 0x1000
  | _ => dflt

/-- The reset value of the register at an address; 0 where none is assigned or its resource is absent (R6, R34). -/
def resetVal (p : Part) (a : Nat) : Word :=
  match regRow a with
  | none => 0
  | some (r, ix) => if absentReg p.res r.base ix then 0 else resetSpecial p r.base ix r.reset

/-- The value a register holds. -/
def rd (h : Hub) (a : Nat) : Word := tget (resetVal h.part a) h.regs a

/-- Set the value a register holds. -/
def wr (h : Hub) (a : Nat) (v : Word) : Hub := { h with regs := tset (resetVal h.part a) h.regs a v }

/-- A field of a register. -/
def fld (h : Hub) (a lo n : Nat) : Nat := bitsOf (rd h a).toNat lo n

/-- Is a bit of a register set? -/
def flag (h : Hub) (a i : Nat) : Bool := bitOf (rd h a).toNat i

/-- Set a field of a register. -/
def setFld (h : Hub) (a lo n v : Nat) : Hub := wr h a (W (putBits (rd h a).toNat lo n v))

/-- Set or clear a bit of a register. -/
def setFlag (h : Hub) (a i : Nat) (b : Bool) : Hub := setFld h a i 1 (if b then 1 else 0)

/-- Count in a 32-bit counter register, saturating (R18 and the counter tables). -/
def count (h : Hub) (a : Nat) (n : Nat) : Hub := wr h a (W (min 0xFFFFFFFF ((rd h a).toNat + n)))

/-- A 64-bit quantity in two registers, low word first (R20). -/
def rd64 (h : Hub) (lo : Nat) : Nat := (rd h lo).toNat + (rd h (lo + 4)).toNat * 2 ^ 32

/-- Write a 64-bit quantity. -/
def wr64 (h : Hub) (lo v : Nat) : Hub := wr (wr h lo (W v)) (lo + 4) (W (v / 2 ^ 32))

/-! ### Time -/

/-- TIM_RATE_NOW in 10^-12 (R40). -/
def rateNow (h : Hub) : Int := signed (rd h aTimRateNow).toNat 32

/-- Hub time in units of 2^-16 ns (R39, R40): from the point at which the rate in force began, 0.625 ns a core clock at that rate,
kept below the next edge. -/
def hubFx (h : Hub) : Nat :=
  let c := h.tim.coreClk - h.tim.baseClk
  min (h.tim.baseFx + ((c : Int) * 40960 * (1000000000000 + rateNow h) / 1000000000000).toNat) (h.tim.edgeFx + (125000 * 65536 - 1))

/-- Set the rate offset: hub time runs on from where it is, at the new rate (R40, R41). -/
def setRate (h : Hub) (r : Word) : Hub :=
  let g := wr h aTimRateNow r
  { g with tim := { g.tim with baseFx := hubFx h, baseClk := h.tim.coreClk, rateTop := max h.tim.rateTop (rateNow g).natAbs } }

/-- Core clocks by which the tick may differ from 200,000: one for each 5 ppm of offset (R30). -/
def tickSlack (h : Hub) : Nat := (max h.tim.rateTop (rateNow h).natAbs + 4999999) / 5000000

/-- Hub time in ns. -/
def hubNs (h : Hub) : Nat := hubFx h / 65536 % 2 ^ 64

/-- The tick number (R39). -/
def tickNo (h : Hub) : Nat := hubNs h / 125000

/-- Tick edges since a recorded edge count. -/
def edgesSince (h : Hub) (from_ : Nat) : Nat := h.tim.edges - from_

/-- Is the hub in hold after a supply dip (R493)? -/
def inHold (h : Hub) : Bool := flag h aPwrStatus 30

/-! ### Agents and latches -/

def Port.toNat : Port → Nat
  | .m0 => 0
  | .m1 => 1

def Port.ofNat (n : Nat) : Port := if n % 2 = 0 then .m0 else .m1

def portOther : Port → Port
  | .m0 => .m1
  | .m1 => .m0

/-- A number for each agent. -/
def agentCode : Reader → Nat
  | .port p => Port.toNat p
  | .thread n => 2 + n.val
  | .host d => 6 + d.val

/-- Load an agent's latch of a register. -/
def loadLatch (h : Hub) (r : Reader) (a : Nat) (v : Word) : Hub :=
  { h with latch := tput h.latch (agentCode r * 2 ^ 24 + a) v }

/-- Clear the latches of the agents a predicate takes (R20). -/
def clearLatches (h : Hub) (p : Nat → Bool) : Hub :=
  { h with
    latch := h.latch.filter (fun e => !p (e.1 / 2 ^ 24))
    txs := { h.txs with sliceSel := h.txs.sliceSel.filter (fun e => !p e.1) } }

/-! ### Outward -/

/-- Send something outward. -/
def send (h : Hub) (o : Out) : Hub := { h with out := h.out ++ [o] }

/-- A fresh free value. -/
def drawFree (h : Hub) : Hub × BitVec 64 := ({ h with free := h.free + 1 }, Config.freeValue h.free)

/-- Is the link of a management port up? -/
def mgmtUp (h : Hub) (p : Port) : Bool :=
  match p with
  | .m0 => h.trn.linkUp0
  | .m1 => h.trn.linkUp1

/-- Send an MSI-X vector on a management port, or hold it once while its link is down (R100). -/
def sendMsix (h : Hub) (p : Port) (vec : Nat) : Hub :=
  if mgmtUp h p then send h (.msix p vec)
  else match p with
    | .m0 => { h with trn := { h.trn with heldVec0 := h.trn.heldVec0 ||| BitVec.ofNat 64 (2 ^ (vec % 64)) } }
    | .m1 => { h with trn := { h.trn with heldVec1 := h.trn.heldVec1 ||| BitVec.ofNat 64 (2 ^ (vec % 64)) } }

end Sys2Proof.Machine
end

