-- ==== Sys2Proof/Machine/Tlp.lean ====
section
/-!
DEFINITION. Bytes and numbers, and transaction layer packets as bytes (R229). The byte layout is that of PCI Express Base,
PRESUMED (notes/assumptions/30.md).
-/
namespace Sys2Proof.Machine

/-- A little-endian number of bytes. -/
def leNat (bs : List Byte) : Nat := bs.foldr (fun b a => a * 256 + b.toNat) 0

/-- A number as n bytes, least significant first. -/
def leBytes (n v : Nat) : List Byte := (List.range n).map (fun i => BitVec.ofNat 8 (v / 256 ^ i))

/-- Bytes as numbers, and back. -/
def toNats (bs : List Byte) : List Nat := bs.map BitVec.toNat
def toBytes (ns : List Nat) : List Byte := ns.map (BitVec.ofNat 8)

/-! ### Bytes -/

/-- Big-endian bytes of a double word. -/
def dwBytes (v : Nat) : List Byte := toBytes (beBytes 4 v)

/-- A double word of big-endian bytes. -/
def dwAt (bs : List Byte) (i : Nat) : Nat := beNat (toNats ((bs.drop (4 * i)).take 4))

/-- The Type code of a TLP. -/
def tlpCode (t : Tlp) : Nat :=
  let big := decide (2 ^ 32 ≤ t.addr.toNat)
  match t.kind with
  | .memRd => if big then 0x20 else 0x03
  | .memRdLk => if big then 0x21 else 0x01
  | .memWr => if big then 0x60 else 0x40
  | .ioRd => 0x02
  | .ioWr => 0x42
  | .cfgRd => if t.type1 then 0x05 else 0x04
  | .cfgWr => if t.type1 then 0x45 else 0x44
  | .atomic => (if big then 0x6C else 0x4C) + t.msgCode.toNat % 3
  | .msg => if t.data = [] then 0x34 else 0x74
  | .cpl => if t.data = [] then 0x0A else 0x4A
  | .cplLk => if t.data = [] then 0x0B else 0x4B

def isCpl (t : Tlp) : Bool := t.kind = .cpl || t.kind = .cplLk

/-- Has a request a header content word for its byte enables or status? -/
def tlpOhc (t : Tlp) : Bool := isCpl t || (t.kind ≠ .msg && (t.firstBe ≠ 15 || (decide (4 < t.len) && t.lastBe ≠ 15)))

/-- A TLP in bytes (R229). -/
def tlpBytes (t : Tlp) : List Byte :=
  let dw0 := tlpCode t * 2 ^ 24 + (if tlpOhc t then 2 ^ 16 else 0) + t.addrType.toNat * 2 ^ 13 + t.attr.toNat * 2 ^ 10 + t.len / 4 % 1024
  let mid :=
    if isCpl t then
      dwBytes (t.target.toNat * 2 ^ 16 + t.tag.toNat) ++ dwBytes (t.reqId.toNat * 2 ^ 16 + t.byteCount % 4096)
    else if t.kind = .msg then
      dwBytes (t.reqId.toNat * 2 ^ 16 + t.msgCode.toNat) ++ dwBytes (t.addr.toNat / 2 ^ 32) ++ dwBytes t.addr.toNat
    else
      dwBytes (t.reqId.toNat * 2 ^ 16 + t.tag.toNat) ++
        (if t.kind = .cfgRd ∨ t.kind = .cfgWr then dwBytes (t.target.toNat * 2 ^ 16 + t.addr.toNat % 4096)
         else if t.addr.toNat < 2 ^ 32 then dwBytes t.addr.toNat
         else dwBytes (t.addr.toNat / 2 ^ 32) ++ dwBytes t.addr.toNat)
  let ohc := if !tlpOhc t then [] else
    if isCpl t then dwBytes (t.status.toNat + t.addr.toNat % 128 * 8) else dwBytes (t.lastBe.toNat * 16 + t.firstBe.toNat)
  dwBytes dw0 ++ mid ++ ohc ++ t.data

/-- The kind of a Type code; the flag says that a 64-bit address or a Type 1 form is meant. -/
def codeKind (c : Nat) : Option (TlpKind × Bool) :=
  match c with
  | 0x03 => some (.memRd, false)
  | 0x20 => some (.memRd, true)
  | 0x01 => some (.memRdLk, false)
  | 0x21 => some (.memRdLk, true)
  | 0x40 => some (.memWr, false)
  | 0x60 => some (.memWr, true)
  | 0x02 => some (.ioRd, false)
  | 0x42 => some (.ioWr, false)
  | 0x04 => some (.cfgRd, false)
  | 0x05 => some (.cfgRd, true)
  | 0x44 => some (.cfgWr, false)
  | 0x45 => some (.cfgWr, true)
  | 0x4C => some (.atomic, false)
  | 0x4D => some (.atomic, false)
  | 0x4E => some (.atomic, false)
  | 0x6C => some (.atomic, true)
  | 0x6D => some (.atomic, true)
  | 0x6E => some (.atomic, true)
  | 0x34 => some (.msg, true)
  | 0x74 => some (.msg, true)
  | 0x0A => some (.cpl, false)
  | 0x4A => some (.cpl, false)
  | 0x0B => some (.cplLk, false)
  | 0x4B => some (.cplLk, false)
  | _ => none

/-- A TLP of bytes. -/
def bytesTlp (bs : List Byte) : Option Tlp :=
  match codeKind (bitsOf (dwAt bs 0) 24 8) with
  | none => none
  | some (k, flag) =>
    let w0 := dwAt bs 0
    let w1 := dwAt bs 1
    let w2 := dwAt bs 2
    let w3 := dwAt bs 3
    let code := bitsOf w0 24 8
    let cpl := decide (k = .cpl) || decide (k = .cplLk)
    let cfg := decide (k = .cfgRd) || decide (k = .cfgWr)
    let long := flag && !cfg
    let hdr := if long then 4 else 3
    let ohc := bitOf w0 16
    let o := if ohc then dwAt bs hdr else 0
    let start := 4 * (hdr + (if ohc then 1 else 0))
    let dws := bitsOf w0 0 10
    let len := 4 * (if dws = 0 then (if cpl ∨ k = .msg then 0 else 1024) else dws)
    let addr := if cpl then bitsOf o 3 7 else if long then w2 * 2 ^ 32 + w3 else if cfg then bitsOf w2 0 12 else w2
    some { kind := k, type1 := cfg && flag, reqId := BitVec.ofNat 16 (if cpl then bitsOf w2 16 16 else bitsOf w1 16 16),
           tag := if k = .msg then 0 else BitVec.ofNat 14 w1, addr := BitVec.ofNat 64 addr, len := len,
           firstBe := if ohc && !cpl then BitVec.ofNat 4 o else 15, lastBe := if ohc && !cpl then BitVec.ofNat 4 (o / 16) else 15,
           data := bs.drop start, status := if cpl then BitVec.ofNat 3 o else 0,
           byteCount := if cpl then (if bitsOf w2 0 12 = 0 then 4096 else bitsOf w2 0 12) else 0,
           target := BitVec.ofNat 16 (if cpl then bitsOf w1 16 16 else if cfg then bitsOf w2 16 16 else 0),
           msgCode := if k = .msg then BitVec.ofNat 8 w1 else if k = .atomic then BitVec.ofNat 8 (code % 4) else 0,
           attr := BitVec.ofNat 3 (bitsOf w0 10 3), addrType := BitVec.ofNat 2 (bitsOf w0 13 2) }

/-- KIND of a TLP (R227): posted, non-posted, completion. -/
def tlpClass (t : Tlp) : Nat :=
  match t.kind with
  | .memWr => 0
  | .msg => 0
  | .cpl => 2
  | .cplLk => 2
  | _ => 1

/-- A blank TLP to build upon. -/
def tlpZero : Tlp :=
  { kind := .msg, type1 := false, reqId := 0, tag := 0, addr := 0, len := 0, firstBe := 15, lastBe := 15, data := [],
    status := 0, byteCount := 0, target := 0, msgCode := 0, attr := 0 }

/-- A posted write of whole words. -/
def tlpWrite (reqId addr : Nat) (data : List Byte) : Tlp :=
  { tlpZero with kind := .memWr, reqId := BitVec.ofNat 16 reqId, addr := BitVec.ofNat 64 addr, len := data.length, data := data }

/-- A message without data. -/
def tlpMsg (reqId code : Nat) : Tlp := { tlpZero with reqId := BitVec.ofNat 16 reqId, msgCode := BitVec.ofNat 8 code }

/-- The completion of a request: 0 success, 1 Unsupported Request, 4 Completer Abort. -/
def tlpCpl (t : Tlp) (status : Nat) (data : List Byte) : Tlp :=
  { tlpZero with kind := if t.kind = .memRdLk then .cplLk else .cpl, reqId := t.reqId, tag := t.tag,
                 status := BitVec.ofNat 3 status, len := data.length, data := data,
                 byteCount := if data = [] then 4 else data.length, addr := t.addr &&& 0x7F, attr := t.attr }

end Sys2Proof.Machine
end

