-- ==== Sys2Proof/Machine/Tally.lean ====
section
/-!
DEFINITION. The counters of telemetry (R452-R456), slot settlement (R457, R458) and packet marks (R459-R461), as every block
reports its events to them.
-/
namespace Sys2Proof.Machine

/-! ### Counters (R452-R456) -/

/-- What the filters of R454 look at in a packet: ingress switch port, dock (64 for none), class and, for a PCIe memory
request, its first address. -/
structure PInfo where
  ing : Nat
  dock : Nat
  cls : Nat
  mem : Option Nat
deriving DecidableEq, Repr

/-- The first address of a payload that is a PCIe memory request. -/
def memAddr (type : Nat) (payload : List Byte) : Option Nat :=
  if type ≠ 1 then none
  else match bytesTlp payload with
    | some t => if t.kind = .memRd ∨ t.kind = .memRdLk ∨ t.kind = .memWr then some t.addr.toNat else none
    | none => none

/-- What filters see of a packet inside the hub. -/
def pktInfo (p : Pkt) : PInfo := ⟨p.ing, p.dock, p.cls, memAddr p.hdr.type.toNat p.payload⟩

/-- Does a packet meet a filter word (R454)? -/
def filterOk (h : Hub) (f : Nat) (p : PInfo) : Bool :=
  let r := bitsOf f 32 4
  (match bitsOf f 62 2 with
    | 0 => true
    | 1 => decide (p.ing < 8)
    | 2 => decide (8 ≤ p.ing) && decide (p.ing ≤ 20)
    | _ => decide (21 ≤ p.ing)) &&
  (!bitOf f 61 || decide (p.ing = bitsOf f 56 5)) && (!bitOf f 55 || decide (p.dock = bitsOf f 48 6)) &&
  (!bitOf f 47 || decide (p.cls = bitsOf f 44 3)) &&
  (!bitOf f 43 || (match p.mem with
    | some a => decide (rd64 h (aTelRangeBaseLo r) ≤ a) && decide (a ≤ rd64 h (aTelRangeLimitLo r))
    | none => false))

/-- Value of counter k of a bank. -/
def telValue (h : Hub) (b k : Nat) : Nat := (rd h (aTelCntLo b k)).toNat + fld h (aTelCntHi b k) 0 16 * 2 ^ 32

def setTelValue (h : Hub) (b k v : Nat) : Hub :=
  setFld (wr h (aTelCntLo b k) (W v)) (aTelCntHi b k) 0 16 (v / 2 ^ 32)

/-- Is a counter chained to the one below (R456)? -/
def chained (h : Hub) (b k : Nat) : Bool := decide (fld h (aTelSelSel b k) 0 16 = 0xFFFF)

/-- Add to a counter while it is armed; a carry goes to the chained counter above or sets WRAPPED (R456). -/
def bump : Nat → Hub → Nat → Nat → Nat → Hub
  | 0, h, _, _, _ => h
  | fuel + 1, h, b, k, n =>
    if !flag h (aTelCntHi b k) 31 then h
    else
      let v := telValue h b k + n
      let h := setTelValue h b k (v % 2 ^ 48)
      if v < 2 ^ 48 then h
      else if k + 1 < bankSize h.part.res b && chained h b (k + 1) then bump fuel h b (k + 1) 1
      else setFlag h (aTelCntHi b k) 30 true

/-- The selection registers of a bank range that select an event; only counters with a selection are listed. -/
def selecting (h : Hub) (lo hi ev : Nat) : List Nat :=
  h.regs.filterMap (fun e =>
    if aTelSelSel lo 0 ≤ e.1 ∧ e.1 < aTelSelSel hi 0 ∧ e.1 % 16 = 0 ∧ e.2.toNat % 65536 = ev then some (e.1 - 0xD20000) else none)

/-- One selected counter sees an event. -/
def tallyOne (n : Nat) (p : Option PInfo) (h : Hub) (off : Nat) : Hub :=
  let b := off / 512
  let k := off % 512 / 16
  let ok := !flag h (aTelSelSel b k) 31 ||
    (match p with
      | some i => filterOk h (rd64 h (aTelSelFltLo b k)) i
      | none => false)
  if ok then bump 32 h b k n else h

/-- An event of a bank of size n (R453). -/
def tally (h : Hub) (bank ev n : Nat) (p : Option PInfo) : Hub :=
  if n = 0 then h else (selecting h bank (bank + 1) ev).foldl (tallyOne n p) h

/-- An event of every bank. -/
def tallyAll (h : Hub) (ev n : Nat) : Hub := if n = 0 then h else (selecting h 0 256 ev).foldl (tallyOne n none) h

/-- Let the core clock run to a clock, but not past the last of the tick (R30); counters of core clocks follow (R453). -/
def runTo (h : Hub) (clk : Nat) : Hub :=
  let c := max h.tim.coreClk (min clk (h.tim.edgeClk + 199999 + tickSlack h))
  tallyAll { h with tim := { h.tim with coreClk := c } } 0x0001 (c - h.tim.coreClk)

/-- Let the core clock run to t clocks after the last edge. -/
def atClk (h : Hub) (t : Nat) : Hub := runTo h (h.tim.edgeClk + t)

/-! ### The phases of a tick (R45-R49) -/

/-- P0 has work: a transaction whose apply has begun, or the oldest accepted one due at this edge while the hub applies
transactions and no later phase has begun (R45, R48, R51, R125, R132). -/
def p0Busy (h : Hub) : Bool :=
  h.txs.delivering.isSome ||
  (decide (h.tim.phase = 0) && !inHold h && h.txs.rekeyFrom.isNone && (match h.txs.queue with
    | s :: _ => decide (s.accClk + 3200 ≤ h.tim.edgeClk)
    | [] => false))

/-- Is work of a phase suspended (R47)? -/
def phaseSuspended (h : Hub) (p : Nat) : Bool := bitOf h.tim.suspended.toNat p

/-- Suspended work of a phase has resumed. -/
def resumed (h : Hub) (p : Nat) : Hub :=
  { h with tim := { h.tim with suspended := BitVec.ofNat 5 (putBits h.tim.suspended.toNat p 1 0) } }

/-- May work of phase p begin? P0 is over and no later phase has begun in this tick (R45, R46, R48). -/
def phaseOpen (h : Hub) (p : Nat) : Bool := !p0Busy h && decide (h.tim.phase ≤ p)

/-- Clocks from the edge at which a phase's window opens (R45). -/
def phaseStart (p : Nat) : Nat :=
  match p with
  | 0 => 0
  | 1 => 3200
  | 2 => 9600
  | 3 => 64000
  | _ => 144000

/-- Work of phase p begins, at the start of its window or later (R46). -/
def enterPhase (h : Hub) (p : Nat) : Hub :=
  let h := atClk h (phaseStart p)
  { h with tim := { h.tim with phase := max h.tim.phase p } }

/-! ### Slots (R457, R458) -/

/-- A 48-bit slot counter at its low word. -/
def addSlot (h : Hub) (a n : Nat) : Hub :=
  let v := ((rd h a).toNat + fld h (a + 4) 0 16 * 2 ^ 32 + n) % 2 ^ 48
  setFld (wr h a (W v)) (a + 4) 0 16 (v / 2 ^ 32)

/-- Take pending slots back from PENDING. -/
def subPending (h : Hub) (j n : Nat) : Hub := addSlot h (aTelSlotPendingLo j) (2 ^ 48 - n)

/-! ### Marks (R459-R461) -/

/-- Clocks since the T0 of a mark. -/
def sinceMark (h : Hub) (m : Mark) : Nat := h.tim.coreClk - m.clk

/-- Note something in the open mark of a packet. -/
def markSet (h : Hub) (id : Nat) (f : Hub → Mark → Mark) : Hub :=
  if h.tel.open_.any (fun m => decide (m.pkt = id)) then
    { h with tel := { h.tel with open_ := h.tel.open_.map (fun m => if m.pkt = id then f h m else m) } }
  else h

/-- Close the mark of a packet with a fate (R461). -/
def markClose (h : Hub) (id fate : Nat) : Hub :=
  match h.tel.open_.find? (fun m => decide (m.pkt = id)) with
  | none => h
  | some m =>
    let m := { m with fate := fate, fateAt := some (sinceMark h m) }
    { h with tel := { h.tel with
      open_ := h.tel.open_.filter (fun x => decide (x.pkt ≠ id)), closed := h.tel.closed ++ [m] } }

/-- The marks of a list of packets close with a fate. -/
def marksClose (h : Hub) (l : List Pkt) (fate : Nat) : Hub := l.foldl (fun h p => markClose h p.id fate) h

/-- The fate of a packet that left its attachment is final: its pending slots settle (R458). -/
def fateFinal (h : Hub) (f : FateRec) (good : Bool) : Hub :=
  let h := subPending h f.port f.started
  let h := addSlot h (if good then aTelSlotRetiredLo f.port else aTelSlotWastedLo f.port) f.started
  let rest := h.tel.fates.filter (fun x => decide (x.id ≠ f.id))
  let keep := if f.started < f.cells then [{ f with final := some good, started := 0, cells := f.cells - f.started }] else []
  markClose { h with tel := { h.tel with fates := rest ++ keep } } f.id (if good then 0 else 1)

/-- The open fates that a predicate takes are final. -/
def fatesFinal (h : Hub) (p : FateRec → Bool) (good : Bool) : Hub :=
  (h.tel.fates.filter (fun f => f.final.isNone && p f)).foldl (fun h f => fateFinal h f good) h

end Sys2Proof.Machine
end

