-- ==== Sys2Proof/Machine/LaneState.lean ====
section
/-!
DEFINITION. The state of a lane and its equalisers (chapter 6): rate slots, seeds, full training, adaptation, transmit coefficients.
-/
namespace Sys2Proof.Machine

/-! ### Lanes (R184, R189-R193, R202, R212) -/

/-- Is a lane retired (R209)? -/
def laneRetired (h : Hub) (l : Nat) : Bool := flag h (aLaneRetired (l / 32)) (l % 32)

/-- Is a lane of the PAM4 long-reach macro (R184)? -/
def longReach (l : Nat) : Bool := decide (l < 32) || (decide (64 ≤ l) && decide (l < 84))

/-- Has a lane a receiver (R184)? -/
def laneReceives (l : Nat) : Bool := !(decide (32 ≤ l) && decide (l < 64))

/-- STATE of a lane (R212). -/
def laneState (h : Hub) (l : Nat) : Nat := fld h (aLaneStatus l) 28 3

/-- The rate slot of a lane at a symbol rate (R192). -/
def rateSlot (l baud : Nat) (pam4 : Bool) : Nat :=
  if longReach l then (if pam4 then (if 32000 < baud then 0 else 1) else if 16000 ≤ baud then 2 else 3)
  else if l < 96 then (if 20000 ≤ baud then 0 else if 13500 ≤ baud then 1 else if 10000 ≤ baud then 2 else 3)
  else (if 16000 ≤ baud then 0 else if 8000 ≤ baud then 1 else if 5000 ≤ baud then 2 else 3)

/-- A scan of a lane ends early (R202). -/
def scanBreak (h : Hub) (l : Nat) : Hub :=
  match tfind h.lns.scans l with
  | some s => { h with lns := { h.lns with scans := tput h.lns.scans l { s with broken := true } } }
  | none => h

/-- CDR_LOCK and ENERGY follow a lane's STATE where it settles them: both 1 in data, both 0 in off and retired, no energy in idle. -/
def laneSignal (h : Hub) (l st : Nat) : Hub :=
  if !laneReceives l then h
  else if st = 2 then setFld h (aLaneStatus l) 24 2 3
  else if st = 0 ∨ st = 5 then setFld h (aLaneStatus l) 24 2 0
  else if st = 3 then setFlag h (aLaneStatus l) 24 false
  else h

/-- Set a lane's STATE, symbol rate and modulation. A change breaks a scan that runs (R202); TAP_LIMIT holds in data only; leaving
electrical idle counts (R198). -/
def laneSet (h : Hub) (l st baud : Nat) (pam4 : Bool) : Hub :=
  let old := laneState h l
  let h := if old ≠ st ∨ fld h (aLaneStatus l) 0 16 ≠ baud then scanBreak h l else h
  let h := if old = 3 ∧ (st = 1 ∨ st = 2) then tally (count h (aLaneCntIdleExit l) 1) 0xA0 0x0A02 1 none else h
  let h := laneSignal (if st = 2 then h else setFlag h (aLaneStatus l) 23 false) l st
  setFld (setFlag (setFld h (aLaneStatus l) 28 3 st) (aLaneStatus l) 21 pam4) (aLaneStatus l) 0 16 baud

/-- Set a lane's STATE alone. -/
def laneTo (h : Hub) (l st : Nat) : Hub := laneSet h l st (fld h (aLaneStatus l) 0 16) (flag h (aLaneStatus l) 21)

/-- A seed record of the trim store; an interrupted rewrite leaves free contents (R194, R519). -/
def storeRecord (h : Hub) (l k : Nat) : Nat :=
  match h.pwr.trim with
  | none => factoryRecord l k
  | some [] => (drawFree h).2.toNat
  | some bs => (((bs.drop (l * 32 + k * 8)).take 8).foldr (fun (b : Byte) (a : Nat) => b.toNat + 256 * a) 0)

/-- The seed of a lane's slot: LANE_SEEDk; a management lane has LANE_SEED0 alone, and its other slots stand in the store (R194,
R212). -/
def seedOf (h : Hub) (l k : Nat) : Nat :=
  if l < 96 ∨ k = 0 then rd64 h (aLaneSeedLo l k) else seedOr (storeRecord h l k) 0

/-- A full training starts from the seed of the running rate's slot (R190, R192, R193): the CTLE, taps 1 to 3, and the sampler
offsets. The seed gives no other tap, and these start at 0. A freeze holds what it holds (R191). -/
def seedLane (h : Hub) (l baud : Nat) (pam4 : Bool) : Hub :=
  let s := seedOf h l (rateSlot l baud pam4)
  let frozen := flag h (aLaneCtl l) 2
  if !laneReceives l then h
  else
    let h := { h with lns := { h.lns with ofs := tset 0 h.lns.ofs l (bitsOf s 24 12 * 2 ^ 7 + bitsOf s 9 7) } }
    let h := if frozen || flag h (aLaneCtl l) 3 then h
      else wr h (aLaneCtle l) (W (bitsOf s 59 5 * 256 + bitsOf s 55 4))
    if frozen then h
    else
      let h := wr h (aLaneDfe0 l) (W (bitsOf s 48 7 + bitsOf s 42 6 * 2 ^ 8 + bitsOf s 36 6 * 2 ^ 16))
      wr (wr (wr h (aLaneDfe1 l) 0) (aLaneDfe2 l) 0) (aLaneDfe3 l) 0

/-- A code of n bits that is x kept within −m to m. -/
def clampCode (n m : Nat) (x : Int) : Nat := ((max (-(m : Int)) (min (m : Int) x)) % (2 ^ n : Nat)).toNat

/-- The taps of a lane from a value for each of taps 1 to 8: within their ranges, taps 6 to 8 only in the long-reach macro (R189).
TAP5 shows its sign in bit 6 (R212). -/
def putTaps (h : Hub) (l : Nat) (tap : Nat → Int) : Hub :=
  let code := fun (k : Nat) => if 6 ≤ k ∧ !longReach l then 0 else clampCode 6 31 (tap k)
  let t5 := code 5
  let h := wr h (aLaneDfe0 l) (W (clampCode 7 63 (tap 1) + code 2 * 2 ^ 8 + code 3 * 2 ^ 16 + code 4 * 2 ^ 24))
  wr h (aLaneDfe1 l) (W (t5 + (if 32 ≤ t5 then 64 else 0) + code 6 * 2 ^ 8 + code 7 * 2 ^ 16 + code 8 * 2 ^ 24))

/-- The floating taps of a long-reach lane from a value and a position for each; 0 on the other lanes (R189, R212). -/
def putFloats (h : Hub) (l : Nat) (value : Nat → Int) (pos : Nat → Nat) : Hub :=
  if !longReach l then wr (wr h (aLaneDfe2 l) 0) (aLaneDfe3 l) 0
  else
    let sum := fun (f : Nat → Nat) => (List.range 4).foldl (fun v k => v + f k * 2 ^ (8 * k)) 0
    wr (wr h (aLaneDfe2 l) (W (sum (fun k => clampCode 5 15 (value k))))) (aLaneDfe3 l) (W (sum pos))

/-- Slice k of n bits of a drawn value, around 0 within m. -/
def slice0 (v k n m : Nat) : Int := ((bitsOf v (n * k) n % (2 * m + 1) : Nat) : Int) - (m : Int)

/-- The values to which a full training brings a lane's CTLE, taps and floating-tap positions are the channel's, hence free within
their ranges (R189, R190). -/
def trainLane (h : Hub) (l : Nat) : Hub :=
  let frozen := flag h (aLaneCtl l) 2
  if !laneReceives l then h
  else
    let h := if frozen || flag h (aLaneCtl l) 3 then h
      else wr (drawFree h).1 (aLaneCtle l) ((drawFree h).2.setWidth 32 &&& 0x1F0F)
    if frozen then h
    else
      let v := (drawFree h).2.toNat
      let h := putTaps (drawFree h).1 l (fun k => slice0 v (k - 1) 7 (if k = 1 then 63 else 31))
      let w := (drawFree h).2.toNat
      putFloats (drawFree h).1 l (fun k => slice0 w k 5 15) (fun k => 9 + bitsOf w (20 + 5 * k) 5)

/-- Adaptation of a lane that received data for a tick: each tap by at most a code per 65,536 UI, the CTLE by at most a code per
ms, each by a free step within its range; the positions stay (R189-R191). -/
def adaptLane (h : Hub) (l : Nat) : Hub :=
  let frozen := flag h (aLaneCtl l) 2
  let ctle := fld h (aLaneCtle l) 8 5
  let gain := fld h (aLaneCtle l) 0 4
  let kept := fun (hi : Nat) (x : Int) => (max 0 (min (hi : Int) x)).toNat
  let h := if frozen || flag h (aLaneCtl l) 3 || decide (h.tim.edges % 8 ≠ 0) then h
    else
      let v := (drawFree h).2.toNat
      wr (drawFree h).1 (aLaneCtle l) (W (kept 31 (ctle + slice0 v 0 8 1) * 256 + kept 15 (gain + slice0 v 1 8 1)))
  if frozen then h
  else
    let s := fld h (aLaneStatus l) 0 16 * 125 / 65536
    let v := (drawFree h).2.toNat
    let w := (drawFree (drawFree h).1).2.toNat
    let tap := fun (k : Nat) => if k = 1 then signed (fld h (aLaneDfe0 l) 0 7) 7
      else if k ≤ 4 then signed (fld h (aLaneDfe0 l) (8 * (k - 1)) 6) 6 else signed (fld h (aLaneDfe1 l) (8 * (k - 5)) 6) 6
    let value := fun (k : Nat) => signed (fld h (aLaneDfe2 l) (8 * k) 5) 5
    let pos := fun (k : Nat) => fld h (aLaneDfe3 l) (8 * k) 6
    let h := (drawFree (drawFree h).1).1
    let h := putTaps h l (fun k => tap k + slice0 v (k - 1) 8 s)
    putFloats h l (fun k => value k + slice0 w k 8 s) pos

/-- Adaptation of every lane that receives data, over the tick that ends (R191). -/
def adaptAll (h : Hub) : Hub :=
  (List.range 98).foldl (fun h l => if laneReceives l ∧ laneState h l = 2 then adaptLane h l else h) h

/-! ### Transmit coefficients (R186-R188) -/

/-- The coefficients a request brings about, and whether any differs from the request (R187). -/
def clipFfe (pre main post : Nat) : Nat × Nat × Nat × Bool :=
  let p := min pre 15
  let q0 := min post 25
  let q := if 25 < p + q0 then 25 - p else q0
  let m := 63 - p - q
  (p, m, q, decide (p ≠ pre) || decide (m ≠ main) || decide (q ≠ post))

/-- Put coefficients in force on a lane; an override of its own stands (R188). -/
def setFfe (h : Hub) (l v : Nat) : Hub :=
  if l < 96 ∧ flag h (aLaneTxFfeOvr l) 31 then setFld h (aLaneTxFfe l) 0 24 (fld h (aLaneTxFfeOvr l) 0 24)
  else wr h (aLaneTxFfe l) (W v)

/-- An override of transmit coefficients is in force (R188). -/
def ffeApply (h : Hub) (l : Nat) : Hub :=
  if flag h (aLaneTxFfeOvr l) 31 then setFld h (aLaneTxFfe l) 0 24 (fld h (aLaneTxFfeOvr l) 0 24) else h

/-- The coefficients that a partner's link training asks for are free, and clipped as any request (R187, R188). -/
def partnerFfe (h : Hub) (l : Nat) : Hub :=
  let v := (drawFree h).2.toNat
  let c := clipFfe (bitsOf v 0 6) (bitsOf v 6 6) (bitsOf v 12 6)
  setFfe (drawFree h).1 l (c.1 * 2 ^ 16 + c.2.1 * 2 ^ 8 + c.2.2.1 + (if c.2.2.2 then 2 ^ 24 else 0))

/-- A lane goes through a full training at a rate, from its seed, and carries data (R190). -/
def laneUp (h : Hub) (l baud : Nat) (pam4 : Bool) : Hub := laneSet (trainLane (seedLane h l baud pam4) l) l 2 baud pam4

/-- A lane that is in service takes a STATE; a retired one keeps its own (R209). -/
def laneRest (h : Hub) (l st : Nat) : Hub := if l < 96 ∧ laneRetired h l then h else laneTo h l st

end Sys2Proof.Machine
end

