-- ==== Sys2Proof/Machine/Flags.lean ====
section
/-!
DEFINITION. The event flags: setting a bit of an event register, the fault log (R479-R484) and the delivery of its
records.
-/
namespace Sys2Proof.Machine

/-- The event register of a SOURCE code (R481); the instance matters for trunks and outputs. -/
def eventReg (src inst : Nat) : Nat :=
  match src with
  | 0x01 => aTimEvent
  | 0x02 => aTrnEvent
  | 0x03 => aTrnTxEvent
  | 0x04 => aLaneEvent
  | 0x05 => aTrkEvent inst
  | 0x06 => aTunEvent
  | 0x07 => aTunBrgEvent
  | 0x08 => aSwcEvent
  | 0x09 => aTmgEvent
  | 0x0A => aDspEvent inst
  | 0x0B => aUsbEvent
  | 0x0C => aVdkEvent
  | 0x0D => aKeyEvent
  | 0x0E => aMemEvent
  | 0x0F => aTelEvent
  | 0x10 => aFltEvent
  | _ => aPwrEvent

/-- Send a port's fault-log message, or keep it due while the hold-off runs or the link is down (R483). -/
def fltMessage (h : Hub) (p : Port) : Hub :=
  let n := Port.toNat p
  if !flag h (aFltPCfg n) 31 then h
  else if tget false h.flt.holdoff n || !mgmtUp h p then
    { h with flt := { h.flt with due := tset false h.flt.due n true } }
  else
    let h := send h (.msix p (fld h (aFltPCfg n) 0 6))
    if fld h (aFltPCfg n) 8 16 = 0 then h
    else { h with flt := { h.flt with holdoff := tset false h.flt.holdoff n true } }

/-- A port loses a record that the log overwrites before the port has read it (R484). -/
def fltLost (h : Hub) (n oldSeq : Nat) : Hub :=
  if (rd h (aFltPAck n)).toNat < oldSeq then count h (aFltPLost n) 1 else h

/-- The contents of a fault record (R480). -/
def fltRecord (seq src bit inst kind cause cls idx detail time vint level : Nat) : BitVec 256 :=
  BitVec.ofNat 256 (seq % 2 ^ 32 + src % 64 * 2 ^ 32 + bit % 32 * 2 ^ 40 + inst % 65536 * 2 ^ 48 + kind % 8 * 2 ^ 64 +
    cause % 8 * 2 ^ 72 + (cls % 16 * 4096 + idx % 4096) * 2 ^ 80 + detail % 2 ^ 32 * 2 ^ 96 + time % 2 ^ 64 * 2 ^ 128 +
    vint % 2 ^ 32 * 2 ^ 192 + level % 65536 * 2 ^ 224)

/-- Write a record to the fault log and deliver it (R479, R480, R483, R484). The loss of dual-port bank 15 suspends the log
(R436). -/
def logRecord (h : Hub) (src bit inst kind cause cls idx detail level : Nat) : Hub :=
  if bitOf h.mst.dpLost 15 then h else
  let seq := ((rd h aFltLogSeq).toNat + 1) % 2 ^ 32
  let seq := if seq = 0 then 1 else seq
  let at_ := fld h aFltLogWr 0 11
  let old := match tfind h.flt.log at_ with
    | some r => r.toNat % 2 ^ 32
    | none => 0
  let h := fltLost (fltLost h 0 old) 1 old
  let rec_ := fltRecord seq src bit inst kind cause cls idx detail (hubNs h) h.txs.vintage.toNat level
  let h := { h with flt := { h.flt with log := tput h.flt.log at_ rec_ } }
  let h := wr (wr h aFltLogSeq (W seq)) aFltLogWr (W ((at_ + 1) % 2048))
  fltMessage (fltMessage h .m0) .m1

/-- Set a bit of an event register: its EVENT record follows unless FLT_MASKs masks it (R479). -/
def raise (h : Hub) (src bit inst detail : Nat) : Hub :=
  let h := setFlag h (eventReg src inst) bit true
  if flag h (aFltMask (src - 1)) bit then h
  else logRecord h src bit inst 1 0 0 0 detail 0

/-- Write a RETIRED (2), RESTORED (3), RESTORE_FAILED (4) or BUCKET_WARN (5) record and set its bit of FLT_EVENT
(R472-R479). -/
def faultRecord (h : Hub) (kind cause cls idx detail level : Nat) : Hub :=
  let bit := if kind = 2 then 0 else if kind = 3 then 1 else if kind = 4 then 2 else 3
  logRecord (setFlag h aFltEvent bit true) 0x10 bit 0 kind cause cls idx detail level

/-- A packet of an ingress port and dock (64 = unknown) finds no route or is refused by R220. -/
def noRoute (h : Hub) (ing dock : Nat) : Hub := tally (count h aTunCntNoRoute 1) 0x20 0x0204 1 (some ⟨ing, dock, 0, none⟩)

end Sys2Proof.Machine
end

