-- ==== Sys2Proof/Machine/Operands.lean ====
section
/-!
DEFINITION. The operand forms of Turner's instructions (R68-R72): words of an instruction, its flags, TARGET and
OPERAND taken from a register, and hub memory addresses; status codes and scope elements.
-/
namespace Sys2Proof.Machine

/-- Words of an instruction by opcode and TARGET (R88); none for an opcode, or a HALT mode, that the table does not list. -/
def opWords (op target operand : Nat) (ind : Bool) : Option Nat :=
  match op with
  | 0x00 => some 1
  | 0x01 => some 1
  | 0x02 => some 1
  | 0x03 => some 1
  | 0x04 => some (if bitOf target 15 then 2 else 1)
  | 0x05 => some 1
  | 0x06 => some 1
  | 0x07 => if !ind && operand % 4 = 3 then none else some 1
  | 0x08 => some 1
  | 0x09 => some (if bitOf target 8 then 1 else 2)
  | 0x0A => some 2
  | 0x10 => some 3
  | 0x11 => some 1
  | 0x12 => some 1
  | 0x13 => some 1
  | 0x20 => some 2
  | 0x21 => some 1
  | 0x22 => some 1
  | 0x23 => some 1
  | 0x28 => some 1
  | 0x29 => some 3
  | 0x2A => some 3
  | 0x2B => some 1
  | 0x30 => some 5
  | 0x31 => some 4
  | 0x32 => some 3
  | 0x38 => some 1
  | 0x39 => some 2
  | 0x40 => some 2
  | 0x41 => some 1
  | 0x42 => some 2
  | 0x44 => some 1
  | 0x45 => some 2
  | 0x46 => some 2
  | 0x47 => some 1
  | 0x50 => some 3
  | 0x51 => some 2
  | 0x52 => some 2
  | 0x53 => some 1
  | 0x54 => some 1
  | 0x58 => some 2
  | 0x59 => some 1
  | 0x5A => some 1
  | 0x60 => some 3
  | 0x61 => some 3
  | 0x68 => some 1
  | 0x69 => some 2
  | 0x6A => some 1
  | 0x6B => some 1
  | 0x70 => some 1
  | 0x71 => some 1
  | 0x72 => some 1
  | 0x78 => some 1
  | 0x79 => some 1
  | _ => none

/-- An instruction with its operands taken (R69-R71). -/
structure IW where
  op : Nat
  wr : Bool
  dest : Nat
  ind : Bool
  cont : Bool
  target : Nat
  operand : Nat
  /-- g s under IND, all 64 bits, for MOV and ALU. -/
  src : Nat
  ext : List Nat
  words : Nat
  /-- IND with a bit set above OPERAND [4:0], or words past the end of the body (R71, R72). -/
  bad : Bool
deriving DecidableEq, Repr

/-- A general register; g0 reads zero (R66). -/
def greg (c : Cmd) (n : Nat) : Nat := if n = 0 then 0 else (tget 0 c.g n).toNat

/-- Write a general register; writes to g0 are discarded (R66). -/
def setGreg (c : Cmd) (n v : Nat) : Cmd :=
  if n = 0 then c else { c with g := tset 0 c.g n (BitVec.ofNat 64 v) }

/-- First word index past the body or program. -/
def cmdEnd (c : Cmd) : Nat := if c.imem then c.base + c.len else c.len

/-- A word of a command's body or program; none past its end (R72, R74). -/
def cmdWord (h : Hub) (c : Cmd) (i : Nat) : Option Nat :=
  if c.imem then
    if c.base ≤ i ∧ i < c.base + c.len then some (tget 0 h.trn.imem i).toNat else none
  else if i < c.len then (c.body[i]?).map BitVec.toNat else none

/-- TARGET with 0xFFE0 + k taken from g k, except for MOV, ALU and BR (R70). -/
def takeTarget (c : Cmd) (op t : Nat) : Nat :=
  if 4 ≤ op ∧ op ≤ 6 then t
  else if 0xFFE0 ≤ t then greg c (t - 0xFFE0) % 65536 else t

/-- A reserved TARGET value: 0xF000-0xFFDF, but 0xF000 where the table gives it a meaning (R70). -/
def reservedTarget (op t : Nat) : Bool :=
  !(decide (4 ≤ op) && decide (op ≤ 6)) && decide (0xF000 ≤ t) && decide (t ≤ 0xFFDF) &&
    !(decide (t = 0xF000) && (op = 3 || op = 0x11 || op = 0x12 || op = 0x20))

/-- The instruction at a word index of a command. -/
def fetchIW (h : Hub) (c : Cmd) (i : Nat) : Option IW :=
  match cmdWord h c i with
  | none => none
  | some w =>
    let op := bitsOf w 56 8
    let ind := bitOf w 49
    let raw := bitsOf w 0 32
    let s := greg c (raw % 32)
    let t := takeTarget c op (bitsOf w 32 16)
    let operand := if ind then s % 2 ^ 32 else raw
    match opWords op t operand ind with
    | none => none
    | some n =>
      let ext := (List.range (n - 1)).map (fun j => (cmdWord h c (i + 1 + j)).getD 0)
      some { op := op, wr := bitOf w 55, dest := bitsOf w 50 5, ind := ind, cont := bitOf w 48, target := t,
             operand := operand, src := s, ext := ext, words := n,
             bad := (ind && decide (32 ≤ raw)) || decide (cmdEnd c < i + n) || reservedTarget op t }

/-- Extension word k of an instruction. -/
def IW.x (w : IW) (k : Nat) : Nat := (w.ext[k]?).getD 0

/-- A field of the operand. -/
def IW.o (w : IW) (lo n : Nat) : Nat := bitsOf w.operand lo n

/-- Are all bits of a value outside a mask zero (R72)? -/
def onlyBits (v mask : Nat) : Bool := v &&& mask = v

/-- Installed cellar size in bytes (R68, chapter 15); MEM_CELLAR_SIZE counts 64 MiB units. -/
def installedBytes (h : Hub) : Nat := fld h aMemCellarSize 0 16 * 2 ^ 26

/-- The channels of the map, ascending (R438). -/
def chanMap (h : Hub) : List Nat := bitsSet 8 (fld h aMemCellarStatus 8 8)

/-- The channel of a cellar address (R439). -/
def chanOf (h : Hub) (a : Nat) : Nat := ((chanMap h)[a / 2048 % max 1 (chanMap h).length]?).getD 8

/-- Is an address in a hole: its channel is retired (R444)? -/
def isHole (h : Hub) (a : Nat) : Bool := flag h aMemCellarStatus (16 + chanOf h a)

/-- Is the line of an address unreadable: a hole or poisoned (R441, R444)? -/
def lineBad (h : Hub) (a : Nat) : Bool := isHole h a || tget false h.mst.poison (a / 64)

/-- The lines that a range of addresses meets. -/
def linesOf (a len : Nat) : List Nat := (List.range ((a + len + 63) / 64 - a / 64)).map (fun i => a / 64 + i)

/-- The cellar address of the fallback copy of a dual-port bank, while the bank is retired and served from there (R436). -/
def fallbackAt (h : Hub) (k : Nat) : Option Nat :=
  if flag h (aFltRet 2 0) k ∧ flag h aMemDpFallback 31 ∧ !bitOf h.mst.dpLost k then
    some (fld h aMemDpFallback 0 16 * 2 ^ 20 + k * 65536)
  else none

/-- Does a 64-bit word of the dual-port region, bank k and byte offset o, read uncorrectable from the bank's fallback copy (R436, R441)? -/
def fallbackBad (h : Hub) (k o : Nat) : Bool :=
  match fallbackAt h k with
  | some a => lineBad h (a + o)
  | none => false

/-- Do n words of instruction memory from word i meet an uncorrectable word of a fallback copy (R67, R430)? -/
def imemBad (h : Hub) (i n : Nat) : Bool := (List.range n).any (fun k => fallbackBad h ((i + k) / 8192) ((i + k) % 8192 * 8))

/-- Does a hub memory range lie on a bus or in the installed cellar? A range beyond it is INVALID (R68). -/
def hubRangeOk (h : Hub) (a len : Nat) : Bool :=
  decide (2 ^ 63 ≤ a) || decide (a + len ≤ installedBytes h)

/-- Is a hub memory address on the bus of a port whose Bus Master Enable is 0, which is DENIED (R68)? -/
def busDenied (h : Hub) (p : Port) (a : Nat) : Bool :=
  decide (2 ^ 63 ≤ a) && !(match p with
    | .m0 => h.trn.bme0
    | .m1 => h.trn.bme1)

def Status.code : Status → Nat
  | .ok => 0
  | .busy => 1
  | .denied => 2
  | .invalid => 3
  | .conflict => 4
  | .timeout => 5
  | .aborted => 6
  | .fault => 7

/-! ### Scope elements (R110, R111) -/

/-- The empty scope. -/
def Scope.empty : Scope := ⟨0, 0, 0, false⟩

def Scope.union (a b : Scope) : Scope :=
  ⟨a.docks ||| b.docks, a.ports ||| b.ports, a.outputs ||| b.outputs, a.global || b.global⟩

def Scope.meets (a b : Scope) : Bool :=
  a.docks &&& b.docks != 0 || a.ports &&& b.ports != 0 || a.outputs &&& b.outputs != 0 || (a.global && b.global)

def Scope.within (a b : Scope) : Bool :=
  a.docks &&& b.docks == a.docks && a.ports &&& b.ports == a.ports && a.outputs &&& b.outputs == a.outputs &&
    (!a.global || b.global)

def Scope.isEmpty (a : Scope) : Bool := a.docks == 0 && a.ports == 0 && a.outputs == 0 && !a.global

def scDock (d : Nat) : Scope := { Scope.empty with docks := BitVec.ofNat 64 (2 ^ d) }
def scPort (p : Nat) : Scope := { Scope.empty with ports := BitVec.ofNat 24 (2 ^ p) }
def scOut (o : Nat) : Scope := { Scope.empty with outputs := BitVec.ofNat 8 (2 ^ o) }
def scGlobal : Scope := { Scope.empty with global := true }
def scUnion (l : List Scope) : Scope := l.foldl Scope.union Scope.empty

/-- The switch ports of a trunk mask. -/
def scTrunks (mask : Nat) : Scope := { Scope.empty with ports := BitVec.ofNat 24 (mask % 256) }

/-- Does a queue hold packets, barrels or packets assigned to it (R307)? -/
def queueHolds (h : Hub) (q : Nat) : Bool :=
  (match tfind h.swc.queues q with
    | some x => x.cask != [] || x.spill != [] || x.written != [] || x.openCells != []
    | none => false) ||
  h.swc.voq.any (fun e => e.2.any (fun p => decide (p.queue = q))) ||
  h.swc.batches.any (fun e => e.2.any (fun p => decide (p.queue = q)))

/-- Is a queue of a configuration active or draining, hence mapped to a dock and port (R307, R542)? -/
def queueMapped (h : Hub) (regs : Tab Word) (q : Nat) : Bool :=
  bitOf (tget 0 regs (aTmgQmap q)).toNat 31 || queueHolds h q

/-- Dock and port of a queue in a configuration, if it has any (R542). -/
def queueScope (h : Hub) (regs : Tab Word) (q : Nat) : Scope :=
  let m := (tget 0 regs (aTmgQmap q)).toNat
  if queueMapped h regs q then (scDock (bitsOf m 8 6)).union (scPort (bitsOf m 0 5)) else scGlobal

/-- The element of a queue's records: its dock, or global for a free queue (R542). -/
def queueElement (h : Hub) (regs : Tab Word) (q : Nat) : Scope :=
  if queueMapped h regs q then scDock (bitsOf (tget 0 regs (aTmgQmap q)).toNat 8 6) else scGlobal

/-- The scope element of a configuration record by its address (R111): a dock index wins over a switch port; queue
records follow R542. -/
def recScope (h : Hub) (regs : Tab Word) (a : Nat) : Scope :=
  match regRow a with
  | none => scGlobal
  | some (r, ix) =>
    let i := (ix.head?.map (·.1)).getD 0
    match ix.find? (fun e => decide (e.2 = .dock)) with
    | some (d, _) => scDock d
    | none =>
      match ix.find? (fun e => decide (e.2 = .sp)) with
      | some (p, _) => scPort p
      | none =>
        match ix.head? with
        | some (n, .trunk) => scPort n
        | some (n, .output) => scOut n
        | some (n, .pcie) => scPort (8 + n)
        | some (n, .eth) => scPort (16 + n)
        | some (n, .lane) =>
          if 32 ≤ n ∧ n < 64 then scOut ((n - 32) / 4)
          else match laneSp n with
            | some p => scPort p
            | none => scGlobal
        | some (_, .usb) => scPort 20
        | some (n, .queue) => if r.base / 0x100000 = 6 then scGlobal else queueElement h regs n
        | _ =>
          if 0x901000 ≤ r.base ∧ r.base < 0x901010 then scPort 20
          else if 0x780000 ≤ r.base ∧ r.base < 0x788000 then scDock (i / 16)
          else if 0xF01000 ≤ r.base ∧ r.base < 0xF01020 then scPort (if i < 16 then 20 else i - 8)
          else scGlobal

end Sys2Proof.Machine
end

