-- ==== Sys2Proof/Machine/Engine.lean ====
section
/-!
DEFINITION. Turner's engine (chapter 3): how an instruction completes, how a command ends, completion records, and what
every instruction's meaning shares.
-/
namespace Sys2Proof.Machine

/-- The owning port of a ring: CR0-CR3 are M0's, CR4-CR7 M1's (R73). -/
def ringPort (r : Nat) : Port := if r < 4 then .m0 else .m1

/-- The port a command or run acts for (R73, R95). -/
def cmdPort (h : Hub) (c : Cmd) : Port :=
  match c.tp with
  | some n => Port.ofNat (fld h (aTrnTpCfg n.val) 3 1)
  | none => ringPort c.ring

/-- The outstanding command or run with an id. -/
def findCmd (h : Hub) (id : Nat) : Option Cmd := h.trn.cmds.find? (fun c => c.id = id)

/-- Replace a command by its id. -/
def putCmd (h : Hub) (c : Cmd) : Hub :=
  { h with trn := { h.trn with cmds := h.trn.cmds.map (fun d => if d.id = c.id then c else d) } }

/-- A command is no longer outstanding. -/
def dropCmd (h : Hub) (id : Nat) : Hub :=
  { h with trn := { h.trn with cmds := h.trn.cmds.filter (fun d => d.id ≠ id) } }

/-- The command running on a thread. -/
def threadCmd (h : Hub) (th : Fin 4) : Option Cmd :=
  h.trn.cmds.find? (fun c => decide (c.thread = some th) && c.held.isNone)

/-- Threads named by enabled tick programs, as a predicate (R96). -/
def tickThread (h : Hub) (th : Nat) : Bool :=
  (List.range 8).any (fun n => flag h (aTrnTpCfg n) 0 && decide (fld h (aTrnTpCfg n) 1 2 = th))

/-- Would a record fill a completion ring (R84)? -/
def ccFull (h : Hub) (r : Nat) : Bool :=
  decide ((fld h (aTrnCcTail r) 0 10 + 1) % 1024 = fld h (aTrnCcHead r) 0 10)

/-- A completion record (R81). -/
def ccRecord (tag : Byte) (st : Status) (phase vintage result : Nat) : BitVec 128 :=
  BitVec.ofNat 128 (tag.toNat + st.code * 2 ^ 8 + phase % 2 * 2 ^ 15 + vintage % 2 ^ 48 * 2 ^ 16 + result % 2 ^ 64 * 2 ^ 64)

/-- The hub with a record stored in completion-ring memory. -/
def ccStore (h : Hub) (k : Nat) (x : BitVec 128) : Hub := { h with trn := { h.trn with ccMem := tset 0 h.trn.ccMem k x } }

/-- TAIL of a completion ring moves on by one record; PHASE inverts as it wraps (R82). -/
def ccAdvance (h : Hub) (r : Nat) : Hub :=
  let tail := fld h (aTrnCcTail r) 0 10
  let phase := fld h (aTrnCcTail r) 15 1
  setFld (setFld h (aTrnCcTail r) 0 10 ((tail + 1) % 1024)) (aTrnCcTail r) 15 1 (if tail = 1023 then 1 - phase else phase)

/-- Write a completion record and send its vector (R81, R82). -/
def writeRecord (h : Hub) (r : Nat) (tag : Byte) (irq : Bool) (st : Status) (result : Nat) : Hub :=
  let rec_ := ccRecord tag st (fld h (aTrnCcTail r) 15 1) h.txs.vintage.toNat result
  let h := ccAdvance (ccStore h (r * 1024 + fld h (aTrnCcTail r) 0 10) rec_) r
  if irq || flag h (aTrnCcCfg r) 7 then sendMsix h (ringPort r) (fld h (aTrnCcCfg r) 0 6) else h

/-- Note when a ring command leaves a thread (R98). -/
def leaveThread (h : Hub) (c : Cmd) : Hub :=
  match c.thread with
  | some t => if c.tp.isSome then h else { h with trn := { h.trn with leftAt := tset 0 h.trn.leftAt t.val h.tim.coreClk } }
  | none => h

/-- End a command or run with a status and RESULT: its record is written, or held by a full ring (R78, R82, R84, R97).
A command under NOCQ and a run write none for OK. -/
def finish (h : Hub) (c : Cmd) (st : Status) (result : Nat) : Hub :=
  let h := leaveThread (if c.tp.isSome then h else tally h 0x70 0x0700 1 none) c
  let h := match c.tp with
    | some n => setFld h (aTrnTpStatus n.val) 16 3 st.code
    | none => h
  if (c.nocq || c.tp.isSome) && decide (st = .ok) then dropCmd h c.id
  else if ccFull h c.ring || h.trn.cmds.any (fun d => decide (d.ring = c.ring) && d.held.isSome) then
    let c := { c with thread := none, wait := none, held := some (st, BitVec.ofNat 64 result) }
    let h := dropCmd h c.id
    raise { h with trn := { h.trn with cmds := h.trn.cmds ++ [c] } } 0x02 1 0 0
  else writeRecord (dropCmd h c.id) c.ring c.tag c.irq st result

/-- RESULT of a record whose status is not OK: WORD, SRC and the detail code (R81). The field of 15 bits cannot hold 32,768, the word
past the last one: the manual names no value, and the model's is 0 (DESIGN CHOICE, notes/assumptions/132.md). -/
def badResult (c : Cmd) (word detail : Nat) : Nat :=
  word % 2 ^ 15 * 2 ^ 49 + (if c.imem then 2 ^ 48 else 0) + detail % 2 ^ 32

/-- End a command with a status other than OK at a word. -/
def finishBad (h : Hub) (c : Cmd) (st : Status) (word detail : Nat) : Hub := finish h c st (badResult c word detail)

/-- Instructions a command or run may execute (R78, R98). BUDGET 0, outside its range and with no meaning of its own, is a budget of none:
the run ends before its first instruction (DESIGN CHOICE, notes/assumptions/138.md). -/
def budget (h : Hub) (c : Cmd) : Nat :=
  match c.tp with
  | some n => fld h (aTrnTpStart n.val) 16 16
  | none => 65536

/-- Bring a command to its next word: the command ends with ABORTED when a reset or stop asked for it, at its end word
with the last status, and an instruction the table does not list, or whose words run past the end, completes INVALID
(R72, R78, R85). Under CONT an instruction that the table does not list, to which the manual gives no length, counts as one word
(DESIGN CHOICE, notes/assumptions/133.md). Fuel bounds the run of such instructions. -/
def resume : Nat → Hub → Cmd → Nat → Status → Nat → Nat → Hub
  | 0, h, c, npc, _, _, _ => putCmd h { c with pc := npc, wait := none }
  | fuel + 1, h, c, npc, st, result, endWord =>
    if c.abort then finishBad h c .aborted npc 0
    else if npc = cmdEnd c ∧ c.tp.isNone then
      if st = .ok then finish h c .ok result else finishBad h c st endWord result
    else if budget h c ≤ c.count then putCmd h { c with pc := npc, wait := none }
    else
      match cmdWord h c npc with
      | none => finishBad h c .invalid npc 0
      | some w =>
        match fetchIW h c npc with
        | some iw =>
          if cmdEnd c < npc + iw.words then
            finishBad h c .invalid npc 0
          else putCmd h { c with pc := npc, wait := none }
        | none =>
          if bitOf w 48 then
            resume fuel h { c with count := c.count + 1, last := .invalid } (npc + 1) .invalid 0 npc
          else finishBad h c .invalid npc 0

/-- Enough fuel for any body or program. -/
def resumeFuel : Nat := 32769

/-- An instruction of a command completes: with a result under OK, with a detail code otherwise (R69, R78, R81). -/
def settleTo (h : Hub) (id : Nat) (st : Status) (value : Nat) (jump : Option Nat) : Hub :=
  match findCmd h id with
  | none => h
  | some c =>
    match fetchIW h c c.pc with
    | none => h
    | some w =>
      let h := tally h 0x70 0x0701 1 none
      let c := { c with count := c.count + 1, last := if w.op = 6 then c.last else st, wait := none }
      let c := if w.wr && decide (st = .ok) then setGreg c w.dest value else c
      if st ≠ .ok ∧ !w.cont then finishBad h c st c.pc value
      else resume resumeFuel h c (jump.getD (c.pc + w.words)) st value c.pc

/-- An instruction completes and execution goes on with the next word. -/
def settle (h : Hub) (id : Nat) (st : Status) (value : Nat) : Hub := settleTo h id st value none

/-- The instruction a thread is about to execute, when it has the given opcode: the shape every instruction's meaning
shares. A thread that runs nothing, waits, has used its budget or stands at another instruction leaves the hub as it is
(notes/assumptions/9.md). Bad operand forms complete INVALID (R71, R72). -/
def onInstr (h : Hub) (th : Fin 4) (op : Nat) (f : Hub → Cmd → IW → Hub) : Hub :=
  match threadCmd h th with
  | none => h
  | some c =>
    if c.wait.isSome || decide (budget h c ≤ c.count) || !c.started then h
    else
      match fetchIW h c c.pc with
      | none => h
      | some w =>
        if w.op ≠ op then h
        else if c.imem && imemBad h c.pc w.words then settle h c.id .fault 0
        else if w.bad then settle h c.id .invalid 0
        else f h c w

/-- A long instruction begins its wait: as the last instruction of a command it frees the thread (R79). -/
def beginWait (h : Hub) (c : Cmd) (w : IW) (k : Wait) : Hub :=
  let last := decide (c.pc + w.words = cmdEnd c) && c.tp.isNone
  putCmd (if last then leaveThread h c else h) { c with wait := some k, thread := if last then none else c.thread }

/-- An O instruction that is long: INVALID in a tick program (R97). -/
def onLong (h : Hub) (th : Fin 4) (op : Nat) (f : Hub → Cmd → IW → Hub) : Hub :=
  onInstr h th op (fun h c w => if c.tp.isSome then settle h c.id .invalid 0 else f h c w)

/-! ### Open transactions as the engine sees them -/

/-- The transaction of a handle while it is open: from TX.BEGIN to acceptance (R104). -/
def openTx (h : Hub) (n : Nat) : Option Tx :=
  match tfind h.txs.open_ n with
  | some t => if t.accepted then none else some t
  | none => none

/-- The handles of open transactions, other than the one named, whose scope meets a scope (R105). -/
def overlaps (h : Hub) (sc : Scope) (except_ : Option (Fin 8)) : Nat :=
  maskOf 8 (fun n =>
    match openTx h n with
    | some t => t.scope.meets sc && decide (except_.map (·.val) ≠ some n)
    | none => false)

/-- The handle of a command's current transaction, while that has not applied or failed (R77, R109). -/
def curHandle (c : Cmd) : Option (Fin 8) := if c.gone then none else c.curTx

/-- An O instruction completes CONFLICT when its target lies in the scope of an open transaction other than its own
command's; the detail is the mask of R105 (R80; DEDUCED, notes/assumptions/10.md). -/
def oConflict (h : Hub) (c : Cmd) (sc : Scope) : Option Nat :=
  let m := overlaps h sc (curHandle c)
  if m = 0 then none else some m

end Sys2Proof.Machine
end

