-- ==== Sys2Proof/Machine/Stage.lean ====
section
/-!
DEFINITION. Staging and submission of configuration records (R80, R104-R118): the projected configuration, what every
S instruction shares, and what is common to aborting and submitting transactions.
-/
namespace Sys2Proof.Machine

/-- The SH bits of a record's register; none for another address. -/
def shMask (p : Part) (a : Nat) : Word :=
  match regRow a with
  | some (r, ix) => if absentReg p.res r.base ix then 0 else r.sh
  | none => 0

/-- Self-clearing bits of a record's register (R18, R131). -/
def scMask (a : Nat) : Word :=
  match regRow a with
  | some (r, _) => r.sc
  | none => 0

/-- Lay one record over a configuration: only SH bits change; a self-clearing field has returned to 0 (R131). -/
def layRec (p : Part) (regs : Tab Word) (e : Nat × Word) : Tab Word :=
  let m := shMask p e.1
  let d := resetVal p e.1
  tset d regs e.1 ((tget d regs e.1 &&& ~~~m) ||| (e.2 &&& m &&& ~~~(scMask e.1)))

/-- Lay a list of records over a configuration. -/
def lay (p : Part) (regs : Tab Word) (recs : Recs) : Tab Word := recs.foldl (layRec p) regs

/-- The projected configuration: the applied one with every accepted transaction laid over it (R119). -/
def projected (h : Hub) : Tab Word :=
  let q := (match h.txs.delivering with
    | some d => [d]
    | none => []) ++ h.txs.queue
  q.foldl (fun r s => lay h.part r s.recs) h.regs

/-- A register of a configuration. -/
def cfg (h : Hub) (regs : Tab Word) (a : Nat) : Nat := (tget (resetVal h.part a) regs a).toNat

/-- A field of a register of a configuration. -/
def cfld (h : Hub) (regs : Tab Word) (a lo n : Nat) : Nat := bitsOf (cfg h regs a) lo n

/-- Stage a record: the first staging of an address takes a new entry, a later one replaces the value (R115). -/
def stageRec (recs : Recs) (a : Nat) (v : Word) : Recs :=
  if recs.any (fun e => decide (e.1 = a)) then recs.map (fun e => if e.1 = a then (a, v) else e)
  else recs ++ [(a, v)]

/-- Stage several records. -/
def stageRecs (recs new : Recs) : Recs := new.foldl (fun r e => stageRec r e.1 e.2) recs

/-- The configuration as it will stand for an S instruction of a command: the projected one, its current transaction's
records and its own (R112). -/
def standing (h : Hub) (c : Cmd) (recs : Recs) : Tab Word :=
  let own := match curHandle c with
    | some n => match openTx h n.val with
      | some t => t.recs
      | none => []
    | none => []
  lay h.part (lay h.part (projected h) own) recs

/-- The value staged for an address in a command's current transaction, or the applied value (R93, R116). -/
def stagedOr (h : Hub) (c : Cmd) (a : Nat) : Word :=
  match curHandle c with
  | some n =>
    match openTx h n.val with
    | some t => match t.recs.find? (fun e => decide (e.1 = a)) with
      | some e => e.2
      | none => rd h a
    | none => rd h a
  | none => rd h a

/-- The elements that records touch (R111, R112). -/
def touches (h : Hub) (regs : Tab Word) (recs : Recs) : Scope :=
  scUnion (recs.map (fun e => recScope h regs e.1))

/-- Submit a transaction for validation (R118). -/
def submit (h : Hub) (src : TxSrc) (owner : Port) (recs : Recs) (waiter : Option Nat) (opens : List (Nat × Option Bool))
    (binds : List Nat) : Hub :=
  { h with txs := { h.txs with
      submitted := h.txs.submitted ++ [⟨h.txs.nextId, src, owner, recs, waiter, 0, opens, binds⟩]
      nextId := h.txs.nextId + 1 } }

/-- What every S instruction does with the records it writes and the further elements it touches (R80, R108, R109, R113,
R115): stage them into the current transaction, or form an implicit transaction and wait for its apply. `opens` lists the
words that the instruction opens or creates, `binds` those that it binds to a key slot. -/
def stageOpen (h : Hub) (c : Cmd) (w : IW) (recs : Recs) (extra : Scope) (result : Nat) (opens binds : List Nat) : Hub :=
  if c.stale then
    settle (putCmd h { c with stale := false, curTx := none }) c.id .aborted 0
  else if c.gone then settle h c.id .invalid 0x0401
  else
    let touch := (touches h (standing h c recs) recs).union extra
    match c.curTx with
    | some n =>
      match openTx h n.val with
      | none => settle h c.id .invalid 0x0401
      | some t =>
        if t.owner ≠ cmdPort h c then settle h c.id .denied 0
        else if t.committing then settle h c.id .invalid 0x0401
        else if !touch.within t.scope then settle h c.id .denied 0
        else
          let r := stageRecs t.recs recs
          if 4096 < r.length then settle h c.id .invalid 0x0402
          else
            let own := opens.map (fun a => (a, (t.recs.find? (fun e => decide (e.1 = a))).map (fun e => bitOf e.2.toNat 31)))
            let t := { t with recs := r, opens := t.opens ++ own, binds := t.binds ++ binds }
            let h := { h with txs := { h.txs with open_ := tput h.txs.open_ n.val t } }
            settle h c.id .ok result
    | none =>
      let m := overlaps h touch none
      if m ≠ 0 then settle h c.id .conflict m
      else
        let id := h.txs.nextId
        let h := submit h .implicit (cmdPort h c) recs (some c.id) (opens.map (fun a => (a, none))) binds
        beginWait h c w (.tx id (some result))

/-- An S instruction that opens and creates nothing. -/
def stageS (h : Hub) (c : Cmd) (w : IW) (recs : Recs) (extra : Scope) (result : Nat) : Hub :=
  stageOpen h c w recs extra result [] []

/-- Mark every command whose current transaction is aborted as stale (R108). -/
def markStale (h : Hub) (n : Nat) : Hub :=
  { h with trn := { h.trn with cmds := h.trn.cmds.map (fun c =>
      if (curHandle c).map (·.val) = some n then { c with curTx := none, stale := true } else c) } }

/-- A transaction has applied or failed: for the commands that have it as their current one it is no longer open (R109). -/
def markGone (h : Hub) (n : Nat) : Hub :=
  { h with trn := { h.trn with cmds := h.trn.cmds.map (fun c =>
      if (curHandle c).map (·.val) = some n then { c with gone := true } else c) } }

/-- Abort an open transaction: its records and scope are gone, its handle is free, a TX.COMMIT that waits completes
ABORTED (R107, R108). -/
def abortTx (h : Hub) (n : Nat) : Hub :=
  let waiters := (h.txs.submitted.filter (fun s => decide (s.src = .handle (Fin.ofNat 8 n)))).filterMap (·.waiter)
  let h := { h with txs := { h.txs with
    open_ := tdel h.txs.open_ n
    submitted := h.txs.submitted.filter (fun s => decide (s.src ≠ .handle (Fin.ofNat 8 n))) } }
  let h := markStale h n
  waiters.foldl (fun h id => settle h id .aborted 0x0401) h

/-- Withdraw a TX.COMMIT that waits for acceptance: its transaction stays open (R121). -/
def withdrawCommit (h : Hub) (c : Cmd) : Hub :=
  match c.wait with
  | some (.tx id _) =>
    match h.txs.submitted.find? (fun s => decide (s.id = id)) with
    | some s =>
      let subs := h.txs.submitted.filter (fun t => decide (t.id ≠ id))
      match s.src with
      | .handle n =>
        let open_ := match tfind h.txs.open_ n.val with
          | some t => tput h.txs.open_ n.val { t with committing := false }
          | none => h.txs.open_
        { h with txs := { h.txs with submitted := subs, open_ := open_ } }
      | _ => { h with txs := { h.txs with submitted := subs } }
    | none => h
  | _ => h

end Sys2Proof.Machine
end

