-- ==== Sys2Proof/Machine/Turner.lean ====
section
/-!
DEFINITION. Turner's rings, commands, tick programs, semaphores and engine-local instructions (chapter 3), and the
transaction instructions (chapter 4).
-/
namespace Sys2Proof.Machine

/-! ### Fetching (R73-R76) -/

/-- Words a ring holds from HEAD to TAIL (R75). -/
def ringAvail (h : Hub) (r : Nat) : Nat :=
  (fld h (aTrnCrTail r) 0 11 + 2048 - fld h (aTrnCrHead r) 0 11) % 2048

/-- A word of a ring at an offset from HEAD. -/
def ringWord (h : Hub) (r i : Nat) : Nat :=
  (tget 0 h.trn.ringMem (r * 2048 + (fld h (aTrnCrHead r) 0 11 + i) % 2048)).toNat

/-- The cause for which a header stops its ring; 0 = none (R74, R75). -/
def headerCause (w : Nat) : Nat :=
  let len := bitsOf w 16 16
  if bitsOf w 56 8 ≠ 0xFC then 1
  else if len = 0 ∨ 1024 < len ∨ (bitOf w 43 ∧ len ≠ 1) then 2
  else if bitsOf w 44 4 ≠ 0 ∨ bitsOf w 35 4 ≠ 0 ∨ bitsOf w 0 16 ≠ 0 then 3
  else 0

/-- Turner may fetch from a ring: it runs, the ring is enabled, not stopped on a header, not being reset, and holds no
record back (R75, R84, R85). -/
def ringOpen (h : Hub) (r : Nat) : Bool :=
  flag h aTrnCtl 0 && flag h (aTrnCrCtl r) 0 && !flag h (aTrnCrCtl r) 1 &&
    decide (fld h (aTrnCrStatus r) 1 2 = 0) && !h.trn.cmds.any (fun c => decide (c.ring = r) && c.held.isSome)

/-- Check the header at HEAD as soon as its word lies in the span; a bad one stops the ring (R75). -/
def checkHeader (h : Hub) (r : Nat) : Hub :=
  if !ringOpen h r || decide (ringAvail h r = 0) then h
  else
    let cause := headerCause (ringWord h r 0)
    if cause = 0 then h
    else
      let h := setFld (setFld h (aTrnCrStatus r) 1 2 cause) (aTrnCrStatus r) 16 11 (fld h (aTrnCrHead r) 0 11)
      raise (setFlag h (aTrnCrStatus r) 0 true) 0x02 0 0 0

/-- Outstanding commands of a ring. -/
def ringOutstanding (h : Hub) (r : Nat) : Nat :=
  (h.trn.cmds.filter (fun c => decide (c.ring = r) && c.tp.isNone)).length

/-- Outstanding commands of a port. -/
def portOutstanding (h : Hub) (p : Port) : Nat :=
  (h.trn.cmds.filter (fun c => decide (ringPort c.ring = p) && c.tp.isNone)).length

/-- Is one of the 256 entries free for a port: 64 are its own, 128 shared (R76)? -/
def entryFree (h : Hub) (p : Port) : Bool :=
  let a := portOutstanding h p
  let b := portOutstanding h (portOther p)
  decide (a < 64) || decide ((a - 64) + (b - 64) < 128)

/-- The header at HEAD carries the tag of an outstanding command of its ring (R75). -/
def tagStalled (h : Hub) (r : Nat) : Bool :=
  h.trn.cmds.any (fun c => decide (c.ring = r) && c.tp.isNone && decide (c.tag.toNat = bitsOf (ringWord h r 0) 48 8))

/-- A complete command stands at HEAD and may be taken. -/
def fetchable (h : Hub) (r : Nat) : Bool :=
  ringOpen h r && decide (0 < ringAvail h r) &&
    decide (1 + bitsOf (ringWord h r 0) 16 16 ≤ ringAvail h r) && !tagStalled h r && entryFree h (ringPort r)

/-- Take the command at HEAD of a ring (R74, R75). -/
def fetchFrom (h : Hub) (r : Nat) : Hub :=
  let w := ringWord h r 0
  let len := bitsOf w 16 16
  let head := fld h (aTrnCrHead r) 0 11
  let c : Cmd :=
    { id := h.trn.nextCmd, ring := r, tp := none, tag := BitVec.ofNat 8 (bitsOf w 48 8), irq := bitOf w 42,
      nocq := bitOf w 41, order := bitOf w 40, imem := bitOf w 43, base := (head + 1) % 2048, len := len,
      body := (List.range len).map (fun i => BitVec.ofNat 64 (ringWord h r (1 + i))),
      txh := if bitOf w 39 then some (Fin.ofNat 8 (bitsOf w 32 3)) else none,
      thread := none, started := false, g := [], pc := 0, count := 0, last := .ok, curTx := none, stale := false, gone := false,
      wait := none, abort := false, held := none }
  let h := setFld h (aTrnCrHead r) 0 11 ((head + 1 + len) % 2048)
  checkHeader { h with trn := { h.trn with cmds := h.trn.cmds ++ [c], nextCmd := h.trn.nextCmd + 1, lastRing := r } } r

/-- A command whose words cannot be fetched completes FAULT, and its ring skips them (R430). -/
def fetchFault (h : Hub) (r : Nat) : Hub :=
  if !fetchable h r then h
  else
    let id := h.trn.nextCmd
    let h := fetchFrom h r
    match findCmd h id with
    | some c => finishBad h { c with imem := false } .fault 0 0
    | none => h

/-- Do the words of the command at HEAD of a ring meet an uncorrectable word of a fallback copy (R67, R430, R436)? -/
def ringWordsBad (h : Hub) (r : Nat) : Bool :=
  (List.range (1 + bitsOf (ringWord h r 0) 16 16)).any (fun i =>
    fallbackBad h (4 + r / 4) (r % 4 * 16384 + (fld h (aTrnCrHead r) 0 11 + i) % 2048 * 8))

/-- The fetch unit serves the rings in rotating order, starting after the ring served last (R75). -/
def commandFetch (h : Hub) : Hub :=
  let h := (List.range 8).foldl checkHeader h
  match ((List.range 8).map (fun i => (h.trn.lastRing + 1 + i) % 8)).find? (fetchable h) with
  | some r => if ringWordsBad h r then fetchFault h r else fetchFrom h r
  | none => h

/-- COMMAND_FETCH (R75). -/
def execCommandFetch (s : State) : Ans := s.act commandFetch

/-- CR_TAIL_WRITE: the doorbell (R75); another port's ring registers are not its to write (R99). -/
def crTailWrite (p : Port) (r v : Nat) (h : Hub) : Hub :=
  if ringPort r ≠ p then h else checkHeader (setFld h (aTrnCrTail r) 0 11 v) r

def execCrTailWrite (p : Port) (r : Fin 8) (v : Word) (s : State) : Ans := s.act (crTailWrite p r.val v.toNat)

/-! ### Starting (R74, R77) -/

/-- The first command of each ring in ring order that may start: ORDER waits for every earlier one (R77); one that has ended and whose
record is held bars only that. -/
def startable (h : Hub) : Option Cmd :=
  h.trn.cmds.find? (fun c => !c.started && c.tp.isNone && c.held.isNone &&
    !h.trn.cmds.any (fun d => decide (d.ring = c.ring) && d.tp.isNone && decide (d.id < c.id) && (c.order || (!d.started && d.held.isNone))))

/-- The lowest free thread that is no tick thread (R77, R96). -/
def freeThread (h : Hub) : Option (Fin 4) :=
  ([0, 1, 2, 3] : List (Fin 4)).find? (fun t => !tickThread h t.val && !h.trn.cmds.any (fun c => decide (c.thread = some t)))

/-- Start a command on a thread: its TXV transaction and then its IMEM word are checked before its first instruction (R74, R77). The
manual gives the two checks no order, and no SRC to an IMEM command that its TXV ends: the model takes TXV first and gives WORD 0
and SRC 0, as for the body word (DESIGN CHOICE, notes/assumptions/134.md). -/
def startOn (h : Hub) (c : Cmd) (t : Fin 4) : Hub :=
  let plain := { c with imem := false }
  let txBad : Option Status := match c.txh with
    | none => none
    | some n => match openTx h n.val with
      | none => some .invalid
      | some x => if x.owner = ringPort c.ring then none else some .denied
  match txBad with
  | some st => finishBad h plain st 0 0
  | none =>
    let c := { c with started := true, thread := some t, curTx := c.txh, count := 0, last := .ok }
    if c.imem then
      let w := (c.body.head?.getD 0).toNat
      let start := bitsOf w 0 15
      let lim := bitsOf w 16 15
      if lim = 0 ∨ 32768 < start + lim ∨ w ≠ start + lim * 2 ^ 16 then finishBad h plain .invalid 0 0
      else
        let c := { c with base := start, len := lim }
        resume resumeFuel (putCmd h c) c start .ok 0 start
    else resume resumeFuel (putCmd h c) c 0 .ok 0 0

/-- COMMAND_START (R77). -/
def commandStart (h : Hub) : Hub :=
  if !flag h aTrnCtl 0 then h
  else match startable h, freeThread h with
    | some c, some t => startOn h c t
    | _, _ => h

def execCommandStart (s : State) : Ans := s.act commandStart

/-! ### Completion rings (R84, R85) -/

/-- Write the held records of a ring, in the order they were completed, while it has room (R84). -/
def drainHeld : Nat → Hub → Nat → Hub
  | 0, h, _ => h
  | n + 1, h, r =>
    match h.trn.cmds.find? (fun c => decide (c.ring = r) && c.held.isSome) with
    | none => h
    | some c =>
      if ccFull h r then h
      else match c.held with
        | some (st, res) => drainHeld n (writeRecord (dropCmd h c.id) r c.tag c.irq st res.toNat) r
        | none => h

/-- CC_HEAD_WRITE: the manager advances its read point (R84, R99). -/
def ccHeadWrite (p : Port) (r v : Nat) (h : Hub) : Hub :=
  if ringPort r ≠ p then h else drainHeld h.trn.cmds.length (setFld h (aTrnCcHead r) 0 10 v) r

def execCcHeadWrite (p : Port) (r : Fin 8) (v : Word) (s : State) : Ans := s.act (ccHeadWrite p r.val v.toNat)

/-- CC_RESET has effect only while the ring's command ring has no outstanding command (R85). A tick program's record that the full ring
held back stays held until CC_HEAD is written: the manual does not say (DESIGN CHOICE, notes/assumptions/136.md). -/
def ccReset (p : Port) (r : Nat) (h : Hub) : Hub :=
  if ringPort r ≠ p ∨ ringOutstanding h r ≠ 0 then h
  else wr (wr h (aTrnCcTail r) (W 0x8000)) (aTrnCcHead r) 0

def execCcReset (p : Port) (r : Fin 8) (s : State) : Ans := s.act (ccReset p r.val)

/-! ### Ends that come from outside a command (R78, R85, R103) -/

/-- INSTRUCTION_BUDGET: a command that has executed its instructions and would execute another ends with TIMEOUT (R78). -/
def instructionBudget (th : Fin 4) (h : Hub) : Hub :=
  match threadCmd h th with
  | some c => if c.wait.isNone ∧ c.tp.isNone ∧ budget h c ≤ c.count then finishBad h c .timeout c.pc 0 else h
  | none => h

def execInstructionBudget (th : Fin 4) (s : State) : Ans := s.act (instructionBudget th)

/-- TP_BUDGET: a run that has used BUDGET ends with TIMEOUT and sets TP_BUDGET (R98). -/
def tpBudget (th : Fin 4) (h : Hub) : Hub :=
  match threadCmd h th with
  | some c =>
    if c.wait.isNone ∧ c.tp.isSome ∧ budget h c ≤ c.count then
      finishBad (raise h 0x02 3 0 0) c .timeout c.pc 0
    else h
  | none => h

def execTpBudget (th : Fin 4) (s : State) : Ans := s.act (tpBudget th)

/-- The outstanding command of a ring with a tag. -/
def findTag (h : Hub) (r : Nat) (tag : Byte) : Option Cmd :=
  h.trn.cmds.find? (fun c => decide (c.ring = r) && decide (c.tag = tag) && c.tp.isNone && c.held.isNone)

/-- The limit on a wait in tick edges; 0 acts as 1 (R103). -/
def waitLimit (h : Hub) : Nat := max 1 (fld h aTrnCmdTimeout 0 16)

/-- WAIT_TIMEOUT: a WAIT.TICK or FENCE still waiting at edge TICKS + 1 ends its command with TIMEOUT, whatever its CONT
flag (R78; DEDUCED, notes/assumptions/11.md). -/
def waitTimeout (r : Nat) (tag : Byte) (h : Hub) : Hub :=
  match findTag h r tag with
  | some c =>
    let late := fun from_ => decide (waitLimit h + 1 ≤ edgesSince h from_)
    match c.wait with
    | some (.tick n from_) => if late from_ ∧ waitLimit h < n then finishBad h c .timeout c.pc 0 else h
    | some (.fence _ _ _ _ _ from_) => if late from_ then finishBad h c .timeout c.pc 0 else h
    | _ => h
  | none => h

def execWaitTimeout (r : Fin 8) (tag : BitVec 8) (s : State) : Ans := s.act (waitTimeout r.val tag)

/-- End a command that waits, stands between instructions or has not begun with ABORTED; an operation that holds its thread ends first,
one handed to its block finishes normally (R79, R85, R121). -/
def abortCmd (h : Hub) (id : Nat) : Hub :=
  match findCmd h id with
  | none => h
  | some c =>
    if c.held.isSome then h
    else if !c.started then finishBad h { c with imem := false } .aborted 0 0
    else match c.wait with
      | none => finishBad h c .aborted c.pc 0
      | some (.tick _ _) => finishBad h c .aborted c.pc 0
      | some (.fence _ _ _ _ _ _) => finishBad h c .aborted c.pc 0
      | some (.tx _ _) => if c.thread.isSome then finishBad (withdrawCommit h c) c .aborted c.pc 0 else h
      | some .op => if c.thread.isSome then putCmd h { c with abort := true } else h

/-- RING_RESET (R85). -/
def ringReset (p : Port) (r : Nat) (h : Hub) : Hub :=
  if ringPort r ≠ p then h
  else
    let h := setFlag h (aTrnCrCtl r) 1 true
    let h := wr h (aTrnCrHead r) (rd h (aTrnCrTail r))
    ((h.trn.cmds.filter (fun c => decide (c.ring = r) && c.tp.isNone)).map (·.id)).foldl abortCmd h

def execRingReset (p : Port) (r : Fin 8) (s : State) : Ans := s.act (ringReset p r.val)

/-- RING_RESET_DONE: once no command of the ring is outstanding, HEAD, TAIL, ERR and RESET clear (R85); with ERR go ERR_CAUSE and
ERR_AT, of which the manual says nothing (DESIGN CHOICE, notes/assumptions/135.md). -/
def ringResetDone (r : Nat) (h : Hub) : Hub :=
  if !flag h (aTrnCrCtl r) 1 || decide (ringOutstanding h r ≠ 0) then h
  else setFlag (wr (wr (wr h (aTrnCrHead r) 0) (aTrnCrTail r) 0) (aTrnCrStatus r) 0) (aTrnCrCtl r) 1 false

def execRingResetDone (r : Fin 8) (s : State) : Ans := s.act (ringResetDone r.val)

/-- Stop Turner: RUN becomes 0, commands and runs under way end with ABORTED, but for one (R92, R103). Tick programs that were due and
had not begun are dropped: the manual says only that none starts (DESIGN CHOICE, notes/assumptions/137.md). -/
def stopRun (h : Hub) (except_ : Option Nat) : Hub :=
  let h := setFlag h aTrnCtl 0 false
  let h := { h with trn := { h.trn with tpPending := 0 } }
  (((h.trn.cmds.filter (·.started)).map (·.id)).filter (fun i => decide (some i ≠ except_))).foldl abortCmd h

/-- RUN_STOP: a write of 0 to TRN_CTL.RUN by either port (R99, R103). -/
def execRunStop (_p : Port) (s : State) : Ans := s.act (fun h => stopRun h none)

/-- RUN_START (R103). -/
def execRunStart (_p : Port) (s : State) : Ans := s.act (fun h => setFlag h aTrnCtl 0 true)

/-! ### Tick programs (R95-R98) -/

/-- Begin the run of a pending tick program on its thread. -/
def tpBegin (h : Hub) (th : Fin 4) (n : Nat) : Hub :=
  let start := fld h (aTrnTpStart n) 0 15
  let c : Cmd :=
    { id := h.trn.nextCmd, ring := fld h (aTrnTpCfg n) 4 3, tp := some (Fin.ofNat 8 n),
      tag := BitVec.ofNat 8 (fld h (aTrnTpCfg n) 8 8), irq := false, nocq := false, order := false, imem := true,
      base := start, len := 32768 - start, body := [], txh := none, thread := some th, started := true, g := [], pc := start,
      count := 0, last := .ok, curTx := none, stale := false, gone := false, wait := none, abort := false, held := none }
  let h := { h with trn := { h.trn with
    cmds := h.trn.cmds ++ [c], nextCmd := h.trn.nextCmd + 1,
    tpPending := h.trn.tpPending &&& ~~~(BitVec.ofNat 8 (2 ^ n)) } }
  let h := tally h 0x70 0x0703 1 none
  resume resumeFuel h c start .ok 0 start

/-- The start point of a thread in this tick has passed. -/
def tpPassed (h : Hub) (th : Fin 4) : Hub := { h with trn := { h.trn with tpEdge := tset 0 h.trn.tpEdge th.val h.tim.edges } }

/-- The thread's programs at a start point: one still running or pending is skipped, the others become pending (R98). A run whose record a
full ring holds back has ended and starts again: the manual does not say whether it still runs (DESIGN CHOICE,
notes/assumptions/139.md). -/
def tpStartPoint (h : Hub) (th : Fin 4) : Hub :=
  let h := tpPassed h th
  (List.range 8).foldl (fun h n =>
    if flag h (aTrnTpCfg n) 0 && decide (fld h (aTrnTpCfg n) 1 2 = th.val) then
      if h.trn.cmds.any (fun c => decide (c.tp.map (·.val) = some n) && c.held.isNone) || bitOf h.trn.tpPending.toNat n then
        raise (setFld h (aTrnTpStatus n) 0 16 (min 0xFFFF (fld h (aTrnTpStatus n) 0 16 + 1))) 0x02 2 0 0
      else { h with trn := { h.trn with tpPending := h.trn.tpPending ||| BitVec.ofNat 8 (2 ^ n) } }
    else h) h

/-- The start point of a tick: 3,200 core clocks after its edge, or the end of P0 if that is later (R96). -/
def startPoint (h : Hub) : Nat := max (h.tim.edgeClk + 3200) h.tim.p0End

/-- TICK_PROGRAM_RUN: at a tick's start point, once P0 has ended, the thread's programs fall due; then the lowest pending one begins
when the thread is free (R96, R98). A ring command on the thread finishes first, without a skip: the first start is the first
start point after its end. -/
def tickProgramRun (th : Fin 4) (h : Hub) : Hub :=
  let ringBusy := h.trn.cmds.any (fun c => decide (c.thread = some th) && c.tp.isNone)
  if !flag h aTrnCtl 0 || p0Busy h then h
  else
    let h := runTo h (startPoint h)
    let due := decide (tget 0 h.trn.tpEdge th.val < h.tim.edges)
    if ringBusy then (if due then tpPassed h th else h)
    else
    let h := if !due then h
      else if startPoint h < tget 0 h.trn.leftAt th.val then tpPassed h th
      else tpStartPoint h th
    if h.trn.cmds.any (fun c => decide (c.thread = some th)) then h
    else
      match (List.range 8).find? (fun n => bitOf h.trn.tpPending.toNat n && flag h (aTrnTpCfg n) 0 &&
          decide (fld h (aTrnTpCfg n) 1 2 = th.val)) with
      | some n => tpBegin h th n
      | none => h

def execTickProgramRun (th : Fin 4) (s : State) : Ans := s.act (tickProgramRun th)

/-! ### Management ports and semaphores (R99-R102) -/

/-- Release the semaphores a predicate takes and post SEM_BREAK when any was held (R100, R102). -/
def breakSems (h : Hub) (p : Nat → Port → Bool) : Hub :=
  let gone := maskOf 32 (fun n => match tfind h.trn.sem n with
    | some o => p n o
    | none => false)
  if gone = 0 then h
  else raise { h with trn := { h.trn with sem := h.trn.sem.filter (fun e => !p e.1 e.2) } } 0x02 4 0 gone

def setMgmt (h : Hub) (p : Port) (up : Bool) : Hub :=
  match p with
  | .m0 => { h with trn := { h.trn with linkUp0 := up } }
  | .m1 => { h with trn := { h.trn with linkUp1 := up } }

/-- MGMT_LINK_DOWN: the port's messages are held from now on and its semaphores released (R100). -/
def mgmtLinkDown (p : Port) (h : Hub) : Hub :=
  breakSems (laneTo (setMgmt h p false) (96 + Port.toNat p) 0) (fun _ o => decide (o = p))

def execMgmtLinkDown (p : Port) (s : State) : Ans := s.act (mgmtLinkDown p)

/-- Symbol rate in MBd of a management link by rate code, 1 = 2.5 GT/s to 4 = 16 GT/s (R26). -/
def mgmtBaud (rate : Nat) : Nat :=
  match rate with
  | 1 => 2500
  | 2 => 5000
  | 3 => 8000
  | _ => 16000

/-- MGMT_LINK_UP: the lane has trained at the highest rate that both partners support (R28, R190); the held vectors go, each once, and one fault-log message where one is due (R100, R483). -/
def mgmtLinkUp (p : Port) (rate : Nat) (h : Hub) : Hub :=
  let lane := 96 + Port.toNat p
  let h := laneUp (if 3 ≤ rate then partnerFfe h lane else h) lane (mgmtBaud rate) false
  let held := match p with
    | .m0 => h.trn.heldVec0.toNat
    | .m1 => h.trn.heldVec1.toNat
  let h := setMgmt h p true
  let h := match p with
    | .m0 => { h with trn := { h.trn with heldVec0 := 0 } }
    | .m1 => { h with trn := { h.trn with heldVec1 := 0 } }
  let h := (bitsSet 64 held).foldl (fun h v => send h (.msix p v)) h
  let n := Port.toNat p
  if tget false h.flt.due n && !tget false h.flt.holdoff n then
    fltMessage { h with flt := { h.flt with due := tset false h.flt.due n false } } p
  else h

def execMgmtLinkUp (l : MgmtLink) (s : State) : Ans := s.act (mgmtLinkUp l.port (max 1 (min 4 l.rate.toNat)))

/-- Take a semaphore for a port: 1 when it is free or the port's own (R101). -/
def semTake (h : Hub) (p : Port) (n : Nat) : Hub × Nat :=
  match tfind h.trn.sem n with
  | some o => (h, if o = p then 1 else 0)
  | none => ({ h with trn := { h.trn with sem := tput h.trn.sem n p } }, 1)

/-- Give a semaphore back: only its owner's release counts (R101). -/
def semGive (h : Hub) (p : Port) (n : Nat) : Hub × Bool :=
  match tfind h.trn.sem n with
  | some o => if o = p then ({ h with trn := { h.trn with sem := tdel h.trn.sem n } }, true) else (h, false)
  | none => (h, true)

/-- SEM_TAKE_READ: a read of TRN_SEM_TAKEn by a port (R101). -/
def execSemTakeRead (p : Port) (n : Fin 32) (s : State) : Ans :=
  s.act (fun h => send (semTake h p n.val).1 (.data (.port p) (aTrnSemTake n.val) (W (semTake h p n.val).2)))

/-- SEM_GIVE_WRITE: a write of 1 to TRN_SEM_GIVEn by a port (R101). -/
def execSemGiveWrite (p : Port) (n : Fin 32) (s : State) : Ans := s.act (fun h => (semGive h p n.val).1)

/-- SEM_BREAK_WRITE (R102). -/
def execSemBreakWrite (_p : Port) (mask : Word) (s : State) : Ans :=
  s.act (fun h => breakSems h (fun n _ => bitOf mask.toNat n))

/-- SEM.TAKE (R101). -/
def execSemTake (th : Fin 4) (s : State) : Ans :=
  s.act (fun h => onInstr h th 0x78 (fun h c w =>
    if 32 ≤ w.target ∨ w.operand ≠ 0 then settle h c.id .invalid 0
    else settle (semTake h (cmdPort h c) w.target).1 c.id .ok (semTake h (cmdPort h c) w.target).2))

/-- SEM.GIVE (R101). -/
def execSemGive (th : Fin 4) (s : State) : Ans :=
  s.act (fun h => onInstr h th 0x79 (fun h c w =>
    if 32 ≤ w.target ∨ w.operand ≠ 0 then settle h c.id .invalid 0
    else if (semGive h (cmdPort h c) w.target).2 then settle (semGive h (cmdPort h c) w.target).1 c.id .ok 0
    else settle h c.id .denied 0))

/-! ### Engine-local instructions (R89-R92) -/

/-- NOP (R88). -/
def execNop (th : Fin 4) (s : State) : Ans :=
  s.act (fun h => onInstr h th 0x00 (fun h c w =>
    settle h c.id (if w.target = 0 ∧ w.operand = 0 then .ok else .invalid) 0))

/-- WAIT.TICK: its wait begins (R90). -/
def execWaitTick (th : Fin 4) (s : State) : Ans :=
  s.act (fun h => onLong h th 0x01 (fun h c w =>
    if w.target ≠ 0 ∨ w.operand = 0 ∨ 65535 < w.operand then settle h c.id .invalid 0
    else beginWait h c w (.tick w.operand h.tim.edges)))

/-- WAIT_TICK_END: after n further edges the result is the tick number (R78, R90). -/
def waitTickEnd (r : Nat) (tag : Byte) (h : Hub) : Hub :=
  match findTag h r tag with
  | some c =>
    match c.wait with
    | some (.tick n from_) =>
      if n ≤ edgesSince h from_ ∧ n ≤ waitLimit h then settle h c.id .ok (tickNo h) else h
    | _ => h
  | none => h

def execWaitTickEnd (r : Fin 8) (tag : BitVec 8) (s : State) : Ans := s.act (waitTickEnd r.val tag)

/-- FENCE: passes at once with no condition, else waits (R90). -/
def execFence (th : Fin 4) (s : State) : Ans :=
  s.act (fun h => onLong h th 0x02 (fun h c w =>
    if w.target ≠ 0 ∨ 8 ≤ w.operand then settle h c.id .invalid 0
    else if w.operand = 0 then settle h c.id .ok h.txs.vintage.toNat
    else beginWait h c w (.fence (bitOf w.operand 0) (bitOf w.operand 1) (bitOf w.operand 2) c.id h.txs.nextId h.tim.edges)))

/-- Do the conditions of a FENCE hold (R90)? -/
def fenceOpen (h : Hub) (c : Cmd) (ring port applied : Bool) (seq upto : Nat) : Bool :=
  let earlier := fun (d : Cmd) => d.tp.isNone && decide (d.id < seq)
  (!ring || !h.trn.cmds.any (fun d => earlier d && decide (d.ring = c.ring))) &&
  (!port || !h.trn.cmds.any (fun d => earlier d && decide (ringPort d.ring = ringPort c.ring))) &&
  (!applied || !((h.txs.submitted ++ h.txs.queue ++ h.txs.delivering.toList).any
    (fun t => decide (t.owner = ringPort c.ring) && decide (t.id < upto))))

/-- FENCE_PASS: the fence's conditions hold before its limit; the result is the vintage (R78, R90). -/
def fencePass (r : Nat) (tag : Byte) (h : Hub) : Hub :=
  match findTag h r tag with
  | some c =>
    match c.wait with
    | some (.fence ring port applied seq upto from_) =>
      if fenceOpen h c ring port applied seq upto ∧ edgesSince h from_ ≤ waitLimit h then
        settle h c.id .ok h.txs.vintage.toNat
      else h
    | _ => h
  | none => h

def execFencePass (r : Fin 8) (tag : BitVec 8) (s : State) : Ans := s.act (fencePass r.val tag)

/-- A 32-bit operand sign-extended to 64 bits. -/
def sext32 (v : Nat) : Nat := if v % 2 ^ 32 < 2 ^ 31 then v % 2 ^ 32 else v % 2 ^ 32 + (2 ^ 64 - 2 ^ 32)

/-- MOV (R89). With W = 1 the extension word is the value, under IND too. -/
def execMov (th : Fin 4) (s : State) : Ans :=
  s.act (fun h => onInstr h th 0x04 (fun h c w =>
    if !onlyBits w.target 0x801F then settle h c.id .invalid 0
    else
      let v := if bitOf w.target 15 then w.x 0 else if w.ind then w.src else sext32 w.operand
      let c := setGreg c (w.target % 32) v
      settle (putCmd h c) c.id .ok (greg c (w.target % 32))))

/-- The ALU functions, modulo 2^64 (R89). -/
def alu (f a b : Nat) : Nat :=
  match f with
  | 0 => (a + b) % 2 ^ 64
  | 1 => (a + 2 ^ 64 - b % 2 ^ 64) % 2 ^ 64
  | 2 => a &&& b
  | 3 => a ||| b
  | 4 => a ^^^ b
  | 5 => a * 2 ^ (b % 64) % 2 ^ 64
  | 6 => a / 2 ^ (b % 64)
  | _ => if a < b then 1 else 0

/-- ALU (R89). -/
def execAlu (th : Fin 4) (s : State) : Ans :=
  s.act (fun h => onInstr h th 0x05 (fun h c w =>
    if !onlyBits w.target 0x71F then settle h c.id .invalid 0
    else
      let d := w.target % 32
      let b := if w.ind then w.src else sext32 w.operand
      let c := setGreg c d (alu (bitsOf w.target 8 3) (greg c d) b)
      settle (putCmd h c) c.id .ok (greg c d)))

/-- The conditions of BR; none for the invalid codes 5-7 (R89). -/
def brTaken (cond : Nat) (g : Nat) (last : Status) : Option Bool :=
  match cond with
  | 0 => some true
  | 1 => some (decide (g = 0))
  | 2 => some (decide (g ≠ 0))
  | 3 => some (decide (last ≠ .ok))
  | 4 => some (decide (last = .ok))
  | _ => none

/-- Is word t the first word of an instruction, counting from the first word of a body or program (R89)? -/
def firstWord (h : Hub) (c : Cmd) (t : Nat) : Nat → Nat → Bool
  | 0, _ => false
  | n + 1, p =>
    if t ≤ p then decide (t = p)
    else firstWord h c t n (p + (match fetchIW h c p with
      | some w => w.words
      | none => 1))

/-- BR: a jump by OPERAND words from its own first word; a target outside the body or program is INVALID (R89). -/
def execBr (th : Fin 4) (s : State) : Ans :=
  s.act (fun h => onInstr h th 0x06 (fun h c w =>
    if !onlyBits w.target 0x71F then settle h c.id .invalid 0
    else
      match brTaken (bitsOf w.target 8 3) (greg c (w.target % 32)) c.last with
      | none => settle h c.id .invalid 0
      | some false => settle h c.id .ok 0
      | some true =>
        let t : Int := (c.pc : Int) + signed w.operand 32
        let lo := if c.imem then c.base else 0
        if t < lo ∨ (cmdEnd c : Int) ≤ t ∨ !firstWord h c t.toNat 32768 lo then settle h c.id .invalid 0
        else settleTo h c.id .ok 0 (some t.toNat)))

/-- HALT mode 0 ends the command with OK and result g1 (R92). -/
def execHaltMode0 (th : Fin 4) (s : State) : Ans :=
  s.act (fun h => onInstr h th 0x07 (fun h c w =>
    if w.operand % 4 ≠ 0 then h
    else if w.target ≠ 0 ∨ w.operand ≠ 0 then settle h c.id .invalid 0
    else finish h { c with count := c.count + 1 } .ok (greg c 1)))

/-- HALT mode 1 stops Turner, then ends the command with OK (R92); INVALID in a tick program (R97). -/
def execHaltMode1 (th : Fin 4) (s : State) : Ans :=
  s.act (fun h => onInstr h th 0x07 (fun h c w =>
    if w.operand % 4 ≠ 1 then h
    else if w.target ≠ 0 ∨ w.operand ≠ 1 ∨ c.tp.isSome then settle h c.id .invalid 0
    else finish (stopRun h (some c.id)) c .ok 0))

/-! ### Transaction instructions (R94, R104-R109) -/

/-- The lowest free handle. -/
def freeHandle (h : Hub) : Option Nat := (List.range 8).find? (fun n => (tfind h.txs.open_ n).isNone)

/-- Does a scope name only resources that the part has (R105)? -/
def scopePresent (v : Variant) (sc : Scope) : Bool :=
  (bitsSet 64 sc.docks.toNat).all (fun d => decide (d < v.docks)) &&
  (bitsSet 24 sc.ports.toNat).all (spPresent v) &&
  (bitsSet 8 sc.outputs.toNat).all (fun o => decide (o < v.outputs))

/-- TX.BEGIN (R94, R105). With no handle to take and a scope that overlaps it answers BUSY: the manual gives the two no order (DESIGN
CHOICE, notes/assumptions/140.md). -/
def execTxBegin (th : Fin 4) (s : State) : Ans :=
  s.act (fun h => onInstr h th 0x10 (fun h c w =>
    let e1 := w.x 1
    let sc : Scope := ⟨BitVec.ofNat 64 (w.x 0), BitVec.ofNat 24 (bitsOf e1 0 24), BitVec.ofNat 8 (bitsOf e1 24 8), bitOf e1 32⟩
    let fixed := bitOf w.operand 19
    let hn := if fixed then (if (tfind h.txs.open_ (w.o 16 3)).isNone then some (w.o 16 3) else none) else freeHandle h
    if w.target ≠ 0 ∨ 2 ^ 20 ≤ w.operand ∨ 2 ^ 33 ≤ e1 ∨ sc.isEmpty ∨ !scopePresent h.part.res sc then
      settle h c.id .invalid 0
    else match hn with
      | none => settle h c.id .busy 0
      | some n =>
        let m := overlaps h sc none
        if m ≠ 0 then settle h c.id .conflict m
        else
          let t : Tx := ⟨cmdPort h c, sc, h.tim.edges, w.o 0 16, [], false, false, [], []⟩
          let h := { h with txs := { h.txs with open_ := tput h.txs.open_ n t }
                            mst := { h.mst with badRec := tset [] h.mst.badRec n [] } }
          let h := putCmd h { c with curTx := some (Fin.ofNat 8 n), stale := false, gone := false }
          settle h c.id .ok n))

/-- The handle that TARGET names: a number or the current transaction. -/
def txTarget (c : Cmd) (t : Nat) : Option Nat :=
  if t = 0xF000 then (curHandle c).map (·.val) else if t < 8 then some t else none

/-- A command drops a transaction as its current one. -/
def dropCurrent (c : Cmd) (n : Nat) : Cmd := if (curHandle c).map (·.val) = some n then { c with curTx := none } else c

/-- TX.COMMIT (R94, R97, R108, R109, R118). An empty transaction is freed at once. -/
def execTxCommit (th : Fin 4) (s : State) : Ans :=
  s.act (fun h => onInstr h th 0x11 (fun h c w =>
    if w.operand ≠ 0 ∨ (8 ≤ w.target ∧ w.target ≠ 0xF000) then settle h c.id .invalid 0
    else if w.target = 0xF000 ∧ c.stale then
      settle (putCmd h { c with stale := false, curTx := none }) c.id .aborted 0
    else match txTarget c w.target with
      | none => settle h c.id .invalid 0x0401
      | some n =>
        match tfind h.txs.open_ n with
        | none => settle h c.id .invalid 0x0401
        | some t =>
          if t.owner ≠ cmdPort h c then settle h c.id .denied 0
          else if t.accepted then settle h c.id .invalid 0x0403
          else if t.committing then settle h c.id .invalid 0x0401
          else
            let c := dropCurrent c n
            let h := putCmd h c
            if t.recs = [] then
              settle { h with txs := { h.txs with open_ := tdel h.txs.open_ n } } c.id .ok (if c.tp.isSome then 0 else h.txs.vintage.toNat)
            else
              let id := h.txs.nextId
              let h := { h with txs := { h.txs with open_ := tput h.txs.open_ n { t with committing := true } } }
              let h := submit h (.handle (Fin.ofNat 8 n)) t.owner t.recs (some c.id) t.opens t.binds
              beginWait h c w (.tx id none)))

/-- TX.ABORT (R94, R107). -/
def execTxAbort (th : Fin 4) (s : State) : Ans :=
  s.act (fun h => onInstr h th 0x12 (fun h c w =>
    if 2 ≤ w.operand ∨ (8 ≤ w.target ∧ w.target ≠ 0xF000) then settle h c.id .invalid 0
    else match txTarget c w.target with
      | none => settle h c.id .invalid 0x0401
      | some n =>
        match tfind h.txs.open_ n with
        | none => settle h c.id .invalid 0x0401
        | some t =>
          if t.accepted then settle h c.id .invalid 0x0403
          else if t.owner ≠ cmdPort h c ∧ w.operand = 0 then settle h c.id .denied 0
          else
            let h := putCmd h (dropCurrent c n)
            settle (abortTx h n) c.id .ok 0))

/-- State of a handle as TX.STATUS codes it (R104). -/
def txState (h : Hub) (n : Nat) : Nat :=
  match tfind h.txs.open_ n with
  | none => 0
  | some t => if t.accepted then 2 else 1

/-- State, owner and records of a handle in the layout of TX.STATUS (R88). -/
def txStatus (h : Hub) (n : Nat) : Nat :=
  match tfind h.txs.open_ n with
  | none => 0
  | some t => txState h n + Port.toNat t.owner * 2 ^ 8 + t.recs.length * 2 ^ 16

/-- TX.STATUS (R88). -/
def execTxStatus (th : Fin 4) (s : State) : Ans :=
  s.act (fun h => onInstr h th 0x13 (fun h c w =>
    if 8 ≤ w.target ∨ w.operand ≠ 0 then settle h c.id .invalid 0
    else settle h c.id .ok (txStatus h w.target)))

/-- LIFETIME_EXPIRY: a transaction still open when its lifetime ends is aborted and EXPIRED sets (R106). -/
def lifetimeExpiry (n : Nat) (h : Hub) : Hub :=
  match openTx h n with
  | some t => if t.life ≠ 0 ∧ t.life ≤ edgesSince h t.lifeStart then raise (abortTx h n) 0x03 0 0 0 else h
  | none => h

def execLifetimeExpiry (n : Fin 8) (s : State) : Ans := s.act (lifetimeExpiry n.val)

end Sys2Proof.Machine
end

