-- ==== Sys2Proof/Machine/Timebase.lean ====
section
/-!
DEFINITION. The timebase (chapter 2): steps, the discipline loop, time ports, the grandmaster and audio feedback. The
tick edge and the step itself, which reach other chapters, are in Tick.lean.
-/
namespace Sys2Proof.Machine

/-- The armed step falls due at this edge (R42). -/
def stepDue (h : Hub) : Bool :=
  match h.tim.stepArmed with
  | some c => decide (c + 3200 ≤ h.tim.edgeClk) && decide (h.tim.coreClk = h.tim.edgeClk)
  | none => false

/-- Is the step target a multiple of 125,000 ns (R41)? -/
def stepTargetOk (h : Hub) : Bool := decide (rd64 h aTimStepLo % 125000 = 0)

/-- Refuse a step: REJECT sets, ARM clears, nothing else changes (R41, R42). -/
def rejectStep (h : Hub) : Hub :=
  let h := setFlag (setFlag h aTimStepCmd 1 true) aTimStepCmd 0 false
  { h with tim := { h.tim with stepArmed := none } }

/-- A write of 1 to TIM_STEP_CMD.ARM (R41, R42). -/
def armStep (h : Hub) : Hub :=
  if !stepTargetOk h then rejectStep h
  else if flag h aTimStepCmd 0 then h
  else
    let h := setFlag h aTimStepCmd 0 true
    { h with tim := { h.tim with stepArmed := some h.tim.coreClk } }

/-- ARM_STEP (R41, R42). -/
def execArmStep (_p : Port) (t : Nat) (s : State) : Ans := s.act (fun h => armStep (atClk h t))

/-- A write of 0 to ARM cancels the step (R42). -/
def cancelStep (h : Hub) : Hub :=
  let h := setFlag h aTimStepCmd 0 false
  { h with tim := { h.tim with stepArmed := none } }

def execCancelStep (_p : Port) (s : State) : Ans := s.act cancelStep

/-! ### Time ports (R54, R55) -/

/-- Period of a time port in ns; none when off or invalid. -/
def tpPeriod (h : Hub) (n : Nat) : Option Nat :=
  match fld h (aTimTpCfg n) 0 3 with
  | 1 => some 125000
  | 2 => some 1000000
  | 3 => some 1000000000
  | _ => none

/-- TIME1 is the 10 MHz input and sends nothing (R56). -/
def tpIsInput (h : Hub) (n : Nat) : Bool := decide (n = 1) && flag h aTimTime1Cfg 0

/-- TIME_PULSE: at an edge whose hub time is a multiple of the period, one pulse an edge. At the edge of a step the hub time before
it marks nothing (R54). -/
def timePulse (n : Nat) (h : Hub) : Hub :=
  match tpPeriod h n with
  | none => h
  | some p =>
    let ns := hubNs h
    if tpIsInput h n || stepDue h || decide (ns % p ≠ 0) || decide (h.tim.coreClk ≠ h.tim.edgeClk) ||
        decide (h.tim.edges ≤ tget 0 h.tim.lastPulse n) then h
    else
      let us := fld h (aTimTpWidth n) 0 20
      let width := if p ≤ us * 1000 then p / 2 else us * 1000
      let h := send h (.pulse n ns width (fld h (aTimTpAdvance n) 0 16))
      let code := if flag h (aTimTpCfg n) 3 then tput h.tim.pulseAt n ns else h.tim.pulseAt
      { h with tim := { h.tim with lastPulse := tset 0 h.tim.lastPulse n h.tim.edges, pulseAt := code } }

def execTimePulse (n : Fin 2) (s : State) : Ans := s.act (timePulse n.val)

/-- The 144 bits of a code frame (R55). -/
def codeFrame (stepped locked holdover : Bool) (ns seq tag : Nat) : BitVec 144 :=
  let flags := (if stepped then 8 else 0) + (if locked then 4 else 0) + (if holdover then 2 else 0)
  let body := (((1 * 16 + flags) * 2 ^ 64 + ns % 2 ^ 64) * 2 ^ 16 + seq % 2 ^ 16) * 2 ^ 16 + tag % 2 ^ 16
  BitVec.ofNat 144 (((0x5555D5 * 2 ^ 104 + body) * 2 ^ 16) + crc16 (bitsMsb 104 body))

/-- Manchester coding of the lowest n bits, most significant first: 0 is high then low, 1 low then high (R55). -/
def manchester : Nat → Nat → Nat
  | 0, _ => 0
  | n + 1, v => (if bitOf v n then 1 else 2) * 4 ^ n + manchester n v

/-- CODE_FRAME: the frame of the pulse before it; SEQ advances, STEPPED is spent (R55). The line of TIME1 as an input stays low
(R56). -/
def sendCode (n : Nat) (h : Hub) : Hub :=
  match tfind h.tim.pulseAt n with
  | none => h
  | some ns =>
    if tpIsInput h n then { h with tim := { h.tim with pulseAt := tdel h.tim.pulseAt n } }
    else
    let seq := fld h (aTimTpSeq n) 0 16
    let f := codeFrame (tget false h.tim.stepped n) (flag h aTimDiscStatus 0) (flag h aTimDiscStatus 1) ns seq
      (fld h aTimHubTag 0 16)
    let h := send h (.code n (BitVec.ofNat 288 (manchester 144 f.toNat)))
    let h := setFld h (aTimTpSeq n) 0 16 ((seq + 1) % 65536)
    { h with tim := { h.tim with pulseAt := tdel h.tim.pulseAt n, stepped := tset false h.tim.stepped n false } }

def execCodeFrame (n : Fin 2) (s : State) : Ans := s.act (sendCode n.val)

/-! ### The discipline loop (R40, R56, R57) -/

/-- The clamp of R40: 150 ppm in units of 10^-12. -/
def rateLimit : Int := 150000000

def clampRate (r : Int) : Int := max (-rateLimit) (min rateLimit r)

/-- A signed number as a register. -/
def ofInt (i : Int) : Word := BitVec.ofInt 32 i

/-- −offset × 2^−GAIN; where it is no whole number the rounding is open and a free value picks the neighbour. -/
def correction (h : Hub) (offset : Int) : Hub × Int :=
  let g : Int := (2 ^ fld h aTimTime1Cfg 8 3 : Nat)
  let q := (-offset) / g
  if (-offset) % g = 0 then (h, q)
  else ((drawFree h).1, if (drawFree h).2.toNat % 2 = 0 then q else q + 1)

/-- A measured window: offset, lock state and the new rate (R56, R57). -/
def measure (h : Hub) (offset : Int) : Hub :=
  let h := wr h aTimDiscOffset (ofInt offset)
  let inR := if offset.natAbs ≤ 100000 then min 4 (h.tim.inRange + 1) else 0
  let h := { h with tim := { h.tim with inRange := inR } }
  let h := if inR = 4 ∧ !flag h aTimDiscStatus 0 then raise (setFlag h aTimDiscStatus 0 true) 0x01 2 0 0 else h
  let h := if 1000000 < offset.natAbs then setFlag h aTimDiscStatus 0 false else h
  let old := rateNow h
  let hc := correction h offset
  let want := old + hc.2
  let h := setRate hc.1 (ofInt (clampRate want))
  if want = clampRate want then setFlag h aTimDiscStatus 2 false
  else raise (setFlag (setFlag h aTimDiscStatus 2 true) aTimDiscStatus 0 false) 0x01 4 0 0

/-- DISCIPLINE_WINDOW: the end of a window of 2^WINDOW tick edges in input mode. The first full window after a holdover
ends it without a correction (R57). -/
def disciplineWindow (offset : Int) (present : Bool) (h : Hub) : Hub :=
  if !flag h aTimTime1Cfg 0 || decide (edgesSince h h.tim.windowStart < 2 ^ fld h aTimTime1Cfg 4 4) then h
  else
    let h := { h with tim := { h.tim with windowStart := h.tim.edges } }
    if !present then h
    else if flag h aTimDiscStatus 1 then setFlag h aTimDiscStatus 1 false
    else measure h offset

def execDisciplineWindow (offset : Int) (present : Bool) (s : State) : Ans := s.act (disciplineWindow offset present)

/-- TIME1_HOLDOVER: no input edge for 1 µs (R57). Each loss raises TIME1_HOLDOVER, also while HOLDOVER is still set (DESIGN CHOICE,
notes/assumptions/131.md). -/
def time1Holdover (h : Hub) : Hub :=
  if !flag h aTimTime1Cfg 0 then h
  else
    let h := setFlag (setFlag h aTimDiscStatus 1 true) aTimDiscStatus 0 false
    raise { h with tim := { h.tim with inRange := 0 } } 0x01 3 0 0

def execTime1Holdover (s : State) : Ans := s.act time1Holdover

/-! ### Grandmaster (R58-R60) -/

/-- Is PTP running on an Ethernet port: present, enabled, with a clockIdentity (R58, R60)? -/
def ptpOn (h : Hub) (e : Nat) : Bool :=
  decide (e < h.part.res.eth) && flag h aTimPtpCfg e && decide (rd64 h aTimPtpIdLo ≠ 0)

/-- Hub time plus TIM_PTP_EPOCH as seconds, nanoseconds and fraction (R59). -/
def ptpStamp (h : Hub) : Nat × Nat × Nat :=
  let t := hubNs h + rd64 h aTimPtpEpochLo
  (t / 1000000000, t % 1000000000, hubFx h % 65536)

/-- A PTP frame to 01-1B-19-00-00-00 with EtherType 0x88F7 (R58). -/
def sendPtp (h : Hub) (e : Nat) (m : PtpMsg) : Hub :=
  send h (.ptp e 0x011B19000000 0x88F7 (rd64 h aTimPtpIdLo) (fld h aTimPtpCfg 16 8) m)

/-- 2^log s in units of 2^-16 ns, log a signed field of four bits (R60). -/
def ptpInterval (log : Nat) : Nat := 10 ^ 9 * 2 ^ 16 * 2 ^ (signed log 4 + 8).toNat / 2 ^ 8

/-- The start of the interval that hub time now begins, none while the last one still runs. The first message starts the intervals. -/
def ptpDue (h : Hub) (log : Nat) (last : Option Int) : Option Int :=
  match last with
  | none => some (hubFx h)
  | some x =>
    let gone : Int := (hubFx h : Int) - x
    if gone < ptpInterval log then none else some (x + gone / ptpInterval log * ptpInterval log)

/-- SYNC: Sync and Follow_Up on every running port, every 2^SYNC_LOG s of hub time (R58, R60). -/
def ptpSync (t : Nat) (h : Hub) : Hub :=
  let h := atClk h t
  match ptpDue h (fld h aTimPtpCfg 8 4) h.tim.syncAt with
  | none => h
  | some x =>
  let h := { h with tim := { h.tim with syncAt := some x } }
  (List.range 4).foldl (fun h e =>
    if ptpOn h e then
      let q := (tget 0 h.tim.syncSeq e).toNat
      let st := ptpStamp h
      let h := sendPtp (sendPtp h e (.sync q)) e (.followUp q st.1 st.2.1 st.2.2)
      { h with tim := { h.tim with syncSeq := tset 0 h.tim.syncSeq e (BitVec.ofNat 16 (q + 1)) } }
    else h) h

def execSync (t : Nat) (s : State) : Ans := s.act (ptpSync t)

/-- ANNOUNCE, every 2^ANNOUNCE_LOG s of hub time (R59, R60). -/
def ptpAnnounce (t : Nat) (h : Hub) : Hub :=
  let h := atClk h t
  match ptpDue h (fld h aTimPtpCfg 12 4) h.tim.annAt with
  | none => h
  | some x =>
  let h := { h with tim := { h.tim with annAt := some x } }
  (List.range 4).foldl (fun h e =>
    if ptpOn h e then
      let q := (tget 0 h.tim.annSeq e).toNat
      let h := sendPtp h e (.announce q (fld h aTimPtpClock 0 8) (fld h aTimPtpClock 8 8) (fld h aTimPtpClock 16 8)
        (fld h aTimPtpClock 24 8) 0xA0 (flag h aTimPtpCfg 24) (fld h aTimPtpUtc 0 16))
      { h with tim := { h.tim with annSeq := tset 0 h.tim.annSeq e (BitVec.ofNat 16 (q + 1)) } }
    else h) h

def execAnnounce (t : Nat) (s : State) : Ans := s.act (ptpAnnounce t)

/-- DELAY_REQ: answered by Delay_Resp with the receive time (R58, R59). -/
def ptpDelayReq (e : Nat) (seq : BitVec 16) (requester : BitVec 80) (t : Nat) (h : Hub) : Hub :=
  let h := atClk h t
  if ptpOn h e then
    let st := ptpStamp h
    sendPtp h e (.delayResp seq.toNat st.1 st.2.1 st.2.2 requester)
  else h

def execDelayReq (e : Fin 4) (seq : BitVec 16) (requester : BitVec 80) (t : Nat) (s : State) : Ans :=
  s.act (ptpDelayReq e.val seq requester t)

/-- FOREIGN_ANNOUNCE: an Announce of another clock sets PTP_FOREIGN_MASTER and nothing else (R58). -/
def foreignAnnounce (e : Nat) (identity : BitVec 64) (h : Hub) : Hub :=
  if decide (e < h.part.res.eth) && flag h aTimPtpCfg e && decide (identity.toNat ≠ rd64 h aTimPtpIdLo) then
    raise h 0x01 5 0 0
  else h

def execForeignAnnounce (e : Fin 4) (identity : BitVec 64) (s : State) : Ans := s.act (foreignAnnounce e.val identity)

/-- PTP_DISCARD: an unsupported PTP frame is discarded and counted (R58). -/
def ptpDiscard (e : Nat) (h : Hub) : Hub :=
  if decide (e < h.part.res.eth) && flag h aTimPtpCfg e then
    { h with tim := { h.tim with ptpDiscards := tmod 0 h.tim.ptpDiscards e (· + 1) } }
  else h

def execPtpDiscard (e : Fin 4) (s : State) : Ans := s.act (ptpDiscard e.val)

/-! ### Audio clock feedback (R63) -/

/-- AUDIO_FEEDBACK: the value of the service interval that closes, m = 2^INTERVAL microframes. -/
def audioFeedback (n : Nat) (h : Hub) : Hub :=
  let m := 2 ^ fld h (aTimAudCfg n) 24 2
  let a := tget ⟨0, 0⟩ h.tim.aud n
  if !flag h (aTimAudCfg n) 31 || decide (edgesSince h a.from_ < m) then h
  else
    let acc := a.acc + fld h (aTimAudCfg n) 0 20 * (125000 * m) * 65536
    let h := wr h (aTimAudValue n) (W (acc / 1000000000))
    { h with tim := { h.tim with aud := tset ⟨0, 0⟩ h.tim.aud n ⟨acc % 1000000000, a.from_ + m⟩ } }

def execAudioFeedback (n : Fin 8) (s : State) : Ans := s.act (audioFeedback n.val)

/-! ### Checks at staging (R64) -/

/-- Would a timebase record hold a value outside its range, given the configuration it stages over (R64)? -/
def timRecordBad (h : Hub) (regs : Tab Word) (a : Nat) (v : Nat) : Bool :=
  if a = aTimTime1Cfg then decide (bitsOf v 4 4 < 6) || decide (14 < bitsOf v 4 4)
  else if a = aTimTpCfg 0 ∨ a = aTimTpCfg 1 then decide (4 ≤ bitsOf v 0 3)
  else if a = aTimPtpCfg then
    decide (127 < bitsOf v 16 8) || decide (signed (bitsOf v 12 4) 4 < -3) || decide (4 < signed (bitsOf v 12 4) 4) ||
      decide (signed (bitsOf v 8 4) 4 < -7) || decide (1 < signed (bitsOf v 8 4) 4)
  else if aTimAudCfg 0 ≤ a ∧ a ≤ aTimAudCfg 7 then
    bitOf v 31 && (decide (bitsOf v 0 20 < 8000) || decide (768000 < bitsOf v 0 20))
  else if aTimFrPeriodLo 0 ≤ a ∧ a < aTimFrPeriodLo 8 ∧ (a - aTimFrPeriodLo 0) % 0x20 = 0x10 then
    let n := (a - aTimFrPeriodLo 0) / 0x20
    let p := cfg h regs (aTimFrPeriodLo n) + bitsOf (cfg h regs (aTimFrPeriodHi n)) 0 16 * 2 ^ 32
    bitOf v 0 && (decide (p < 1000000 * 65536) || decide (1000000000 * 65536 < p))
  else false

end Sys2Proof.Machine
end

