-- ==== Sys2Proof/Machine/Links.lean ====
section
/-!
DEFINITION. What the data path shares: trunk link records, packet headers (R152), the VC of a packet (R156), docks, tunnel
ends and the management of packet lists.
-/
namespace Sys2Proof.Machine

def trk (h : Hub) (n : Nat) : TrkSt := tget TrkSt.idle h.trk n

def setTrk (h : Hub) (n : Nat) (t : TrkSt) : Hub := { h with trk := tset TrkSt.idle h.trk n t }

def modTrk (h : Hub) (n : Nat) (f : TrkSt → TrkSt) : Hub := setTrk h n (f (trk h n))

/-- State code of a trunk (R164). -/
def trkState (h : Hub) (n : Nat) : Nat := fld h (aTrkStatus n) 0 4

/-- The stripe set of a trunk. -/
def stripeSet (h : Hub) (n : Nat) : Nat := fld h (aTrkStatus n) 8 4

/-! ### Packets (R152, R156) -/

/-- Is a packet's VC the one of its type and, for PCIe, of its KIND (R156, R227)? A KIND that R227 does not list may come on
any PCIe channel and is counted by the tunnel engine. -/
def vcOk (type kind vc : Nat) : Bool :=
  match type with
  | 0 => vc = 0
  | 1 => if kind ≤ 2 then vc = kind + 1 else decide (1 ≤ vc) && decide (vc ≤ 3)
  | 2 => vc = 4
  | 3 => vc = 5
  | 4 => vc = 7
  | 5 => vc = 6
  | _ => false

/-- The VC that the hub uses for a type and KIND (R156). -/
def vcFor (type kind : Nat) : Nat :=
  match type with
  | 1 => kind % 3 + 1
  | 2 => 4
  | 3 => 5
  | 4 => 7
  | 5 => 6
  | _ => 0

/-- Bytes of units in line order. -/
def unitBytes (us : List Word64) : List Byte :=
  us.flatMap (fun u => (List.range 8).map (fun i => BitVec.ofNat 8 (bitsOf u.toNat (56 - 8 * i) 8)))

/-- Units of bytes, the last one padded with zero bytes (R153). -/
def bytesUnits : Nat → List Byte → List Word64
  | 0, _ => []
  | _, [] => []
  | n + 1, bs =>
    let b := bs.take 8
    let v := (b ++ List.replicate (8 - b.length) (0 : Byte)).foldl (fun (a : Nat) (x : Byte) => a * 256 + x.toNat) 0
    BitVec.ofNat 64 v :: bytesUnits n (bs.drop 8)

/-- The header in two units (R152). -/
def parseHdr (u0 u1 : Word64) : Hdr :=
  let v := u0.toNat * 2 ^ 64 + u1.toNat
  { type := BitVec.ofNat 4 (bitsOf v 124 4), tid := BitVec.ofNat 12 (bitsOf v 112 12), vc := BitVec.ofNat 3 (bitsOf v 109 3),
    keyEn := bitOf v 108, kslot := BitVec.ofNat 10 (bitsOf v 98 10), kind := BitVec.ofNat 4 (bitsOf v 84 4),
    tag := BitVec.ofNat 12 (bitsOf v 72 12), flow := BitVec.ofNat 16 (bitsOf v 56 16), dev := BitVec.ofNat 10 (bitsOf v 46 10),
    mark := bitOf v 45, red := bitOf v 44, rsv := BitVec.ofNat 4 (bitsOf v 40 4), pn := BitVec.ofNat 40 (bitsOf v 0 40) }

/-- A header and a payload length as 128 bits (R152). -/
def hdrValue (x : Hdr) (len : Nat) : Nat :=
  x.type.toNat * 2 ^ 124 + x.tid.toNat * 2 ^ 112 + x.vc.toNat * 2 ^ 109 + (if x.keyEn then 2 ^ 108 else 0) +
    x.kslot.toNat * 2 ^ 98 + len % 1024 * 2 ^ 88 + x.kind.toNat * 2 ^ 84 + x.tag.toNat * 2 ^ 72 + x.flow.toNat * 2 ^ 56 +
    x.dev.toNat * 2 ^ 46 + (if x.mark then 2 ^ 45 else 0) + (if x.red then 2 ^ 44 else 0) + x.rsv.toNat * 2 ^ 40 + x.pn.toNat

/-! ### Docks -/

/-- STATE of a dock (R375). -/
def dockState (h : Hub) (d : Nat) : Nat := fld h (aVdkStatus d) 0 3

def setDockState (h : Hub) (d st : Nat) : Hub := setFld h (aVdkStatus d) 0 3 st

/-- Frozen for racking (R375). -/
def dockFrozen (h : Hub) (d : Nat) : Bool := decide (2 ≤ dockState h d) && decide (dockState h d ≤ 4)

/-- Are a dock's ingress gates closed (R375, R386)? -/
def gatesClosed (h : Hub) (d : Nat) : Bool := decide (2 ≤ dockState h d)

/-- The trunk mask of a dock in a configuration. -/
def maskIn (h : Hub) (regs : Tab Word) (d : Nat) : Nat := cfld h regs (aVdkCfg d) 0 8

/-- Is a dock created in a configuration? -/
def createdIn (h : Hub) (regs : Tab Word) (d : Nat) : Bool := bitOf (cfg h regs (aVdkCfg d)) 31

def dockMask (h : Hub) (d : Nat) : Nat := fld h (aVdkCfg d) 0 8

def dockCreated (h : Hub) (d : Nat) : Bool := flag h (aVdkCfg d) 31

/-- The lowest member of a trunk mask; 8 for none. -/
def lowest (mask : Nat) : Nat := ((bitsSet 8 mask).head?).getD 8

/-- The created docks. -/
def createdDocks (h : Hub) : List Nat := (List.range 64).filter (dockCreated h)

/-! ### Tunnel ends (R214-R217) -/

/-- A number for an end. -/
def endKey (sp tid : Nat) : Nat := sp * 4096 + tid

/-- An opened end by its word 0. -/
structure EndInfo where
  sp : Nat
  tid : Nat
  type : Nat
  dock : Nat
  cls : Nat
  keyEn : Bool
  kslot : Nat
deriving DecidableEq, Repr

/-- An end from its word. -/
def endInfo (sp tid w : Nat) : EndInfo :=
  ⟨sp, tid, bitsOf w 24 4, bitsOf w 16 6, bitsOf w 28 3, bitOf w 15, bitsOf w 0 10⟩

/-- The opened end of a switch port and tunnel ID in a configuration. -/
def endIn (h : Hub) (regs : Tab Word) (sp tid : Nat) : Option EndInfo :=
  let w := cfg h regs (aTunT sp tid)
  if bitOf w 31 then some (endInfo sp tid w) else none

def endAt (h : Hub) (sp tid : Nat) : Option EndInfo := endIn h h.regs sp tid

/-- All opened ends of a configuration. -/
def endsIn (regs : Tab Word) : List EndInfo :=
  regs.filterMap (fun e =>
    if 0x510000 ≤ e.1 ∧ e.1 < 0x5D0000 ∧ e.1 % 8 = 0 ∧ bitOf e.2.toNat 31 then
      some (endInfo ((e.1 - 0x510000) / 0x8000) ((e.1 - 0x510000) % 0x8000 / 8) e.2.toNat)
    else none)

/-- Trunks on which a dock's packets are accepted: its mask, and the old mask while its fence runs (R217, R381). -/
def acceptMask (h : Hub) (d : Nat) : Nat :=
  dockMask h d ||| (match tfind h.swc.fences d with
    | some f => f.oldMask
    | none => 0)

/-- The entry that a packet arriving with a TID at a switch port finds: its own end, a moved end within its grace (R224), or
the end of a group at the lowest member (R217). -/
def resolveEnd (h : Hub) (sp tid : Nat) : Option EndInfo :=
  match endAt h sp tid with
  | some e => some e
  | none =>
    if 8 ≤ sp then none
    else match h.tun.moves.find? (fun m => decide (m.from_ = sp) && decide (m.tid = tid) && !m.graceOver) with
      | some m => endAt h m.dst tid
      | none =>
        ((List.range 8).filterMap (fun m => endAt h m tid)).find? (fun e =>
          decide (lowest (dockMask h e.dock) = e.sp) && bitOf (acceptMask h e.dock) sp)

/-- The route of an end (R218, R222). -/
def routeOf (h : Hub) (sp tid : Nat) : Option (Nat × Nat) :=
  if flag h (aTunR sp tid) 31 then some (fld h (aTunR sp tid) 24 5, fld h (aTunR sp tid) 0 12) else none

/-- The end to which an end's route leads. -/
def routeEnd (h : Hub) (sp tid : Nat) : Option EndInfo :=
  match routeOf h sp tid with
  | some (esp, etid) => if esp < 24 then resolveEnd h esp etid else none
  | none => none

/-- The dock's end of a type on its trunks in a configuration (R216: at most one PCIe, USB and time end per group). -/
def trunkEndIn (regs : Tab Word) (d type : Nat) : Option EndInfo :=
  (endsIn regs).find? (fun e => decide (e.sp < 8) && decide (e.dock = d) && decide (e.type = type))

def trunkEnd (h : Hub) (d type : Nat) : Option EndInfo := trunkEndIn h.regs d type

/-- The end of a type at a port other than a trunk. -/
def portEnd (h : Hub) (sp : Nat) : Option EndInfo := (endsIn h.regs).find? (fun e => decide (e.sp = sp))

/-- The dock's end on a port. -/
def portEndOf (h : Hub) (sp d : Nat) : Option EndInfo :=
  (endsIn h.regs).find? (fun e => decide (e.sp = sp) && decide (e.dock = d))

/-- Is some member trunk of a dock ACTIVE or in IDLE? -/
def hostReachable (h : Hub) (d : Nat) : Bool :=
  (bitsSet 8 (dockMask h d)).any (fun n => decide (trkState h n = 7) || decide (trkState h n = 9))

/-- Remove the first entry of a list that a predicate takes. -/
def dropFirst {α : Type} (p : α → Bool) : List α → List α
  | [] => []
  | a :: l => if p a then l else a :: dropFirst p l

end Sys2Proof.Machine
end

