-- ==== Sys2Proof/Machine/Cellar.lean ====
section
/-!
DEFINITION. The cellar and hub memory addresses (R68, R439-R444): reads and writes of bytes, the channel map, holes and
poisoned lines.
-/
namespace Sys2Proof.Machine

/-- One byte of the cellar. -/
def cellarByte (m : Mem) (a : Nat) : Byte := tget 0 m.cellar a

/-- Write one byte of the cellar; writing 0 unlists it. -/
def setCellarByte (m : Mem) (a : Nat) (b : Byte) : Mem := { m with cellar := tset 0 m.cellar a b }

/-- Bytes of the cellar from an address. -/
def cellarBytes (m : Mem) (a len : Nat) : List Byte := (List.range len).map (fun i => cellarByte m (a + i))

/-- Does a range meet an unreadable line? -/
def rangeBad (h : Hub) (a len : Nat) : Bool := (linesOf a len).any (fun l => lineBad h (l * 64))

/-- Reads of poisoned lines and holes count in MEM_CHc_CNT_POISON_RD (R441). -/
def countPoison (h : Hub) (a len : Nat) : Hub :=
  (linesOf a len).foldl (fun h l =>
    if lineBad h (l * 64) then count h (aMemChCntPoisonRd (chanOf h (l * 64))) 1 else h) h

/-- Write bytes to the cellar: holes discard them (R444). -/
def writeCellar (m : Mem) (h : Hub) (a : Nat) : List Byte → Mem
  | [] => m
  | b :: bs => writeCellar (if isHole h a then m else setCellarByte m a b) h (a + 1) bs

/-- A write of a whole line lifts its poison (R441). -/
def unpoison (h : Hub) (a len : Nat) : Hub :=
  { h with mst := { h.mst with poison := h.mst.poison.filter (fun e => !(decide (a ≤ e.1 * 64) && decide (e.1 * 64 + 64 ≤ a + len))) } }

/-- Is a hub memory address on the bus of a management port (R68)? -/
def onBus (a : Nat) : Bool := decide (2 ^ 63 ≤ a)

/-- A user of the cellar's bandwidth reads or writes 64-byte units: telemetry counts them (R453), and the user asks for them of the
tick (R448). Users bear the numbers of MEM_BW_USEk: 0 Harvester, 1 display, 2 spill, 3 surface, 4 copy, 5 fallback, 6 scrub. -/
def moved (h : Hub) (user : Nat) (write : Bool) (units : Nat) : Hub :=
  let h := tally h 0x90 (if write then 0x0901 else 0x0900) units none
  { h with mst := { h.mst with bwAsk := tset 0 h.mst.bwAsk user (tget 0 h.mst.bwAsk user + 64 * units) } }

/-- The bandwidth partition within a tick: bytes of capacity left, bytes asked and served by user, and the user whose rotating grant is
next (R448). -/
structure BwTick where
  cap : Nat
  ask : Tab Nat
  served : Tab Nat
  turn : Nat
deriving DecidableEq, Repr

/-- A user is served up to a limit. -/
def bwServe (x : BwTick) (user lim : Nat) : BwTick :=
  let b := min (min lim (tget 0 x.ask user)) x.cap
  { x with cap := x.cap - b, ask := tset 0 x.ask user (tget 0 x.ask user - b), served := tset 0 x.served user (tget 0 x.served user + b) }

/-- The remainder goes in rotating grants of 2 KiB to the users 1 to 4 with demand (R448); the fuel is the number of grants they can
ask for. -/
def bwGrants : Nat → BwTick → BwTick
  | 0, x => x
  | n + 1, x =>
    if x.cap = 0 then x
    else match ((List.range 4).map (fun i => (x.turn - 1 + i) % 4 + 1)).find? (fun u => decide (tget 0 x.ask u ≠ 0)) with
      | some u => bwGrants n { (bwServe x u 2048) with turn := u % 4 + 1 }
      | none => x

/-- The service of the tick that ends, in the order of R448: fallback, Harvester, the four reserves, the remainder, the scrub. A reserve
of r units is 12,500 × r bytes; what is not served is asked for again in the next tick. MEM_BW_USEk takes the 64-byte units
served. -/
def serveTick (h : Hub) : Hub :=
  let r := fun (a lo : Nat) => fld h a lo 16 * 12500
  let cap := fld h aMemCapacity 0 16 * 12500
  let x := bwServe (bwServe ⟨cap, h.mst.bwAsk, [], h.mst.bwTurn⟩ 5 cap) 0 262144
  let x := bwServe (bwServe (bwServe (bwServe x 1 (r aDspCfg 0)) 2 (r aMemBwCfg0 0)) 3 (r aMemBwCfg0 16)) 4 (r aMemBwCfg1 0)
  let fuel := [1, 2, 3, 4].foldl (fun n u => n + (tget 0 x.ask u + 2047) / 2048) 0
  let x := bwServe (bwGrants fuel x) 6 cap
  let h := (List.range 7).foldl (fun h k => wr h (aMemBwUse k) (W (min 0xFFFFFFFF (tget 0 x.served k / 64)))) h
  { h with mst := { h.mst with bwAsk := x.ask, bwTurn := x.turn } }

/-- Does a range meet the fallback copy of a dual-port bank, whose bytes are those of the bank (notes/assumptions/147.md)? -/
def meetsFallback (h : Hub) (a len : Nat) : Bool :=
  (List.range 16).any (fun k => match fallbackAt h k with
    | some b => decide (a < b + 65536) && decide (b < a + len)
    | none => false)

/-- Fresh free bytes. -/
def freeBytes : Nat → Hub → Hub × List Byte
  | 0, h => (h, [])
  | n + 1, h =>
    let r := freeBytes n { h with free := h.free + 1 }
    (r.1, (Config.freeValue h.free).setWidth 8 :: r.2)

/-- Read hub memory: bytes behind a management port are the outside's, hence free (notes/assumptions/3.md). The flag says
whether every line could be read; cellar lines are moved for the copy channels (R448, R453). -/
def readHub (m : Mem) (h : Hub) (a len : Nat) : Hub × List Byte × Bool :=
  if onBus a then ((freeBytes len h).1, (freeBytes len h).2, true)
  else
    let g := moved (countPoison h a len) 4 false (linesOf a len).length
    if meetsFallback h a len then ((freeBytes len g).1, (freeBytes len g).2, !rangeBad h a len)
    else (g, cellarBytes m a len, !rangeBad h a len)

/-- Write hub memory for a port. -/
def writeHub (m : Mem) (h : Hub) (p : Port) (a : Nat) (bs : List Byte) : Mem × Hub :=
  if onBus a then (m, send h (.bus p (a - 2 ^ 63) bs))
  else (writeCellar m h a bs, moved (unpoison h a bs.length) 4 true (linesOf a bs.length).length)

/-- Is the cellar initialised (R446)? -/
def cellarReady (h : Hub) : Bool := flag h aMemCellarStatus 31

end Sys2Proof.Machine
end

