-- ==== Sys2Proof/Machine/Compositor.lean ====
section
/-!
DEFINITION. Composition of a picture (R337-R340, R348): the layers of an output, the stages each pixel passes, and the CRC
of a check window.
-/
namespace Sys2Proof.Machine

/-- Values of registers by address: the active ones of scan-out, or those of a configuration. -/
abbrev Look := Nat → Nat

/-- What scan-out uses of a register: the active copy (R345). -/
def active (h : Hub) (a : Nat) : Nat :=
  (match tfind h.dsp.held a with
    | some v => v
    | none => rd h a).toNat

/-- A layer by its records (R337, R338); the destination position is signed for a cursor. -/
structure Layer where
  en : Bool
  owned : Bool
  dock : Nat
  fmt : Nat
  cursor : Bool
  alphaEn : Bool
  alpha : Nat
  addr : Nat
  stride : Nat
  sx : Nat
  sy : Nat
  sw : Nat
  sh : Nat
  dx : Int
  dy : Int
  dw : Nat
  dh : Nat
  uv : Nat
deriving DecidableEq, Repr

/-- Layer k of output o. -/
def layerAt (g : Look) (o k : Nat) : Layer :=
  let c := g (aDspLayerCtl o k)
  let pos := g (aDspLayerDstXy o k)
  let cur := bitOf c 16
  let at_ := fun (v : Nat) => if cur then signed v 16 else (v : Int)
  { en := bitOf c 0, owned := bitOf c 31, dock := bitsOf c 24 6, fmt := bitsOf c 1 3, cursor := cur, alphaEn := bitOf c 17,
    alpha := bitsOf c 8 8, addr := g (aDspLayerAddrLo o k) + g (aDspLayerAddrHi o k) * 2 ^ 32, stride := g (aDspLayerStride o k),
    sx := bitsOf (g (aDspLayerSrcXy o k)) 0 16, sy := bitsOf (g (aDspLayerSrcXy o k)) 16 16,
    sw := bitsOf (g (aDspLayerSrcWh o k)) 0 16, sh := bitsOf (g (aDspLayerSrcWh o k)) 16 16,
    dx := at_ (bitsOf pos 0 16), dy := at_ (bitsOf pos 16 16),
    dw := bitsOf (g (aDspLayerDstWh o k)) 0 16, dh := bitsOf (g (aDspLayerDstWh o k)) 16 16, uv := g (aDspLayerUvOffset o k) }

/-- Bytes per pixel of a format, averaged for FORMAT 3 (R337). -/
def fmtBytes (f : Nat) : Nat :=
  match f with
  | 0 => 4
  | 1 => 4
  | 2 => 8
  | _ => 3

/-- Bytes per source line, Lb (R340). -/
def lineBytes (l : Layer) : Nat := fmtBytes l.fmt * l.sw

/-- Vertical taps: the largest of 8, 4 and 2 that fits the line store (R340). -/
def vTaps (l : Layer) : Option Nat :=
  [8, 4, 2].find? (fun t => decide ((t + 2) * lineBytes l ≤ 131072))

/-! ### Stages of a pixel (R339) -/

/-- Division of naturals rounded half to even. -/
def roundHalfEven (n d : Nat) : Nat :=
  let q := n / d
  let r := n % d
  if 2 * r < d then q else if d < 2 * r then q + 1 else if q % 2 = 0 then q else q + 1

/-- Unpack a binary16 component, clamped to the unit range. -/
def unpackHalf (v : Nat) : Nat :=
  let e := bitsOf v 10 5
  let m := bitsOf v 0 10
  if e = 31 ∧ m ≠ 0 then (Config.nanComponent (BitVec.ofNat 16 v)).toNat
  else if bitOf v 15 then 0
  else if 15 ≤ e then 65535
  else if e = 0 then roundHalfEven (m * 65535) (2 ^ 24)
  else roundHalfEven ((1024 + m) * 65535) (2 ^ (25 - e))

def x8 (v : Nat) : Nat := v * 257
def x10 (v : Nat) : Nat := v * 64 + v / 16

/-- A little-endian value of bytes in the cellar. -/
def cellarNat (m : Mem) (a n : Nat) : Nat := leNat (cellarBytes m a n)

/-- Stages 1 and 2: three colour inputs and alpha of a source pixel. -/
def sourcePixel (m : Mem) (l : Layer) (x y : Nat) : List Nat :=
  let one := fun (a : Nat) => if l.alphaEn then a else 65535
  match l.fmt with
  | 0 =>
    let v := cellarNat m (l.addr + y * l.stride + x * 4) 4
    [x8 (bitsOf v 16 8), x8 (bitsOf v 8 8), x8 (bitsOf v 0 8), one (x8 (bitsOf v 24 8))]
  | 1 =>
    let v := cellarNat m (l.addr + y * l.stride + x * 4) 4
    [x10 (bitsOf v 20 10), x10 (bitsOf v 10 10), x10 (bitsOf v 0 10), one (bitsOf v 30 2 * 21845)]
  | 2 =>
    let v := cellarNat m (l.addr + y * l.stride + x * 8) 8
    [unpackHalf (bitsOf v 0 16), unpackHalf (bitsOf v 16 16), unpackHalf (bitsOf v 32 16), one (unpackHalf (bitsOf v 48 16))]
  | _ =>
    let yv := cellarNat m (l.addr + y * l.stride + x * 2) 2
    let c := cellarNat m (l.addr + l.uv + y / 2 * l.stride + x / 2 * 4) 4
    [x10 (bitsOf yv 6 10), x10 (bitsOf c 6 10), x10 (bitsOf c 22 10), 65535]

/-- The colour matrix of a layer: nine coefficients in S3.12 by rows, then three offsets. -/
def matrixOf (g : Look) (o k : Nat) : List Int :=
  let w := fun (a hi : Nat) => signed (bitsOf (g a) (16 * hi) 16) 16
  [w (aDspLayerCsc0 o k) 0, w (aDspLayerCsc0 o k) 1, w (aDspLayerCsc1 o k) 0, w (aDspLayerCsc1 o k) 1,
   w (aDspLayerCsc2 o k) 0, w (aDspLayerCsc2 o k) 1, w (aDspLayerCsc3 o k) 0, w (aDspLayerCsc3 o k) 1,
   w (aDspLayerCsc4 o k) 0, w (aDspLayerCsc4 o k) 1, w (aDspLayerCsc5 o k) 0, w (aDspLayerCsc5 o k) 1]

def clamp16 (i : Int) : Nat := (max 0 (min 65535 i)).toNat

/-- Stage 3: the matrix; alpha passes. -/
def applyMatrix (mx : List Int) (p : List Nat) : List Nat :=
  let row := fun (i : Nat) => clamp16
    ((((List.range 3).foldl (fun (a : Int) j => a + (mx[3 * i + j]?.getD 0) * ((p[j]?.getD 0 : Nat) + (mx[9 + j]?.getD 0))) 0) + 2048) / 4096)
  [row 0, row 1, row 2, p[3]?.getD 0]

/-- Tap t of a phase in a scaling table whose words start at `base` (R350). -/
def coefAt (g : Look) (base ph t : Nat) : Int :=
  signed (bitsOf (g (base + ph * 16 + t / 2 * 4)) (16 * (t % 2)) 12) 12

/-- The coefficients with the outer taps folded in for T taps (R340). -/
def foldTaps (c : Nat → Int) (taps t : Nat) : Int :=
  match taps with
  | 8 => c t
  | 4 => if t < 2 ∨ 5 < t then 0 else if t = 2 then c 0 + c 1 + c 2 else if t = 5 then c 5 + c 6 + c 7 else c t
  | _ => if t = 3 then c 0 + c 1 + c 2 + c 3 else if t = 4 then c 4 + c 5 + c 6 + c 7 else 0

/-- One axis of stage 4: source start s, size n, destination size d, index i (R340). -/
def scaleAxis (c : Nat → Nat → Int) (taps s n d i : Nat) (pix : Nat → Nat) : Nat :=
  let step := n * 65536 / d
  if step = 65536 then pix (s + i)
  else
    let pos : Int := (s * 65536 + i * step + step / 2 : Nat) - 32768
    let ip := pos / 65536
    let ph := (pos / 1024 % 64).toNat
    let at_ := fun (t : Nat) => (max (s : Int) (min ((s + n - 1 : Nat) : Int) (ip - 3 + t))).toNat
    let acc := (List.range 8).foldl (fun (a : Int) t => a + foldTaps (c ph) taps t * (pix (at_ t) : Nat)) 0
    clamp16 ((acc + 512) / 1024)

/-- Stages 1 to 4 of layer k at a place of its destination: vertical, then horizontal. -/
def layerPixel (m : Mem) (g : Look) (o : Nat) (l : Layer) (mx : List Int) (i j : Nat) : List Nat :=
  let src := fun (x y : Nat) => applyMatrix mx (sourcePixel m l x y)
  (List.range 4).map (fun c =>
    scaleAxis (coefAt g (aDspCoefH o 0 0)) 8 l.sx l.sw l.dw i (fun x =>
      scaleAxis (coefAt g (aDspCoefV o 0 0)) ((vTaps l).getD 8) l.sy l.sh l.dh j (fun y => (src x y)[c]?.getD 0)))

/-- Stages 5 and 6: plane alpha and the blend over what lies below. -/
def blend (alpha : Nat) (p dst : List Nat) : List Nat :=
  let pa := fun (v : Nat) => (v * alpha + 127) / 255
  let a := pa (p[3]?.getD 0)
  (List.range 3).map (fun c => min 65535 (pa (p[c]?.getD 0) + ((dst[c]?.getD 0) * (65535 - a) + 32767) / 65535))

/-- The source places one axis of stage 4 reads for index i (R340). -/
def axisTaps (taps s n d i : Nat) : List Nat :=
  let step := n * 65536 / d
  if step = 65536 then [s + i]
  else
    let ip := ((s * 65536 + i * step + step / 2 : Nat) - 32768 : Int) / 65536
    ((List.range 8).filter (fun t => decide (8 - taps ≤ 2 * t) && decide (2 * t < 8 + taps))).map (fun (t : Nat) =>
      (max (s : Int) (min ((s + n - 1 : Nat) : Int) (ip - 3 + t))).toNat)

/-- The cellar lines of a source pixel: one plane, or luma and chroma (R337). -/
def pixelLines (l : Layer) (x y : Nat) : List Nat :=
  match l.fmt with
  | 3 => linesOf (l.addr + y * l.stride + x * 2) 2 ++ linesOf (l.addr + l.uv + y / 2 * l.stride + x / 2 * 4) 4
  | f => linesOf (l.addr + y * l.stride + x * fmtBytes f) (fmtBytes f)

/-- Active pixels of a line, and lines. -/
def hActive (g : Look) (o : Nat) : Nat := bitsOf (g (aDspH0 o)) 0 16
def vActive (g : Look) (o : Nat) : Nat := bitsOf (g (aDspV0 o)) 0 16

/-- Does a layer cover a pixel of the active area, not yet transparent by an underrun (R338, R347)? -/
def covers (h : Hub) (o k : Nat) (l : Layer) (x y : Nat) : Bool :=
  l.en && decide (l.dx ≤ x) && decide ((x : Int) < l.dx + l.dw) && decide (l.dy ≤ y) && decide ((y : Int) < l.dy + l.dh) &&
    (match tfind h.dsp.cut (o * 8 + k) with
      | some p => decide (y * hActive (active h) o + x < p)
      | none => true)

/-- The first pixel of the frame, in raster order, whose source data lie in a line that cannot be read, and that line (R347, R441,
R444). -/
def firstBad (h : Hub) (o : Nat) (l : Layer) : Option (Nat × Nat) :=
  let g := active h
  (List.range l.dh).findSome? (fun (j : Nat) =>
    let y := l.dy + j
    if y < 0 ∨ vActive g o ≤ y then none
    else
      let rows := axisTaps ((vTaps l).getD 8) l.sy l.sh l.dh j
      (List.range l.dw).findSome? (fun (i : Nat) =>
        let x := l.dx + i
        if x < 0 ∨ hActive g o ≤ x then none
        else
          (((axisTaps 8 l.sx l.sw l.dw i).flatMap (fun sx => rows.flatMap (fun sy => pixelLines l sx sy))).find?
            (fun n => lineBad h (n * 64))).map (fun n => ((y * hActive g o + x).toNat, n))))

/-- The background expanded to 16 bits. -/
def background (g : Look) (o : Nat) : List Nat :=
  let b := g (aDspBg o)
  [x10 (bitsOf b 20 10), x10 (bitsOf b 10 10), x10 (bitsOf b 0 10)]

/-- The composed pixel of an output after stage 7 (R339); the background alone in the safe state (R349). -/
def composed (m : Mem) (h : Hub) (o x y : Nat) : List Nat :=
  let g := active h
  let px := if tget false h.dsp.safe o then background g o
    else (List.range 8).foldl (fun dst k =>
      let l := layerAt g o k
      if covers h o k l x y then
        blend l.alpha (layerPixel m g o l (matrixOf g o k) (x - l.dx).toNat (y - l.dy).toNat) dst
      else dst) (background g o)
  let bpc := if bitOf (g (aDspTctl o)) 8 then 10 else 8
  px.map (fun v => (v * (2 ^ bpc - 1) + 32767) / 65535)

/-- The bytes a pixel adds to a check (R348). -/
def pixelBytes (ten : Bool) (p : List Nat) : List Nat :=
  if ten then p.flatMap (fun v => [v % 256, v / 256]) else p

/-- The CRC of check window w, over the surfaces as they stand (R348). -/
def checkCrc (m : Mem) (h : Hub) (o w : Nat) : Nat :=
  let g := active h
  let xy := g (aDspChkXy o w)
  let wh := g (aDspChkWh o w)
  let ten := bitOf (g (aDspTctl o)) 8
  crc32 ((List.range (bitsOf wh 16 16)).flatMap (fun j => (List.range (bitsOf wh 0 16)).flatMap (fun i =>
    pixelBytes ten (composed m h o (bitsOf xy 0 16 + i) (bitsOf xy 16 16 + j)))))

end Sys2Proof.Machine
end

