-- ==== Sys2Proof/Machine/Keys.lean ====
section
/-!
DEFINITION. The key vault (chapter 14) and the use of its keys on packets (R179-R181).
-/
namespace Sys2Proof.Machine

def slot (h : Hub) (s : Nat) : KeySlot := tget KeySlot.empty h.keys.slots s

def setSlot (h : Hub) (s : Nat) (k : KeySlot) : Hub :=
  { h with keys := { h.keys with slots := tset KeySlot.empty h.keys.slots s k } }

/-! ### Roots and ancestry (R400, R401, R407) -/

/-- Is the nursery rootstock the root in use (R401)? -/
def nurseryRoot (h : Hub) : Bool := decide (h.keys.lc = 3)

/-- The nursery rootstock: SHA-256 of "FRETRUM-NURSERY" (R401). -/
def nurseryKey : Nat := sha256 [0x46, 0x52, 0x45, 0x54, 0x52, 0x55, 0x4D, 0x2D, 0x4E, 0x55, 0x52, 0x53, 0x45, 0x52, 0x59]

/-- The key of the root in use. -/
def rootKey (h : Hub) : Nat := if nurseryRoot h then nurseryKey else Config.rootstock.toNat

/-- The epoch of the root in use. -/
def rootEpoch (h : Hub) : Nat := if nurseryRoot h then h.keys.nurseryEpoch else h.part.epoch.toNat

/-- Is the ancestry of a slot current (R407)? -/
def ancestryCurrent (h : Hub) (k : KeySlot) : Bool :=
  decide (k.nursery = nurseryRoot h) && decide (k.epoch = rootEpoch h) &&
    k.anc.all (fun a => decide ((slot h a.1).state = 2) && decide ((slot h a.1).gen = a.2))

/-- READY, of a usage, with current ancestry (R417, R418, R420). -/
def keyOk (h : Hub) (s usage : Nat) : Bool :=
  decide ((slot h s).state = 2) && decide ((slot h s).usage = usage) && ancestryCurrent h (slot h s)

/-- Mark a slot STALE: its material is erased, counted and reported (R418, R423). -/
def staleSlot (h : Hub) (s : Nat) : Hub :=
  let h := setSlot h s { slot h s with state := 3, key := 0, keyId := 0 }
  raise (count h aKeyCntStale 1) 0x0D 3 0 0

/-- The check at selection of a TUNNEL slot (R418): a failed check marks the slot STALE unless it is EMPTY or SEALED. -/
def selectSlot (h : Hub) (s : Nat) : Hub × Bool :=
  if keyOk h s 2 then (h, true)
  else
    let st := (slot h s).state
    (if st = 0 ∨ st = 3 ∨ st = 4 then h else staleSlot h s, false)

/-- An end becomes keyless (R419). -/
def makeKeyless (h : Hub) (sp tid : Nat) : Hub :=
  if tget false h.keys.keyless (endKey sp tid) then h
  else
    let h := { h with keys := { h.keys with keyless := tset false h.keys.keyless (endKey sp tid) true } }
    raise (wr h aKeyKeylessLast (W (sp * 2 ^ 24 + tid))) 0x0D 2 0 (sp * 2 ^ 24 + tid)

/-- Make keyless every bound end whose slot is EMPTY, STALE or SEALED (R403, R423). -/
def keylessScan (h : Hub) : Hub :=
  (endsIn h.regs).foldl (fun h e =>
    let st := (slot h e.kslot).state
    if e.keyEn && (st = 0 || st = 3 || st = 4) then makeKeyless h e.sp e.tid else h) h

/-- KEY_GENERATION_SWEEP: once after each edge, 64,000 core clocks after it, whatever the phases do (R49, R423). -/
def keySweep (h : Hub) : Hub :=
  if h.tim.sweepAt = some h.tim.edges then h
  else
  let h := atClk h 64000
  let h := { h with tim := { h.tim with sweepAt := some h.tim.edges } }
  let h := (h.keys.slots.map (·.1)).foldl (fun h s =>
    if (slot h s).state = 2 ∧ !ancestryCurrent h (slot h s) then staleSlot h s else h) h
  keylessScan h

def execKeyGenerationSweep (s : State) : Ans := s.act keySweep

/-! ### Packets under a key (R179-R181, R419) -/

/-- The bytes of a header as sent (R152). -/
def hdrBytes (x : Hdr) (len : Nat) : List Nat := beBytes 16 (hdrValue x len)

/-- The nonce of R179. -/
def packetNonce (fromHub : Bool) (tid pn : Nat) : Nat := (if fromHub then 2 ^ 95 else 0) + tid * 2 ^ 76 + pn

/-- Count a packet dropped on a keyless end (R419). -/
def keylessDrop (h : Hub) : Hub := tally (count h aKeyCntKeyless 1) 0x80 0x0802 1 none

/-- Prepare a packet for transmission on a trunk: plain, or sealed under the slot bound now, with the next PN (R179-R181). A
packet queued before its end closed keeps the binding in its header. -/
def sealOut (h : Hub) (sp : Nat) (p : TunPacket) : Hub × Option TunPacket :=
  let tid := p.hdr.tid.toNat
  let bind : Option (Nat × Bool × Nat) := match resolveEnd h sp tid with
    | some e => some (e.sp, e.keyEn, e.kslot)
    | none => none
  let at_ := (bind.map (·.1)).getD sp
  let keyEn := (bind.map (·.2.1)).getD p.hdr.keyEn
  let ks := (bind.map (·.2.2)).getD p.hdr.kslot.toNat
  if !keyEn then (h, some { p with hdr := { p.hdr with keyEn := false, kslot := 0, pn := 0 }, gcmTag := [] })
  else if tget false h.keys.keyless (endKey at_ tid) then (keylessDrop h, none)
  else match selectSlot h ks with
    | (h, false) => (keylessDrop (makeKeyless h at_ tid), none)
    | (h, true) =>
      let pn := tget 1 h.keys.pn (endKey at_ tid)
      if 2 ^ 40 ≤ pn then (raise (count h (aTrkCntDrop sp) 1) 0x05 8 sp 0, none)
      else
        let hd := { p.hdr with keyEn := true, kslot := BitVec.ofNat 10 ks, pn := BitVec.ofNat 40 pn }
        let c := gcmSeal (slot h ks).key.toNat (packetNonce true tid pn) (hdrBytes hd p.payload.length) (toNats p.payload)
        let h := { h with keys := { h.keys with pn := tset 1 h.keys.pn (endKey at_ tid) (pn + 1) } }
        let h := tally h 0x80 0x0800 1 none
        (h, some ⟨hd, toBytes c.1, toBytes (beBytes 16 c.2)⟩)

/-- Is a PN new within a window (R181)? -/
def pnNew (w : Win) (pn : Nat) : Bool :=
  w.seen = 0 || decide (w.top < pn) || (decide (w.top - pn < 64) && !bitOf w.seen.toNat (w.top - pn))

/-- The window after a PN (R181). -/
def pnMark (w : Win) (pn : Nat) : Win :=
  if w.seen = 0 then ⟨pn, 1⟩
  else if w.top < pn then ⟨pn, (w.seen <<< (pn - w.top)) ||| 1⟩
  else ⟨w.top, w.seen ||| (1#64 <<< (w.top - pn))⟩

/-- The checks of R181 on a packet received on a trunk for an end: the packet with its plain payload, or dropped and
counted. A keyless end accepts nothing (R419). -/
def openIn (h : Hub) (trunk : Nat) (e : EndInfo) (p : TunPacket) : Hub × Option TunPacket :=
  let ek := endKey e.sp e.tid
  if p.hdr.keyEn ≠ e.keyEn then (count h (aTrkCntDrop trunk) 1, none)
  else if !e.keyEn then (h, some p)
  else if tget false h.keys.keyless ek then (keylessDrop h, none)
  else
    let ks := p.hdr.kslot.toNat
    let prev := match tfind h.keys.grace ek with
      | some (s, edge) => decide (s = ks) && decide (edgesSince h edge < fld h (aTrkKeyGrace e.sp) 0 8)
      | none => false
    if ks ≠ e.kslot ∧ !prev then (count h (aTrkCntDrop trunk) 1, none)
    else match selectSlot h ks with
      | (h, false) =>
        if ks = e.kslot then (keylessDrop (makeKeyless h e.sp e.tid), none) else (count h (aTrkCntDrop trunk) 1, none)
      | (h, true) =>
        let w := tget ⟨0, 0⟩ h.keys.windows (ek * 1024 + ks)
        let pn := p.hdr.pn.toNat
        let h := if pnNew w pn then tally h 0x80 0x0801 1 (some ⟨trunk, e.dock, e.cls, none⟩) else h
        if !pnNew w pn then (count h (aTrkCntGcmReplay trunk) 1, none)
        else match gcmOpen (slot h ks).key.toNat (packetNonce false p.hdr.tid.toNat pn) (hdrBytes p.hdr p.payload.length)
            (toNats p.payload) (beNat (toNats p.gcmTag)) with
          | none => (raise (count h (aTrkCntGcmFail trunk) 1) 0x05 6 trunk 0, none)
          | some plain =>
            let h := { h with keys := { h.keys with windows := tput h.keys.windows (ek * 1024 + ks) (pnMark w pn) } }
            (h, some { p with payload := toBytes plain })

/-- An end's slot changes (R181): an empty window for the new slot, the previous slot in grace. -/
def rebindEnd (h : Hub) (sp tid : Nat) (old : Option Nat) (new_ : Nat) : Hub :=
  let ek := endKey sp tid
  let g := match old with
    | some s => if s = new_ then h.keys.grace else tput h.keys.grace ek (s, h.tim.edges)
    | none => tdel h.keys.grace ek
  { h with keys := { h.keys with windows := tdel h.keys.windows (ek * 1024 + new_), grace := g } }

/-- The switch-over of a KEY.BIND, or of a TUN.OPEN under a key (R180, R417, R419): besides, PN 1 and no longer keyless. -/
def bindEnd (h : Hub) (sp tid : Nat) (old : Option Nat) (new_ : Nat) : Hub :=
  let ek := endKey sp tid
  let h := rebindEnd h sp tid old new_
  { h with keys := { h.keys with pn := tset 1 h.keys.pn ek 1, keyless := tset false h.keys.keyless ek false } }

/-- A closed end forgets its binding (R223). -/
def unbindEnd (h : Hub) (sp tid : Nat) : Hub :=
  let ek := endKey sp tid
  { h with keys := { h.keys with
      windows := h.keys.windows.filter (fun w => decide (w.1 / 1024 ≠ ek))
      keyless := tset false h.keys.keyless ek false
      grace := tdel h.keys.grace ek } }

/-- A moved end carries its binding and PN counter (R224, R380). -/
def moveBinding (h : Hub) (sp tid dst : Nat) : Hub :=
  let a := endKey sp tid
  let b := endKey dst tid
  { h with keys := { h.keys with
      pn := tset 1 (tset 1 h.keys.pn b (tget 1 h.keys.pn a)) a 1
      keyless := tset false (tset false h.keys.keyless b (tget false h.keys.keyless a)) a false
      grace := match tfind h.keys.grace a with
        | some g => tdel (tput h.keys.grace b g) a
        | none => tdel h.keys.grace b
      windows := ((h.keys.windows.filter (fun w => decide (w.1 / 1024 = a))).foldl
        (fun t w => tput t (b * 1024 + w.1 % 1024) w.2) h.keys.windows).filter (fun w => decide (w.1 / 1024 ≠ a)) } }

/-- KEY_GRACE_END: TRK_KEY_GRACE edges after a rebind the previous slot is no longer accepted (R181). -/
def keyGraceEnd (sp tid : Nat) (h : Hub) : Hub :=
  match tfind h.keys.grace (endKey sp tid) with
  | some (_, edge) =>
    if fld h (aTrkKeyGrace sp) 0 8 ≤ edgesSince h edge then
      { h with keys := { h.keys with grace := tdel h.keys.grace (endKey sp tid) } }
    else h
  | none => h

def execKeyGraceEnd (sp : Fin 24) (tid : BitVec 12) (s : State) : Ans := s.act (keyGraceEnd sp.val tid.toNat)

/-! ### Grafts, blobs and imports (R410-R416) -/

/-- KEY_ID: the first 8 bytes of HMAC over "KWID" (R407). -/
def keyIdOf (key : Nat) : Nat := hmac key [0x4B, 0x57, 0x49, 0x44] / 2 ^ 192

/-- The child key of R410. -/
def graftKey (parent usage depth ctx parentGen : Nat) : Nat :=
  hmac parent ([0, 0, 0, 1, 0x4B, 0x57, 0x53, 0x43, usage, depth, 0] ++ beBytes 16 ctx ++ beBytes 4 parentGen ++ [0, 0, 1, 0])

/-- The key-encryption key of R413 for a header of 32 bytes. -/
def blobKek (parent : Nat) (header : List Nat) : Nat :=
  hmac parent ([0, 0, 0, 1, 0x4B, 0x57, 0x57, 0x52, 0] ++ header ++ [0, 0, 1, 0])

/-- Does a life-cycle state forbid key operations (R406)? -/
def lcForbids (h : Hub) : Bool := decide (h.keys.lc = 0) || decide (h.keys.lc = 4)

/-- A usage that keys may have (R409). -/
def usageOk (u : Nat) : Bool := decide (1 ≤ u) && decide (u ≤ 3)

/-- May a slot be filled: EMPTY or STALE, its GEN below the limit (R408, R422)? -/
def fillable (k : KeySlot) : Bool := k.state = 0 || k.state = 3

/-- Is a slot a fit parent: READY, BRANCH, current (R411, R415)? -/
def parentFit (h : Hub) (p : Nat) : Bool := keyOk h p 1

/-- Does an operation of graft, load or wrap find the vault busy (R403, R411)? -/
def vaultBusy (h : Hub) (s : Nat) : Bool :=
  h.keys.change.isSome || decide (8 ≤ h.keys.ops.length) || decide ((slot h s).state = 1)

/-- Queue a vault operation. -/
def queueOp (h : Hub) (c : Cmd) (w : IW) (op : VaultOp) : Hub :=
  beginWait { h with keys := { h.keys with ops := h.keys.ops ++ [op] } } c w .op

/-- Detail of a graft's refusal from the parent's side; 0 = none. -/
def graftParentBad (h : Hub) (root : Bool) (parent : Nat) : Bool :=
  !root && (!parentFit h parent || decide (4 ≤ (slot h parent).depth))

/-- KEY.GRAFT (R406, R409, R411, R422, R424): checked and queued; its slot is PENDING meanwhile. -/
def execKeyGraft (th : Fin 4) (s : State) : Ans :=
  s.act (fun h => onLong h th 0x50 (fun h c w =>
    let root := bitOf w.operand 15
    let parent := w.o 0 10
    let usage := w.o 16 4
    let child := w.target
    if 1024 ≤ child ∨ !onlyBits w.operand 0xF83FF ∨ (root ∧ parent ≠ 0) then settle h c.id .invalid 0
    else if !usageOk usage then settle h c.id .invalid 0x0707
    else if lcForbids h then settle h c.id .denied 0x0701
    else if vaultBusy h child then settle h c.id .busy 0
    else if !fillable (slot h child) ∨ 0xFFFFFFFF ≤ (slot h child).gen then settle h c.id .denied 0x0702
    else if graftParentBad h root parent then settle h c.id .denied 0x0703
    else
      let prev := (slot h child).state
      let h := setSlot h child { slot h child with state := 1 }
      queueOp h c w (.graft c.id child prev root parent usage (w.x 0 * 2 ^ 64 + w.x 1))))

/-- KEY.LOAD (R415): queued; the blob is checked when it is read. -/
def execKeyLoad (th : Fin 4) (s : State) : Ans :=
  s.act (fun h => onLong h th 0x51 (fun h c w =>
    if 1024 ≤ w.target ∨ 2 ^ 16 ≤ w.operand then settle h c.id .invalid 0
    else if lcForbids h then settle h c.id .denied 0x0701
    else if w.operand ≠ 72 then settle (raise (count h aKeyCntLoadFail 1) 0x0D 4 0 0) c.id .invalid 0x0707
    else if !hubRangeOk h (w.x 0) 72 then settle h c.id .invalid 0
    else if busDenied h (cmdPort h c) (w.x 0) then settle h c.id .denied 0
    else if !onBus (w.x 0) && !cellarReady h then h
    else if vaultBusy h w.target then settle h c.id .busy 0
    else
      let k := slot h w.target
      let h := if fillable k then setSlot h w.target { k with state := 1 } else h
      queueOp h c w (.load c.id w.target (if fillable k then some k.state else none) (w.x 0))))

/-- KEY.WRAP (R414). -/
def execKeyWrap (th : Fin 4) (s : State) : Ans :=
  s.act (fun h => onLong h th 0x52 (fun h c w =>
    if 1024 ≤ w.target ∨ w.operand ≠ 0 then settle h c.id .invalid 0
    else if lcForbids h then settle h c.id .denied 0x0701
    else if !hubRangeOk h (w.x 0) 72 then settle h c.id .invalid 0
    else if busDenied h (cmdPort h c) (w.x 0) then settle h c.id .denied 0
    else if !onBus (w.x 0) && !cellarReady h then h
    else if vaultBusy h w.target then settle h c.id .busy 0
    else if (slot h w.target).state ≠ 2 ∨ !ancestryCurrent h (slot h w.target) then settle h c.id .denied 0x0702
    else queueOp h c w (.wrap c.id w.target (w.x 0))))

/-- A filled slot. -/
def fillSlot (h : Hub) (s usage : Nat) (nursery : Bool) (depth : Nat) (imported : Bool) (epoch gen key : Nat)
    (anc : List (Nat × Nat)) : Hub :=
  setSlot h s ⟨2, usage, nursery, depth, imported, epoch, gen, BitVec.ofNat 256 key, BitVec.ofNat 64 (keyIdOf key), anc⟩

/-- A graft finishes (R410, R411). -/
def finishGraft (h : Hub) (cmd s prev : Nat) (root : Bool) (parent usage ctx : Nat) : Hub :=
  let k := slot h s
  if k.state ≠ 1 then settle h cmd .denied 0x0702
  else if graftParentBad h root parent then settle (setSlot h s { k with state := prev }) cmd .denied 0x0703
  else
    let p := slot h parent
    let pkey := if root then rootKey h else p.key.toNat
    let pgen := if root then rootEpoch h else p.gen
    let depth := if root then 1 else p.depth + 1
    let key := graftKey pkey usage depth ctx pgen
    let anc := if root then [] else p.anc ++ [(parent, p.gen)]
    let h := fillSlot h s usage (if root then nurseryRoot h else p.nursery) depth false
      (if root then rootEpoch h else p.epoch) (k.gen + 1) key anc
    settle h cmd .ok (k.gen + 1)

/-- The header bytes of a slot's blob (R413). -/
def blobHeader (h : Hub) (s : Nat) : List Nat :=
  let k := slot h s
  let par := k.anc.getLast?
  let ps := (par.map (·.1)).getD 0
  let pgen := (par.map (·.2)).getD (rootEpoch h)
  let pid := match par with
    | some a => (slot h a.1).keyId.toNat
    | none => 0
  toNats (leBytes 4 0x4B424C31 ++ leBytes 1 1 ++ leBytes 1 k.usage ++ leBytes 1 k.depth ++ leBytes 1 (if k.nursery then 1 else 0) ++
    leBytes 2 ps ++ leBytes 2 s ++ leBytes 4 pgen ++ leBytes 4 k.gen ++ leBytes 4 0 ++ leBytes 8 pid)

/-- The parent key of a slot at its depth: the root in use, or the last ancestor's. -/
def parentKey (h : Hub) (k : KeySlot) : Nat :=
  match k.anc.getLast? with
  | some a => (slot h a.1).key.toNat
  | none => rootKey h

/-- A key as four 64-bit words. -/
def keyWords (k : Nat) : List Nat := [k / 2 ^ 192 % 2 ^ 64, k / 2 ^ 128 % 2 ^ 64, k / 2 ^ 64 % 2 ^ 64, k % 2 ^ 64]

/-- The blob of a slot (R413, R414). -/
def blobOf (h : Hub) (s : Nat) : List Byte :=
  let hd := blobHeader h s
  let ws := kwWrap (blobKek (parentKey h (slot h s)) hd) (keyWords (slot h s).key.toNat)
  toBytes (hd ++ ws.flatMap (beBytes 8))

/-- A field of a blob. -/
def blobField (b : List Byte) (at_ n : Nat) : Nat := leNat ((b.drop at_).take n)

/-- The checks of R415 on a blob for a slot, with the first that fails: detail and, for one that passes, the key. -/
def checkBlob (h : Hub) (s : Nat) (writable : Bool) (b : List Byte) : Except (Status × Nat) Nat :=
  let depth := blobField b 6 1
  let root := blobField b 7 1
  let parent := blobField b 8 2
  let pgen := blobField b 12 4
  if blobField b 0 4 ≠ 0x4B424C31 ∨ blobField b 4 1 ≠ 1 ∨ !usageOk (blobField b 5 1) ∨ blobField b 20 4 ≠ 0 ∨
      (depth = 1 ∧ (parent ≠ 0 ∨ blobField b 24 8 ≠ 0)) then .error (.invalid, 0x0707)
  else if blobField b 10 2 ≠ s then .error (.denied, 0x0704)
  else if !writable then .error (.denied, 0x0702)
  else if blobField b 16 4 ≤ (slot h s).gen then .error (.denied, 0x0704)
  else
    let p := slot h parent
    let bad : Option Nat :=
      if depth = 1 then (if root ≠ (if nurseryRoot h then 1 else 0) ∨ pgen ≠ rootEpoch h then some 0x0704 else none)
      else if 1024 ≤ parent ∨ !parentFit h parent ∨ 4 ≤ p.depth then some 0x0703
      else if p.depth + 1 ≠ depth ∨ root ≠ (if p.nursery then 1 else 0) ∨ p.gen ≠ pgen ∨ p.keyId.toNat ≠ blobField b 24 8 then
        some 0x0704
      else none
    match bad with
    | some d => .error (.denied, d)
    | none =>
      let pkey := if depth = 1 then rootKey h else p.key.toNat
      let ws := (List.range 5).map (fun i => beNat (toNats ((b.drop (32 + 8 * i)).take 8)))
      match kwUnwrap (blobKek pkey (toNats (b.take 32))) ws with
      | none => .error (.denied, 0x0705)
      | some k => .ok (k.foldl (fun a x => a * 2 ^ 64 + x) 0)

/-- A load finishes (R415). -/
def finishLoad (m : Mem) (h : Hub) (cmd s : Nat) (prev : Option Nat) (addr : Nat) (uncorr : Bool) : Hub :=
  let back := fun (h : Hub) => match prev with
    | some st => if (slot h s).state = 1 then setSlot h s { slot h s with state := st } else h
    | none => h
  let fail := fun (h : Hub) (st : Status) (d : Nat) =>
    settle (raise (count (back h) aKeyCntLoadFail 1) 0x0D 4 0 0) cmd st d
  let r := readHub m h addr 72
  let h := r.1
  if prev.isSome ∧ (slot h s).state ≠ 1 then fail h .denied 0x0702
  else if uncorr ∨ !r.2.2 then fail h .fault 0
  else
    let b := r.2.1
    match checkBlob h s (prev.isSome || fillable (slot h s)) b with
    | .error (st, d) => fail h st d
    | .ok key =>
      let parent := blobField b 8 2
      let p := slot h parent
      let one := decide (blobField b 6 1 = 1)
      let anc := if one then [] else p.anc ++ [(parent, p.gen)]
      let h := fillSlot h s (blobField b 5 1) (if one then nurseryRoot h else p.nursery) (blobField b 6 1) false
        (if one then rootEpoch h else p.epoch) (blobField b 16 4) key anc
      settle h cmd .ok 0

/-- The port a command acts for, by its id. -/
def idPort (h : Hub) (id : Nat) : Port :=
  match findCmd h id with
  | some c => cmdPort h c
  | none => .m0

/-- VAULT_OP_COMPLETE: the first queued operation finishes (R411, R414, R415). -/
def vaultOpComplete (uncorr : Bool) (m : Mem) (h : Hub) : Mem × Hub :=
  match h.keys.ops with
  | [] => (m, h)
  | op :: ops =>
    let h := { h with keys := { h.keys with ops := ops } }
    match op with
    | .graft cmd s prev root parent usage ctx =>
      (m, tally (finishGraft h cmd s prev root parent usage ctx) 0x80 0x0803 1 none)
    | .load cmd s prev addr => (m, finishLoad m h cmd s prev addr uncorr)
    | .wrap cmd s addr =>
      if (slot h s).state ≠ 2 ∨ !ancestryCurrent h (slot h s) then (m, settle h cmd .denied 0x0702)
      else
        let r := writeHub m h (idPort h cmd) addr (blobOf h s)
        (r.1, settle r.2 cmd .ok 72)

def execVaultOpComplete (uncorr : Bool) (s : State) : Ans := s.actMem (vaultOpComplete uncorr)

/-- Operations that write a slot end at once with DENIED when it is killed (R421). -/
def dropOps (h : Hub) (s : Nat) : Hub :=
  let mine := fun (o : VaultOp) => match o with
    | .graft _ x _ _ _ _ _ => decide (x = s)
    | .load _ x prev _ => decide (x = s) && prev.isSome
    | .wrap _ _ _ => false
  let ids := (h.keys.ops.filter mine).map (fun o => match o with
    | .graft c _ _ _ _ _ _ => c
    | .load c _ _ _ => c
    | .wrap c _ _ => c)
  let h := { h with keys := { h.keys with ops := h.keys.ops.filter (fun o => !mine o) } }
  ids.foldl (fun h id => settle h id .denied 0x0702) h

/-- Erase a slot to EMPTY, its GEN kept (R402). -/
def eraseSlot (h : Hub) (s : Nat) : Hub := setSlot h s { KeySlot.empty with gen := (slot h s).gen }

/-- KEY.KILL (R421, R422). -/
def execKeyKill (th : Fin 4) (s : State) : Ans :=
  s.act (fun h => onInstr h th 0x53 (fun h c w =>
    if 1024 ≤ w.target ∨ w.operand ≠ 0 then settle h c.id .invalid 0
    else if lcForbids h then settle h c.id .denied 0x0701
    else
      let g := min 0xFFFFFFFF ((slot h w.target).gen + 1)
      let h := setSlot h w.target { KeySlot.empty with gen := g }
      settle (dropOps h w.target) c.id .ok g))

/-- The scope elements of an end's dock and switch port (R112). -/
def endScope (h : Hub) (regs : Tab Word) (sp tid : Nat) : Scope :=
  match endIn h regs sp tid with
  | some e => (scDock e.dock).union (scPort sp)
  | none => scPort sp

/-- Is an end built in (R215)? -/
def builtIn (sp tid : Nat) : Bool :=
  (decide (sp < 8) && decide (tid = 0)) || decide (21 ≤ sp)

/-- Is a TID of a trunk reserved by the group of a dock whose end lies on a lower member, other than the dock named (R217)? -/
def groupTid (h : Hub) (regs : Tab Word) (sp tid : Nat) (but : Option Nat) : Bool :=
  decide (sp < 8) && (List.range 64).any (fun e =>
    let m := maskIn h regs e
    decide (some e ≠ but) && createdIn h regs e && bitOf m sp && decide (lowest m ≠ sp) &&
      decide ((endIn h regs (lowest m) tid).map (·.dock) = some e))

/-- KEY.BIND (R417): stages KEY_EN = 1 and KSLOT of a trunk end. -/
def execKeyBind (th : Fin 4) (s : State) : Ans :=
  s.act (fun h => onInstr h th 0x54 (fun h c w =>
    let sp := w.o 12 5
    let tid := w.o 0 12
    if 1024 ≤ w.target ∨ 2 ^ 17 ≤ w.operand ∨ 24 ≤ sp ∨ !spPresent h.part.res sp ∨ builtIn sp tid then settle h c.id .invalid 0
    else if lcForbids h then settle h c.id .denied 0x0701
    else
      let old := cfg h (standing h c []) (aTunT sp tid)
      let v := putBits (putBits old 15 1 1) 0 10 w.target
      stageOpen h c w [(aTunT sp tid, W v)] (endScope h (standing h c []) sp tid) 0 [] [aTunT sp tid]))

/-- KEY_IMPORT: GO places the imported key in a slot (R416); the import registers are zeroed. -/
def keyImport (v : Nat) (h : Hub) : Hub :=
  let h := setFld (setFld h aKeyImportCtl 16 4 (bitsOf v 16 4)) aKeyImportCtl 0 10 (bitsOf v 0 10)
  if !bitOf v 31 then h
  else
    let usage := bitsOf v 16 4
    let s := bitsOf v 0 10
    let key := (List.range 8).foldl (fun a k => a + (rd h (aKeyImport k)).toNat * 2 ^ (32 * k)) 0
    let gen := (rd h aKeyImportGen).toNat
    let zeroed := (List.range 8).foldl (fun h k => wr h (aKeyImport k) 0) (wr h aKeyImportGen 0)
    let k := slot h s
    let st : Status :=
      if h.keys.lc ≠ 1 ∧ h.keys.lc ≠ 3 then .denied
      else if h.keys.change.isSome ∨ k.state = 1 then .busy
      else if !usageOk usage then .invalid
      else if !fillable k ∨ k.gen = 0xFFFFFFFF ∨ gen ≤ k.gen then .denied
      else .ok
    let h := if st = .ok then fillSlot zeroed s usage (nurseryRoot h) 1 true (rootEpoch h) gen key [] else zeroed
    setFld h aKeyImportCtl 28 3 st.code

/-- KEY_IMPORT (R416). -/
def execKeyImport (_p : Port) (value : Word) (s : State) : Ans := s.act (keyImport value.toNat)

/-! ### The life cycle (R402-R405) -/

/-- A destruction: every slot EMPTY with its GEN kept, both epochs up by one (R402). -/
def destruction (h : Hub) : Hub :=
  let h := (h.keys.slots.map (·.1)).foldl eraseSlot h
  { h with
    part := { h.part with epoch := h.part.epoch + 1 }
    keys := { h.keys with nurseryEpoch := (h.keys.nurseryEpoch + 1) % 256 } }

/-- Does a change perform a destruction (R402)? -/
def lcDestroys (h : Hub) (target : Nat) : Bool := h.part.compat && decide (target ≠ 4)

/-- Does the table of R402 permit a change by KEY_LC_CMD? -/
def lcPermits (h : Hub) (target : Nat) : Bool :=
  let now := h.keys.lc
  let base := h.part.lcBase.toNat
  (decide (now = 1) && decide (target = 2)) ||
  ((decide (now = 1) || decide (now = 2)) && decide (target = 3) && !h.part.debugLock) ||
  (decide (now = 3) && decide (target = base)) ||
  (decide (now ≠ 0) && decide (now ≠ 4) && decide (target = 4))

def lcRefuse (h : Hub) : Hub := raise h 0x0D 1 0 0

/-- LC_CMD: a write to KEY_LC_CMD (R403). -/
def lcCmd (v : Nat) (h : Hub) : Hub :=
  let target := bitsOf v 0 3
  if bitsOf v 16 16 ≠ 0x4C43 ∨ h.keys.change.isSome ∨ target = h.keys.lc ∨ !lcPermits h target ∨
      (lcDestroys h target ∧ h.part.epoch.toNat = 255) then lcRefuse h
  else { h with keys := { h.keys with change := some target } }

def execLcCmd (_p : Port) (value : Word) (s : State) : Ans := s.act (lcCmd value.toNat)

/-- Apply an effect to each slot that a predicate takes. -/
def eachSlot (h : Hub) (p : KeySlot → Bool) (f : Hub → Nat → Hub) : Hub :=
  ((h.keys.slots.filter (fun e => p e.2)).map (·.1)).foldl f h

/-- The slot effects of a change to a target in the native column and in the compatible one (R402). -/
def lcEffects (h : Hub) (target : Nat) : Hub :=
  if target = 4 then eachSlot h (fun _ => true) eraseSlot
  else if h.part.compat then destruction h
  else if target = 3 then
    eachSlot h (fun k => decide (k.state = 2) && !k.nursery) (fun h s => setSlot h s { slot h s with state := 4 })
  else if h.keys.lc = 3 then
    let h := eachSlot h (fun k => k.nursery && decide (k.state ≠ 0)) eraseSlot
    let h := eachSlot h (fun k => decide (k.state = 4)) (fun h s => setSlot h s { slot h s with state := 2 })
    { h with keys := { h.keys with nurseryEpoch := (h.keys.nurseryEpoch + 1) % 256 } }
  else h

/-- LC_CHANGE: the change takes effect in one clock (R403, step 2), then LC_CHANGED sets. -/
def lcChange (h : Hub) : Hub :=
  match h.keys.change with
  | none => h
  | some t =>
    let h := lcEffects h t
    let base := if t = 3 then h.part.lcBase else BitVec.ofNat 3 t
    let h := { h with part := { h.part with lcBase := base }, keys := { h.keys with lc := t, change := none } }
    raise (keylessScan h) 0x0D 0 0 0

def execLcChange (s : State) : Ans := s.act lcChange

/-- FUSE_CMD: a write to KEY_FUSE_CMD (R405, R10). -/
def fuseCmd (v : Nat) (h : Hub) : Hub :=
  if bitsOf v 16 16 ≠ 0x4346 ∨ !bitOf v 0 ∨ h.keys.change.isSome ∨ h.part.compat ∨ h.keys.lc = 3 ∨
      (h.part.lcBase ≠ 0 ∧ h.part.lcBase ≠ 1) then lcRefuse h
  else { h with keys := { h.keys with fuse := true } }

def execFuseCmd (_p : Port) (value : Word) (s : State) : Ans := s.act (fuseCmd value.toNat)

/-- COMPAT_FUSE_BLOWN: the fuse reads 1 (R405). -/
def compatFuseBlown (h : Hub) : Hub :=
  if h.keys.fuse then { h with part := { h.part with compat := true }, keys := { h.keys with fuse := false } } else h

def execCompatFuseBlown (s : State) : Ans := s.act compatFuseBlown

end Sys2Proof.Machine
end

