-- ==== Sys2Proof/Machine/Shaper.lean ====
section
/-!
DEFINITION. Exact fractions, credit shapers and policers (R319-R323).
-/
namespace Sys2Proof.Machine

/-- A fraction in lowest terms with a positive denominator. -/
def frac (n : Int) (d : Nat) : Frac :=
  let g := Nat.gcd n.natAbs d
  if g = 0 then ⟨0, 1⟩ else ⟨n / (g : Int), d / g⟩

def fracOf (n : Int) : Frac := ⟨n, 1⟩

def fracAdd (a b : Frac) : Frac := frac (a.num * b.den + b.num * a.den) (a.den * b.den)

def fracLe (a b : Frac) : Bool := decide (a.num * b.den ≤ b.num * a.den)

def fracMax (a b : Frac) : Frac := if fracLe a b then b else a

def fracMin (a b : Frac) : Frac := if fracLe a b then a else b

/-- Settings of a shaper: slopes in 2^-8 per tick, limits in units. -/
structure ShSet where
  idle : Nat
  send : Nat
  high : Nat
  low : Int
deriving DecidableEq, Repr

/-- The settings in the five words at an address (R325). -/
def shSet (h : Hub) (a : Nat) : ShSet :=
  ⟨(rd h a).toNat, (rd h (a + 4)).toNat, fld h (a + 8) 0 31, signed (rd h (a + 12)).toNat 32⟩

/-- A shaper with I = 0 and S = 0 is disabled (R319). -/
def ShSet.off (s : ShSet) : Bool := s.idle = 0 && s.send = 0

/-- Clip a credit into the limits, in units of 2^-8. -/
def clip (s : ShSet) (c : Frac) : Frac := fracMin (fracMax c (fracOf (s.low * 256))) (fracOf ((s.high * 256 : Nat) : Int))

/-- One cell slot of a shaper (R319), n slots in a tick. -/
def shaperSlot (s : ShSet) (n : Nat) (x : Shaper) : Shaper :=
  if s.off then Shaper.idle
  else
    let n := max 1 n
    if x.sending then
      let left := fracAdd x.left (frac (-((s.idle + s.send : Nat) : Int)) n)
      ⟨clip s (fracAdd x.c (frac (-(s.send : Int)) n)), left, decide (0 < left.num)⟩
    else ⟨clip s (fracAdd x.c (frac (s.idle : Int) n)), x.left, false⟩

/-- May a packet start (R319)? -/
def shaperOpen (s : ShSet) (x : Shaper) : Bool := s.off || (!x.sending && decide (0 ≤ x.c.num))

/-- The start of a sending period for a length (R319). -/
def shaperStart (s : ShSet) (x : Shaper) (len : Nat) : Shaper :=
  if s.off then Shaper.idle else ⟨x.c, fracAdd x.left (fracOf ((len * 256 : Nat) : Int)), true⟩

/-- What a switch-over of a shaper's records does (R320). -/
def shaperApply (s : ShSet) (init : Nat) (x : Shaper) : Shaper :=
  if s.off then Shaper.idle
  else match init with
    | 1 => { x with c := fracOf ((s.high * 256 : Nat) : Int) }
    | 2 => { x with c := clip s (fracOf 0) }
    | _ => { x with c := clip s x.c }

/-- Credit in whole units, truncated toward zero, as TMG_QCR shows it. -/
def creditUnits_ (x : Shaper) : Int :=
  let q := x.c.num.natAbs / (x.c.den * 256)
  if x.c.num < 0 then -(q : Int) else (q : Int)

/-! ### Keys of shapers -/

/-- The shaper of a queue, of a dock at a port, and policer p. -/
def shKeyQueue (q : Nat) : Nat := q
def shKeyDock (d j : Nat) : Nat := 0x10000 + d * 32 + j
def shKeyPol (p : Nat) : Nat := 0x20000 + p

/-- Address of the settings of a shaper or policer. -/
def shAddr (k : Nat) : Nat :=
  if k < 0x10000 then aTmgQsIdle k
  else if k < 0x20000 then aTmgDsIdle ((k - 0x10000) / 32) ((k - 0x10000) % 32)
  else aTmgPlIdle (k - 0x20000)

def shaper (h : Hub) (k : Nat) : Shaper := tget Shaper.idle h.tmg.shapers k

def setShaper (h : Hub) (k : Nat) (x : Shaper) : Hub :=
  { h with tmg := { h.tmg with shapers := tset Shaper.idle h.tmg.shapers k x } }

/-- Shapers and policers whose settings are listed, by key. -/
def listedShapers (h : Hub) : List Nat :=
  h.regs.filterMap (fun e =>
    let a := e.1
    if a % 32 ≠ 0 ∧ a % 32 ≠ 4 then none
    else if 0x730000 ≤ a ∧ a < 0x740000 then
      some (shKeyDock ((a - 0x730000) / 0x400) ((a - 0x730000) % 0x400 / 0x20))
    else if 0x740000 ≤ a ∧ a < 0x760000 then some ((a - 0x740000) / 0x20)
    else if 0x780000 ≤ a ∧ a < 0x788000 then some (shKeyPol ((a - 0x780000) / 0x20))
    else none)

/-- One cell slot of every shaper and policer (R319, R322); those with both slopes listed are stepped once. -/
def shaperSlots (h : Hub) : Hub :=
  let n := fld h aTmgSlots 0 16
  (listedShapers h).eraseDups.foldl (fun h k => setShaper h k (shaperSlot (shSet h (shAddr k)) n (shaper h k))) h

/-! ### Lengths (R314) and policing (R322) -/

/-- Wide mode (R4). -/
def wideMode (h : Hub) : Bool := decide (h.part.res.queues = 4096)

/-- Bytes of a packet inside the hub (R275). -/
def pktBytes (p : Pkt) : Nat := 16 + (p.payload.length + 7) / 8 * 8

/-- Cells of a packet (R275). -/
def pktCells (p : Pkt) : Nat := (pktBytes p + 127) / 128

/-- Length of a packet for a scheduled port (R314); other ports have no overhead. -/
def pktLength (h : Hub) (port : Nat) (p : Pkt) : Nat :=
  if wideMode h then 1
  else
    let o : Int := if port ≤ 20 then signed (fld h (aTmgPortCfg port) 0 8) 8 else 0
    max 1 ((pktBytes p : Int) + o).toNat

/-- One policer on a packet: green or red, dropped or not (R322). -/
def policeOne (h : Hub) (p : Nat) (x : Pkt) : Hub × Bool × Bool :=
  let a := aTmgPlIdle p
  if !flag h (a + 16) 9 ∨ fld h (a + 16) 0 5 ≠ x.ing then (h, false, false)
  else
    let s := shSet h a
    let k := shKeyPol p
    if shaperOpen s (shaper h k) then (setShaper h k (shaperStart s (shaper h k) (pktLength h x.ing x)), false, false)
    else if flag h (a + 16) 8 then
      (tally (raise (count h (aTmgPlcntDrop p) 1) 0x09 0 0 0) 0x40 0x0405 1 (some (pktInfo x)), true, true)
    else (tally (count h (aTmgPlcntRed p) 1) 0x40 0x0404 1 (some (pktInfo x)), true, false)

/-- POLICE: the class policer, then the dock policer, on a lossy packet of a dock; none where it is dropped (R322). -/
def police (h : Hub) (x : Pkt) : Hub × Option Pkt :=
  if !x.lossy ∨ 64 ≤ x.dock then (h, some x)
  else
    let a := policeOne h (16 * x.dock + x.cls) x
    if a.2.2 then (a.1, none)
    else
      let b := policeOne a.1 (16 * x.dock + 8) x
      if b.2.2 then (b.1, none) else (b.1, some { x with red := x.red || a.2.1 || b.2.1 })

end Sys2Proof.Machine
end

