-- ==== Sys2Proof/Machine/Switch.lean ====
section
/-!
DEFINITION. The switch core (chapter 9): packets entering, virtual output queues, Spindle, admission and push-out, spill to
the cellar, flow hash, bucket maps and fences; and the queue sets of R306.
-/
namespace Sys2Proof.Machine

/-! ### Links and pools -/

/-- Is resource i of a class retired (R473)? -/
def retired (h : Hub) (c i : Nat) : Bool := flag h (aFltRet c (i / 32)) (i % 32)

/-- Is a switch port's link up and the port present and in service (R284)? -/
def portUp (h : Hub) (sp : Nat) : Bool :=
  spPresent h.part.res sp &&
  (if sp < 8 then decide (7 ≤ trkState h sp) && decide (trkState h sp ≤ 9)
   else if sp < 16 then (tget ⟨false, 0, 0⟩ h.tun.plinks (sp - 8)).up && !retired h 5 (sp - 8)
   else if sp < 20 then bitOf h.tun.ethUp.toNat (sp - 16) && !retired h 7 (sp - 16)
   else true)

/-- Cells of a list of packets. -/
def cellsOf (l : List Pkt) : Nat := l.foldl (fun n p => n + pktCells p) 0

def queueAt (h : Hub) (q : Nat) : Queue := tget Queue.empty h.swc.queues q

def setQueue (h : Hub) (q : Nat) (x : Queue) : Hub :=
  { h with swc := { h.swc with queues := tset Queue.empty h.swc.queues q x } }

def voqKey (i j pass : Nat) : Nat := (i * 24 + j) * 4 + pass

def voqAt (h : Hub) (i j pass : Nat) : List Pkt := tget [] h.swc.voq (voqKey i j pass)

def setVoq (h : Hub) (i j pass : Nat) (l : List Pkt) : Hub :=
  { h with swc := { h.swc with voq := tset [] h.swc.voq (voqKey i j pass) l } }

/-- Retired casks. -/
def retiredCasks (h : Hub) : Nat :=
  (List.range 8).foldl (fun n k => n + popcount 32 (rd h (aMemRetiredCask k)).toNat) 0

/-- The completion pools' sum Σ of R280. -/
def poolSum (h : Hub) (regs : Tab Word) : Nat := (List.range 16).foldl (fun n i => n + cfld h regs (aTunCplpool i) 0 17) 0

/-- Size of the shared pool (R280, R435). -/
def sharedTotal (h : Hub) : Nat :=
  262144 - 1024 * retiredCasks h - poolSum h h.regs - fld h aSwcCfg 16 13 - 3072

/-! ### Casks (R287, R288) -/

/-- Cells of a barrel that still belong to packets. -/
def liveCells (b : Barrel) : Nat := b.cells - b.skip

/-- Live cells of written barrels. -/
def cellsOfBarrels (l : List Barrel) : Nat := l.foldl (fun n b => n + liveCells b) 0

/-- The cells of a queue's spilled packets that lie in casks, as packet and cask: those drained and those of the open barrel. -/
def spillCells (x : Queue) : List (Nat × Nat) :=
  let cells := x.spill.flatMap (fun p => (List.range (pktCells p)).map (fun i => (p.id, (p.casks[i]?).getD 256)))
  List.zipWith (fun c e => (c.1, e.2)) cells x.drained ++ cells.drop (x.drained.length + cellsOfBarrels x.written)

/-- Every cell in the casks, as packet and cask. -/
def coreCells (h : Hub) : List (Nat × Nat) :=
  let flat := fun (l : List Pkt) => l.flatMap (fun p => p.casks.map (fun k => (p.id, k)))
  let all := fun (t : Tab (List Pkt)) => t.flatMap (fun e => flat e.2)
  all h.swc.voq ++ h.swc.batches.flatMap (fun e => flat e.2) ++ all h.swc.sysq ++ all h.swc.direct ++ all h.swc.hold ++
    h.swc.fences.flatMap (fun e => flat e.2.hold) ++
    h.swc.queues.flatMap (fun e => flat e.2.cask ++ spillCells e.2)

/-- The cell slot of the core clock (R24). -/
def slotNow (h : Hub) : Nat := h.tim.coreClk / 4

/-- The packets with a cell in a cask, each once. -/
def packetsOfCask (h : Hub) (k : Nat) : List Nat := (((coreCells h).filter (fun c => decide (c.2 = k))).map (·.1)).eraseDups

/-- A cask serves an access in a slot; the slots that can no longer matter leave the list. -/
def access (h : Hub) (slot k : Nat) : Hub :=
  { h with swc := { h.swc with taken := (slot, k) :: h.swc.taken.filter (fun e => decide (slotNow h < e.1 + 8)) } }

/-- The pointer of a writer: ingress port i starts at 11 × i modulo 256 and advances by 11 a write (R287). The start of the drain
writer, 24, is the model's choice (notes/assumptions/69.md). -/
def writePtr (h : Hub) (w : Nat) : Nat := ((if w < 24 then 11 * w else 0) + 11 * tget 0 h.swc.wrote w) % 256

/-- A cell is written in a slot: to the first cask at or after the writer's pointer that is in service, has a free cell and no access
in the slot (R287, R288); a later cask than the pointer's is a conflict of the writing master (R431). `mine` are the casks of
the packet's cells before it. -/
def writeCell (h : Hub) (w master slot : Nat) (mine : List Nat) : Hub × Nat :=
  let ptr := writePtr h w
  let used := (coreCells h).map (·.2) ++ mine
  let fits := fun k => !flag h (aMemRetiredCask (k / 32)) (k % 32) && decide (used.count k < 1024)
  let order := (List.range 256).map (fun k => (ptr + k) % 256)
  let k := match order.find? (fun k => fits k && !h.swc.taken.contains (slot, k)) with
    | some k => k
    | none => (order.find? fits).getD ptr
  let h := if k = ptr then h else count h (aMemConf master (ptr / 8)) 1
  let h := access h slot k
  ({ h with swc := { h.swc with wrote := tset 0 h.swc.wrote w ((tget 0 h.swc.wrote w + 1) % 256) } }, k)

/-- Write n cells, one a slot from a slot on; the casks they lie in. -/
def writeCells (h : Hub) (w master slot n : Nat) : Hub × List Nat :=
  (List.range n).foldl (fun r i =>
    let c := writeCell r.1 w master (slot + i) r.2
    (c.1, r.2 ++ [c.2])) (h, [])

/-- Cells are read out of casks, one a slot: a read that finds its cask taken waits one slot, a conflict of its master (R287, R431). -/
def readCells (h : Hub) (master : Nat) (casks : List Nat) : Hub :=
  (casks.foldl (fun (r : Hub × Nat) k =>
    if r.1.swc.taken.contains (r.2, k) then (access (count r.1 (aMemConf master (k / 8)) 1) (r.2 + 1) k, r.2 + 2)
    else (access r.1 r.2 k, r.2 + 1)) (h, slotNow h)).1

/-- A packet's cells have been written at its ingress port, the last in this slot (R279, R287). -/
def placePkt (h : Hub) (p : Pkt) : Hub × Pkt :=
  let n := pktCells p
  let r := writeCells h p.ing 0 (slotNow h + 1 - n) n
  (r.1, { p with casks := r.2 })

/-- The packet descriptor of a packet's first cell (R277). -/
def packetDescriptor (p : Pkt) : Nat :=
  p.queue % 4096 * 2 ^ 52 + p.cls * 2 ^ 49 + p.pass * 2 ^ 47 + (if p.red then 2 ^ 46 else 0) + (if p.lossy then 2 ^ 45 else 0) +
    p.egr * 2 ^ 40 + p.stamp * 2 ^ 16 + p.bucket.getD 0 * 2 ^ 8 + (pktCells p - 1) * 2 ^ 5

/-- The cell descriptor of a packet's cell i, before the cell with index next (R277). -/
def cellDescriptor (p : Pkt) (i next : Nat) : Nat :=
  let n := pktCells p
  let pos := if n = 1 then 3 else if i = 0 then 1 else if i + 1 = n then 2 else 0
  let units := if i + 1 = n then (pktBytes p - 128 * i) / 8 else 16
  next * 2 ^ 46 + pos * 2 ^ 44 + (units - 1) * 2 ^ 40

/-- Every packet that waits in a list outside queues and the completion pools. -/
def looseCells (h : Hub) (k : Bool) : Nat :=
  let pick := fun (l : List Pkt) => cellsOf (l.filter (fun p => if k then p.pass = 0 else decide (2 ≤ p.pass)))
  let sum := fun (t : Tab (List Pkt)) => t.foldl (fun n e => n + pick e.2) 0
  sum h.swc.voq + h.swc.batches.foldl (fun n e => n + pick e.2) 0 + sum h.swc.sysq + sum h.swc.direct +
    sum h.swc.hold + h.swc.fences.foldl (fun n e => n + pick e.2.hold) 0

/-- Cells of the shared pool in use (R280): passes P and N, pass K beyond the control reserve, queues, open barrels. -/
def sharedUsed (h : Hub) : Nat :=
  let q := h.swc.queues.foldl (fun n e =>
    n + cellsOf (e.2.cask.filter (fun p => decide (p.pass ≠ 1))) + (if e.2.openSlot.isSome then 16 else 0)) 0
  looseCells h false + (looseCells h true - fld h aSwcCfg 16 13) + q

/-- Free cells of the shared pool. -/
def sharedFree (h : Hub) : Nat := sharedTotal h - sharedUsed h

/-- Raise SHARED_LOW when the free cells fall below the threshold. -/
def lowCheck (before : Nat) (h : Hub) : Hub :=
  let t := fld h aSwcCfg 0 16
  if t ≤ before ∧ sharedFree h < t then raise h 0x08 2 0 0 else h

/-- Egress cells of a port in the shared pool (R283, R289). -/
def egressCells (h : Hub) (j : Nat) : Nat :=
  let q := h.swc.queues.foldl (fun n e => n + cellsOf (e.2.cask.filter (fun p => decide (p.egr = j) && decide (p.pass ≠ 1)))) 0
  q + cellsOf (tget [] h.swc.direct (j * 4 + 2)) + cellsOf (tget [] h.swc.direct (j * 4 + 3))

/-- VOQ cells of an ingress port counted against its limit (R281). -/
def voqCells (h : Hub) (i : Nat) : Nat :=
  let all := h.swc.voq.filter (fun e => decide (e.1 / 96 = i))
  let pn := all.foldl (fun n e => n + (if 2 ≤ e.1 % 4 then cellsOf e.2 else 0)) 0
  let b := h.swc.batches.foldl (fun n e => n + cellsOf (e.2.filter (fun p => decide (p.ing = i) && decide (2 ≤ p.pass)))) 0
  let k := all.foldl (fun n e => n + (if e.1 % 4 = 0 then cellsOf e.2 else 0)) 0
  pn + b + min k (looseCells h true - fld h aSwcCfg 16 13)

/-- An ingress port has no room: its VOQ limit or the shared pool (R281). -/
def ingressFull (h : Hub) (i : Nat) : Bool :=
  decide (fld h (aSwcPortVoq i) 0 16 ≤ voqCells h i) || decide (sharedFree h = 0)

/-! ### Queue sets (R305-R307) -/

/-- The role a packet asks for (R306). -/
def pktRole (p : Pkt) : Nat := if p.lossy then 3 else if p.pass = 1 then 1 else if p.pass = 3 then 2 else 0

/-- Queues with a list of packets, or with packets assigned to them in a VOQ or batch. -/
def busyQueues (h : Hub) : List Nat :=
  h.swc.queues.map (·.1) ++ (h.swc.voq.flatMap (·.2) ++ h.swc.batches.flatMap (·.2)).map (·.queue)

/-- The queue set of a port, dock and class in a configuration, ascending, with their enable bits: the enabled and the draining queues
mapped to them (R306). A draining queue may have a mapping of all zeros, which no listed register shows. -/
def queueSet (h : Hub) (regs : Tab Word) (j d c : Nat) : List (Nat × Bool) :=
  let listed := regs.filterMap (fun e =>
    if 0x770000 ≤ e.1 ∧ e.1 < 0x774000 then some ((e.1 - 0x770000) / 4, e.2.toNat) else none)
  let bare := if j = 0 ∧ d = 0 ∧ c = 0 then
      ((busyQueues h).eraseDups.filter (fun q => decide (tget 0 regs (aTmgQmap q) = 0))).map (fun q => (q, 0)) else []
  (sortBy (fun a b => decide (a.1 ≤ b.1)) (listed ++ bare)).filterMap (fun e =>
    if bitsOf e.2 0 5 = j ∧ bitsOf e.2 8 6 = d ∧ bitsOf e.2 16 3 = c ∧ e.1 < h.part.res.queues ∧ (bitOf e.2 31 ∨ queueHolds h e.1)
    then some (e.1, bitOf e.2 31) else none)

/-- The queue of a packet: the lowest enabled one of its role, else of role 0 (R306); 4096 for none. -/
def chooseQueue (h : Hub) (p : Pkt) : Nat :=
  let qs := (queueSet h h.regs p.egr p.dock p.cls).filter (fun e => e.2)
  match qs.find? (fun e => decide (e.1 % 4 = pktRole p)) with
  | some e => e.1
  | none => match qs.find? (fun e => decide (e.1 % 4 = 0)) with
    | some e => e.1
    | none => 4096

/-- Port of a queue by its mapping. -/
def queuePort (h : Hub) (q : Nat) : Nat := fld h (aTmgQmap q) 0 5

/-! ### Flow hash and bucket maps (R298, R299) -/

/-- CRC-16 of a number of n bits. -/
def crc16Of (n v : Nat) : Nat := crc16 (bitsMsb n v)

/-- The bucket of a TID and FLOW (R298). -/
def flowBucket (tid flow : Nat) : Nat :=
  let x := crc16Of 32 (tid % 4096 * 65536 + flow % 65536)
  (x / 256) ^^^ (x % 256)

/-- Member trunks of a mask in ascending order. -/
def members (mask : Nat) : List Nat := bitsSet 8 mask

/-- Mask of the map in force of a dock. -/
def mapMask (h : Hub) (d : Nat) : Nat := fld h (aSwcGrpStatus d) 16 8

/-- The trunk that the map in force gives a bucket. -/
def mapTrunk (h : Hub) (d b : Nat) : Nat :=
  ((members (mapMask h d))[fld h (aSwcGrpMap d (b / 16)) (2 * (b % 16)) 2]?).getD 8

/-- Put a map of trunks in force for a mask. -/
def setMap (h : Hub) (d mask : Nat) (map : List Nat) : Hub :=
  let ms := members mask
  let h := setFld h (aSwcGrpStatus d) 16 8 mask
  (List.range 16).foldl (fun h k =>
    let v := (List.range 16).foldl (fun v i =>
      v + (ms.idxOf ((map[16 * k + i]?).getD 8) % 4) * 4 ^ i) 0
    wr h (aSwcGrpMap d k) (W v)) h

/-- A member's capacity in units of 25 Gbit/s (R139, R299). -/
def capacity (h : Hub) (n : Nat) : Nat :=
  if trkState h n = 7 ∨ trkState h n = 9 then popcount 4 (stripeSet h n) * 2 ^ fld h (aTrkStatus n) 6 2 else 0

/-- Targets of the members of a mask (R299): floors of 256 c / C, leftovers to the largest fractions, ties to the lower. -/
def targets (h : Hub) (mask : Nat) : List (Nat × Nat) :=
  let ms := members mask
  let c := ms.foldl (fun a n => a + capacity h n) 0
  let base := ms.map (fun n => (n, 256 * capacity h n / c, 256 * capacity h n % c))
  let left := 256 - base.foldl (fun a x => a + x.2.1) 0
  base.map (fun x =>
    let before := base.filter (fun y => decide (x.2.2 < y.2.2) || (decide (y.2.2 = x.2.2) && decide (y.1 < x.1)))
    (x.1, x.2.1 + (if before.length < left then 1 else 0)))

/-- A new map for a mask from the map in force, moving as few buckets as possible; none while no member is ACTIVE (R299). -/
def newMap (h : Hub) (d mask : Nat) : Option (List Nat) :=
  if (members mask).all (fun n => decide (capacity h n = 0)) then none
  else
    let ts := targets h mask
    if mapMask h d = 0 then some (ts.flatMap (fun t => List.replicate t.2 t.1))
    else
      let old := (List.range 256).map (mapTrunk h d)
      let tgt := fun n => ((ts.find? (fun t => decide (t.1 = n))).map (·.2)).getD 0
      let keep := fun (b : Nat) =>
        let n := (old[b]?).getD 8
        decide (((List.range b).filter (fun b' => decide ((old[b']?).getD 8 = n))).length < tgt n)
      let short := ts.flatMap (fun t =>
        List.replicate (t.2 - ((List.range 256).filter (fun b => decide ((old[b]?).getD 8 = t.1))).length) t.1)
      some ((List.range 256).map (fun b =>
        if keep b then (old[b]?).getD 8
        else (short[((List.range b).filter (fun b' => !keep b')).length]?).getD 8))

/-- Is a dock a group: more than one trunk (R217)? -/
def isGroup (h : Hub) (d : Nat) : Bool := decide (1 < popcount 8 (dockMask h d))

/-- A dock's map would change: the change waits for a fence (R300, R302). -/
def mapChange (h : Hub) (d : Nat) : Hub :=
  let mask := dockMask h d
  if !isGroup h d ∧ popcount 8 (mapMask h d) ≤ 1 then h
  else match newMap h d mask with
    | none => h
    | some m =>
      if mapMask h d = 0 then setMap h d mask m
      else if mapMask h d = mask ∧ (List.range 256).map (mapTrunk h d) = m ∧ (tfind h.swc.fences d).isNone then h
      else if h.swc.waiting.contains d then h
      else setFlag { h with swc := { h.swc with waiting := h.swc.waiting ++ [d] } } (aSwcGrpStatus d) 30 true

/-- A trunk's capacity has changed: the docks that use it look at their maps (R300). -/
def capacityChanged (h : Hub) (n : Nat) : Hub :=
  (createdDocks h).foldl (fun h d => if bitOf (dockMask h d) n then mapChange h d else h) h

/-! ### Entering (R278, R279) -/

/-- The pass and LOSSY of a packet (R278); a continuation takes those of its unit. -/
def passOf (type kind : Nat) : Nat × Bool :=
  match type with
  | 1 => (if kind = 2 then 1 else if kind = 1 then 3 else 2, false)
  | 2 => (if kind = 5 then 1 else if kind = 4 then 3 else 2, false)
  | 3 => (2, true)
  | 5 => (2, true)
  | _ => (0, false)

/-- The header of a packet bound for a trunk bears the binding of its end as it is queued: cells queued when the end closes are sent
under it (R123, R223). -/
def bindHdr (h : Hub) (egr : Nat) (x : Hdr) : Hdr :=
  if 8 ≤ egr then x
  else match resolveEnd h egr x.tid.toNat with
    | some e => { x with keyEn := e.keyEn, kslot := BitVec.ofNat 10 e.kslot }
    | none => x

/-- A new packet for the switch core. -/
def newPkt (h : Hub) (ing egr : Nat) (hdr : Hdr) (payload : List Byte) (unitKind dock cls src cells : Nat) : Hub × Pkt :=
  let hdr := bindHdr h egr hdr
  let pl := passOf hdr.type.toNat unitKind
  ({ h with swc := { h.swc with nextPkt := h.swc.nextPkt + 1 } },
   { id := h.swc.nextPkt, ing := ing, egr := egr, hdr := hdr, payload := payload, pass := pl.1, lossy := pl.2, red := false,
     cls := cls, dock := dock, queue := 4096, stamp := 0, bucket := none, order := 0, since := h.tim.coreClk, src := src, cells := cells, pool := egr,
     itid := hdr.tid.toNat })

/-- A packet's cells begin to be written at an ingress port. -/
def enter (h : Hub) (p : Pkt) : Hub :=
  { h with swc := { h.swc with entry := tmod [] h.swc.entry p.ing (fun l => l ++ [p]) } }

/-- The trunk tunnel group of a packet bound for a trunk. -/
def groupDock (h : Hub) (p : Pkt) : Option Nat :=
  if p.egr < 8 ∧ p.dock < 64 ∧ isGroup h p.dock then some p.dock else none

/-- Put a packet into its virtual output queue with the next stamp, and watch the limit (R279, R281). -/
def toVoq (h : Hub) (p : Pkt) : Hub :=
  let st := tget 0 h.swc.stamps p.ing
  let p := { p with stamp := st }
  let before := sharedFree h
  let was := voqCells h p.ing
  let h := setVoq h p.ing p.egr p.pass (voqAt h p.ing p.egr p.pass ++ [p])
  let h := { h with swc := { h.swc with stamps := tset 0 h.swc.stamps p.ing ((st + 1) % 2 ^ 24) } }
  let now := voqCells h p.ing
  let h := if fld h (aSwcPortVoquse p.ing) 16 16 < now then setFld h (aSwcPortVoquse p.ing) 16 16 (min 0xFFFF now) else h
  let lim := fld h (aSwcPortVoq p.ing) 0 16
  lowCheck before (if was < lim ∧ lim ≤ now then raise h 0x08 1 0 0 else h)

/-- Police a packet, choose its queue and put it into its VOQ, or drop it (R306, R322). -/
def queueIn (h : Hub) (p : Pkt) : Hub :=
  match police h p with
  | (h, none) => markClose h p.id 5
  | (h, some p) =>
    let note := fun (h : Hub) (q : Nat) => markSet h p.id (fun _ m => { m with egr := p.egr, queue := q, red := p.red })
    if p.pass = 0 ∨ 21 ≤ p.egr then toVoq (note h 4096) p
    else
      let q := chooseQueue h p
      if q = 4096 then markClose (count (note h q) (aSwcCntDrop p.egr) 1) p.id 2 else toVoq (note h q) { p with queue := q }

/-- Hold a packet in the fence of a dock (R300). -/
def fenceHold (h : Hub) (d : Nat) (f : Fence) (p : Pkt) : Hub :=
  let h := { h with swc := { h.swc with fences := tput h.swc.fences d { f with hold := f.hold ++ [p] } } }
  tally (count h (aSwcCntHeld p.ing) 1) 0x30 0x0306 1 (some (pktInfo p))

/-- A packet goes through the fences and maps of groups, then to its queue (R279, R298-R300). -/
def routeIn (h : Hub) (p : Pkt) : Hub :=
  let ack := match tfind h.swc.fences p.src with
    | some f => (match tfind f.upto p.ing with
        | some u => decide (u ≤ p.id)
        | none => false)
    | none => false
  if ack then
    match tfind h.swc.fences p.src with
    | some f => fenceHold h p.src f p
    | none => h
  else match groupDock h p with
    | none => queueIn h p
    | some d =>
      let b := flowBucket p.hdr.tid.toNat p.hdr.flow.toNat
      let p := { p with bucket := some b }
      match tfind h.swc.fences d with
      | some f => if bitOf f.moved.toNat b then fenceHold h d f p else queueIn h { p with egr := mapTrunk h d b }
      | none =>
        if (members (mapMask h d)).all (fun n => decide (capacity h n = 0)) then
          { h with swc := { h.swc with hold := tmod [] h.swc.hold d (fun l => l ++ [p]) } }
        else queueIn h { p with egr := mapTrunk h d b }

/-- The move whose tunnel a packet is bound for, while it holds packets (R225). -/
def heldMove (h : Hub) (p : Pkt) : Option Move :=
  h.tun.moves.find? (fun m => !m.done && decide (m.dst = p.egr) && decide (m.tid = p.hdr.tid.toNat))

/-- Is the hold store of a packet's move too full to take it (R225)? -/
def holdFull (h : Hub) (p : Pkt) : Bool :=
  match heldMove h p with
  | some m => decide (256 < cellsOf m.held + pktCells p)
  | none => false

/-- K-pass cells take the control reserve and then the shared pool: is there room in neither (R280, R281)? -/
def ctlFull (h : Hub) : Bool := decide (fld h aSwcCfg 16 13 ≤ looseCells h true) && decide (sharedFree h = 0)

/-- Is a packet kept back at its ingress port: by a full hold store, by the port's limit, or for want of cells (R225, R281)? -/
def keptBack (h : Hub) (i : Nat) (p : Pkt) : Bool :=
  holdFull h p || (decide (2 ≤ p.pass) && ingressFull h i) || (decide (p.pass = 0) && ctlFull h)

/-- Does one packet of an ingress port follow an earlier one: of one dock and type they keep their order, but for a PCIe packet
behind one that it may pass, which is not posted and of another pass (R237)? -/
def follows (p q : Pkt) : Bool :=
  decide (p.src = q.src) && decide (p.hdr.type = q.hdr.type) && decide (p.dock = q.dock) &&
    (decide (p.hdr.type ≠ 1) || decide (q.pass = 2) || decide (p.pass = q.pass))

/-- The first packet of a list that is not kept back and follows none that is, with the list without it. -/
def nextEntry (h : Hub) (i : Nat) : List Pkt → List Pkt → Option (Pkt × List Pkt)
  | _, [] => none
  | stay, p :: ps =>
    if keptBack h i p || stay.any (follows p) then nextEntry h i (stay ++ [p]) ps else some (p, stay ++ ps)

/-- One step of a mark generator: polynomial x^32 + x^22 + x^2 + x + 1, shifted left (R459). -/
def lfsrStep (x : BitVec 32) : BitVec 32 :=
  let v := x.toNat
  let b := (bitsOf v 31 1 + bitsOf v 21 1 + bitsOf v 1 1 + bitsOf v 0 1) % 2
  BitVec.ofNat 32 (v * 2 + b)

/-- Open the mark of a packet, or skip it while 1,024 are open or wait (R460, R461). -/
def openMark (h : Hub) (p : Pkt) : Hub × Pkt :=
  if bitOf h.mst.dpLost 14 then (h, p)
  else if 1024 ≤ h.tel.open_.length + h.tel.closed.length then (raise (count h aTelCntMarkSkip 1) 0x0F 2 0 0, p)
  else
    let tid := if p.ing < 8 then (if p.hdr.type = 3 ∨ p.hdr.type = 5 then p.itid else ((trunkEnd h p.src p.hdr.type.toNat).map (·.tid)).getD p.itid)
      else if p.ing ≤ 20 then ((portEndOf h p.ing p.src).map (·.tid)).getD p.itid else p.itid
    let m : Mark :=
      { pkt := p.id, clk := h.tim.coreClk, edge := h.tim.edges, t0 := hubNs h, ing := p.ing, egr := p.egr, tid := tid, queue := p.queue,
        dock := p.dock, len := p.payload.length, cls := p.cls, pass := p.pass, lossy := p.lossy, red := p.red, spilled := false,
        lookup := h.tim.coreClk - p.since, relink := none, spill := none, drain := none, firstOut := none, lastOut := none,
        fateAt := none, vint := h.txs.vintage.toNat, no := (h.tel.marks + 1) % 2 ^ 32, fate := 0 }
    let h := { h with tel := { h.tel with open_ := h.tel.open_ ++ [m], marks := h.tel.marks + 1 } }
    (count h aTelCntMarks 1, { p with hdr := { p.hdr with mark := true } })

/-- A packet enters the switch core at its ingress port: counters, and the mark generator of the port (R453, R459). -/
def markEntry (h : Hub) (p : Pkt) : Hub × Pkt :=
  let h := tally (tally h 0x30 0x0300 1 (some (pktInfo p))) 0x30 0x0301 (pktCells p) (some (pktInfo p))
  let k := fld h (aTelMarkCfg p.ing) 0 5
  if k = 0 then (h, p)
  else
    let x := lfsrStep (tget 0 h.tel.lfsr p.ing)
    let h := { h with tel := { h.tel with lfsr := tset 0 h.tel.lfsr p.ing x } }
    if x.toNat % 2 ^ k = 0 ∧ !p.hdr.mark then openMark h p else (h, p)

/-- A packet enters the core: its cells stand in casks, it is marked and goes to its virtual output queue (R279, R287, R459). -/
def enterCore (h : Hub) (p : Pkt) : Hub :=
  let r := placePkt h p
  let e := markEntry r.1 r.2
  routeIn e.1 e.2

/-- PACKET_ENTRY: the first packet of an ingress port that nothing keeps back enters, its last cell written (R279), or joins the hold
store of its tunnel's move, outside the casks (R225). A full hold store
keeps back the packets of its tunnel alone, a full port those of passes P and N (R225, R281). -/
def packetEntry (i : Nat) (h : Hub) : Hub :=
  match nextEntry h i [] (tget [] h.swc.entry i) with
  | none => h
  | some (p, ps) =>
    let rest := { h with swc := { h.swc with entry := tset [] h.swc.entry i ps } }
    match heldMove h p with
    | some m => { rest with tun := { rest.tun with moves := rest.tun.moves.map (fun x => if x = m then { x with held := x.held ++ [p] } else x) } }
    | none => enterCore rest p

/-! ### Spill (R292-R296) -/

def regionBase (h : Hub) : Nat := fld h aSwcSpill 0 10 * 2 ^ 26
def regionSize (h : Hub) : Nat := fld h aSwcSpill 16 7

/-- Barrels of a port's queues, written and open (R303). -/
def portBarrels (h : Hub) (j : Nat) : Nat :=
  h.swc.queues.foldl (fun n e =>
    if queuePort h e.1 = j then n + e.2.written.length + (if e.2.openSlot.isSome then 1 else 0) else n) 0

/-- The lowest free barrel slot of the region (R295, R444). -/
def freeBarrel (h : Hub) : Option Nat :=
  ((List.range (32640 * regionSize h)).map (· + 128 * regionSize h)).find? (fun k =>
    !tget false h.swc.slots k && !isHole h (regionBase h + 2048 * k))

/-- May a queue take another open barrel (R292)? No spill starts before the cellar is initialised (R446). -/
def spillCan (h : Hub) (q : Nat) : Bool :=
  let j := queuePort h q
  cellarReady h && flag h (aSwcQCfg q) 31 && decide (regionSize h ≠ 0) && decide (portBarrels h j < fld h (aSwcPortSpill j) 0 22) &&
    decide (16 ≤ sharedFree h) && (freeBarrel h).isSome

/-- Is the region, or the spill limit of a queue's port, full (R293, R303)? -/
def spillFull (h : Hub) (q : Nat) : Bool :=
  let j := queuePort h q
  decide (fld h (aSwcPortSpill j) 0 22 ≤ portBarrels h j) || (freeBarrel h).isNone

/-- Can the spill path take n cells for a queue (R283, R293)? -/
def spillTakes (h : Hub) (q n : Nat) : Bool :=
  let x := queueAt h q
  (x.openSlot.isSome && decide (x.openCells.length + n ≤ 16)) || spillCan h q

/-- The bytes of a packet in the cells (R275): header, payload, zero padding. -/
def pktData (p : Pkt) : List Byte :=
  let b := toBytes (hdrBytes p.hdr p.payload.length) ++ p.payload
  b ++ List.replicate (pktBytes p - b.length) 0

/-- Cut bytes into cells of 128; fuel bounds the count. -/
def cut128 : Nat → List Byte → List (List Byte)
  | 0, _ => []
  | n + 1, bs => if bs = [] then [] else bs.take 128 :: cut128 n (bs.drop 128)

def padCell (c : List Byte) : List Byte := c ++ List.replicate (128 - c.length) 0

/-- Write a link word (R295). -/
def writeLink (m : Mem) (h : Hub) (k next cells lead check : Nat) : Mem :=
  writeCellar m h (regionBase h + 8 * k) (leBytes 8 (next * 2 ^ 43 + cells * 2 ^ 38 + lead * 2 ^ 35 + check))

/-- Cells of discarded packets lead the barrels that follow: those to skip in each, and how many remain beyond the last. -/
def skipCells : List Barrel → Nat → List Barrel × Nat
  | [], n => ([], n)
  | b :: bs, n =>
    let k := min n (liveCells b)
    let r := skipCells bs (n - k)
    ({ b with skip := b.skip + k, lead := if k = 0 then b.lead else 0 } :: r.1, r.2)

/-- Packets of a spilled part whose first cell lies in the range [lo, hi) of its cells. -/
def packetsFrom : List Pkt → Nat → Nat → Nat → List Pkt
  | [], _, _, _ => []
  | p :: ps, at_, lo, hi =>
    let rest := packetsFrom ps (at_ + pktCells p) lo hi
    if lo ≤ at_ ∧ at_ < hi then p :: rest else rest

/-- Write the open barrel of a queue to the cellar (R293, R295). -/
def writeBarrel (m : Mem) (h : Hub) (q : Nat) : Mem × Hub :=
  let x := queueAt h q
  match x.openSlot with
  | none => (m, h)
  | some k =>
    let data := x.openCells.flatMap padCell
    let out := ((spillCells x).drop x.drained.length).map (·.2)
    let h := readCells h 2 (out.take x.openCells.length)
    let m := writeCellar m h (regionBase h + 2048 * k) data
    let m := writeLink m h k 0 x.openCells.length x.openLead (crc32 (toNats data))
    let h := unpoison h (regionBase h + 2048 * k) data.length
    let h := setQueue h q { x with
      written := x.written ++ [⟨k, x.openCells.length, x.openLead, 0⟩], openSlot := none, openCells := [], openLead := 0 }
    let h := (packetsFrom x.spill 0 (x.drained.length + cellsOfBarrels x.written) (x.drained.length + cellsOfBarrels x.written + x.openCells.length)).foldl
      (fun h p => markSet h p.id (fun h m => { m with spill := some (sinceMark h m) })) h
    let h := moved (tally h 0x30 0x0304 1 none) 2 true ((data.length + 63) / 64)
    (m, count h (aSwcCntSpill (queuePort h q)) 1)

/-- Open a new barrel for a queue; the link word of the queue's last written barrel names it (R295). -/
def openBarrel (m : Mem) (h : Hub) (q lead : Nat) : Option (Mem × Hub) :=
  if !spillCan h q then none
  else match freeBarrel h with
    | none => none
    | some k =>
      let x := queueAt h q
      let m := match x.written.getLast? with
        | some b =>
          let w := leNat (cellarBytes m (regionBase h + 8 * b.slot) 8)
          writeCellar m h (regionBase h + 8 * b.slot) (leBytes 8 (putBits w 43 21 k))
        | none => m
      let h := { h with swc := { h.swc with slots := tset false h.swc.slots k true } }
      let before := sharedFree h
      some (m, lowCheck before (setQueue h q { x with openSlot := some k, openCells := [], openLead := lead, openFrom := h.tim.coreClk }))

/-- Add cells to a queue's open barrel, writing full ones and opening more (R293). -/
def joinCells : List (List Byte) → Mem → Hub → Nat → Nat → Option (Mem × Hub)
  | [], m, h, _, _ => some (m, h)
  | c :: cs, m, h, q, first =>
    let x := queueAt h q
    let ready : Option (Mem × Hub) :=
      if x.openSlot.isSome ∧ x.openCells.length < 16 then some (m, h)
      else
        let w := writeBarrel m h q
        openBarrel w.1 w.2 q (if first = 1 then 0 else cs.length + 1)
    match ready with
    | none => none
    | some (m, h) =>
      let x := queueAt h q
      joinCells cs m (setQueue h q { x with openCells := x.openCells ++ [c] }) q 0

/-- A packet joins the open barrel of its queue; none where the spill path is full. -/
def joinBarrel (m : Mem) (h : Hub) (p : Pkt) : Option (Mem × Hub) :=
  match joinCells (cut128 8 (pktData p)) m h p.queue 1 with
  | none => none
  | some (m, h) =>
    let x := queueAt h p.queue
    let h := markSet h p.id (fun _ m => { m with spilled := true })
    some (m, setQueue h p.queue { x with spill := x.spill ++ [p], spilled := true })

/-- BARREL_WRITE: an open barrel of 16 cells, or 2 µs old, is written (R293). -/
def barrelWrite (q : Nat) (m : Mem) (h : Hub) : Mem × Hub :=
  let x := queueAt h q
  if x.openCells ≠ [] ∧ (x.openCells.length = 16 ∨ x.openFrom + 3200 ≤ h.tim.coreClk) then writeBarrel m h q else (m, h)

def execBarrelWrite (q : Fin 4096) (s : State) : Ans := s.actMem (barrelWrite q.val)

/-- A spilled queue with nothing written or drained and an empty cask part takes its open barrel's cells as its cask part and
leaves spill state (R294). -/
def unspill (h : Hub) (q : Nat) : Hub :=
  let x := queueAt h q
  if x.spilled ∧ x.written = [] ∧ x.drained = [] ∧ x.cask = [] then
    let slots := match x.openSlot with
      | some k => tset false h.swc.slots k false
      | none => h.swc.slots
    setQueue { h with swc := { h.swc with slots := slots } } q { Queue.empty with cask := x.spill }
  else h

/-- Packets of a spilled part with a cell in the range [lo, hi) of its cells. -/
def packetsIn : List Pkt → Nat → Nat → Nat → List Pkt
  | [], _, _, _ => []
  | p :: ps, at_, lo, hi =>
    let n := pktCells p
    let rest := packetsIn ps (at_ + n) lo hi
    if at_ < hi ∧ lo < at_ + n then p :: rest else rest

/-- A posted write lost in the switch core fails with code 0x03: recorded here for the bridge to report (R270, R296). -/
def lostWrites (l : List Pkt) : List Pkt := l.filter (fun p => decide (p.hdr.type = 1) && decide (p.hdr.kind = 0))

/-- Discard the next written barrel of a queue with every packet that has a cell in it (R296). The packets' other cells go
too; the packets discarded are handed back. -/
def dropBarrel (h : Hub) (q : Nat) : Hub × List Pkt :=
  let x := queueAt h q
  match x.written with
  | [] => (h, [])
  | b :: bs =>
    let lo := x.drained.length
    let gone := packetsIn x.spill 0 lo (lo + liveCells b)
    let ids := gone.map (·.id)
    let keep := x.spill.filter (fun p => !ids.contains p.id)
    -- cells of a discarded packet that were already drained leave with it
    let firstGone := (x.spill.takeWhile (fun p => !ids.contains p.id)).foldl (fun n p => n + pktCells p) 0
    let cut := lo - min lo firstGone
    let total := gone.foldl (fun n p => n + pktCells p) 0
    let after := total - cut - liveCells b
    let drained := x.drained.take (lo - cut)
    let reserve := match x.reserve.reverse with
      | r :: rs => if r ≤ cut then rs.reverse else ((r - cut) :: rs).reverse
      | [] => []
    let sk := skipCells bs after
    let h := setQueue { h with swc := { h.swc with slots := tset false h.swc.slots b.slot false } } q
      { x with spill := keep, written := sk.1, drained := drained, reserve := reserve, openCells := x.openCells.drop sk.2 }
    let h := raise (count h (aSwcCntLost (queuePort h q)) gone.length) 0x08 0 0 0
    (marksClose (unspill h q) gone 4, gone)

/-- The spilled queues of a port that may be given a reserve slot, the one whose spilled packets are oldest first (R294;
notes/assumptions/20.md). -/
def drainNext (h : Hub) (j : Nat) : Option Nat :=
  let used := h.swc.queues.foldl (fun n e => if queuePort h e.1 = j then n + e.2.reserve.length else n) 0
  if 8 ≤ used then none
  else
    let c := h.swc.queues.filter (fun e =>
      decide (queuePort h e.1 = j) && e.2.spilled && e.2.written != [] && decide (cellsOf e.2.cask ≤ 16))
    let best := c.foldl (fun (b : Option (Nat × Nat)) e =>
      let o := (e.2.spill.head?.map (·.since)).getD 0
      match b with
      | some (_, o') => if o < o' then some (e.1, o) else b
      | none => some (e.1, o)) none
    best.map (·.1)

/-- BARREL_READ: the port's next barrel is read back into the drain reserve; an uncorrectable read or a failing CHECK
discards it (R294, R296). The packets lost are handed back. -/
def barrelRead (j : Nat) (uncorr : Bool) (m : Mem) (h : Hub) : Hub × List Pkt :=
  match drainNext h j with
  | none => (h, [])
  | some q =>
    let x := queueAt h q
    match x.written with
    | [] => (h, [])
    | b :: bs =>
      let a := regionBase h + 2048 * b.slot
      let data := cellarBytes m a (128 * b.cells)
      let link := leNat (cellarBytes m (regionBase h + 8 * b.slot) 8)
      if uncorr ∨ rangeBad h a (128 * b.cells) ∨ rangeBad h (regionBase h + 8 * b.slot) 8 ∨
          bitsOf link 0 32 ≠ crc32 (toNats data) ∨ bitsOf link 38 5 ≠ b.cells then
        dropBarrel (countPoison h a (128 * b.cells)) q
      else
        let live := (cut128 16 data).drop b.skip
        let w := writeCells h 24 3 (slotNow h) live.length
        let h := setQueue { w.1 with swc := { w.1.swc with slots := tset false w.1.swc.slots b.slot false } } q
          { x with written := bs, drained := x.drained ++ live.zip w.2, reserve := x.reserve ++ (if live = [] then [] else [live.length]) }
        let lo := x.drained.length
        let h := (packetsFrom x.spill 0 lo (lo + live.length)).foldl
          (fun h p => markSet h p.id (fun h m => { m with drain := some (sinceMark h m) })) h
        (moved (tally (count h (aSwcCntDrain j) 1) 0x30 0x0305 1 none) 2 false (2 * b.cells), [])

/-! ### What a VOQ offers (R282, R283) -/

/-- a is older than b (R282). -/
def older (a b : Nat) : Bool :=
  let d := (b + 2 ^ 24 - a) % 2 ^ 24
  decide (1 ≤ d) && decide (d ≤ 2 ^ 23 - 1)

/-- Is a packet ready at its egress port (R283)? -/
def ready (h : Hub) (p : Pkt) : Bool :=
  let lim := fld h (aSwcQCfg p.queue) 0 19
  p.lossy || decide (p.pass ≤ 1) ||
  (if p.queue < 4096 ∧ (queueAt h p.queue).spilled then spillTakes h p.queue (pktCells p)
   else
    (decide (egressCells h p.egr + 5 ≤ fld h (aSwcPortQuota p.egr) 0 19) &&
      (decide (4096 ≤ p.queue) || decide (lim = 0) || decide (cellsOf (queueAt h p.queue).cask + 5 < lim))) ||
    (decide (p.queue < 4096) && spillCan h p.queue))

/-- The later packets of a batch: within 4 cells, and no other pass with an older head (R282). -/
def batchMore (others : List Pkt) : List Pkt → Nat → List Pkt
  | [], _ => []
  | p :: ps, used =>
    if used + pktCells p ≤ 4 ∧ others.all (fun o => !older o.stamp p.stamp) then
      p :: batchMore others ps (used + pktCells p)
    else []

/-- The batch that a pair of ports offers (R282, R283); empty for none. -/
def offer (h : Hub) (i j : Nat) : List Pkt :=
  let hd := fun pass => (voqAt h i j pass).head?
  let pass : Option Nat :=
    if (hd 0).isSome then some 0
    else
      let behind := fun (p : Pkt) => match hd 2 with
        | some o => older o.stamp p.stamp
        | none => false
      let el := ([hd 2, hd 1, hd 3].filterMap id).filter (fun p =>
        if p.pass = 2 then ready h p
        else if p.pass = 1 then !behind p
        else ready h p && !behind p)
      (el.foldl (fun (b : Option Pkt) p => match b with
        | some o => if older p.stamp o.stamp then some p else b
        | none => some p) none).map (·.pass)
  match pass with
  | none => []
  | some k =>
    match voqAt h i j k with
    | [] => []
    | p :: ps =>
      let others := (([0, 1, 2, 3].filter (fun x => decide (x ≠ k))).filterMap hd)
      p :: batchMore others ps (pktCells p)

/-! ### Spindle (R284-R286) -/

/-- A matching in progress: pairs, and the pairs of the first iteration. -/
structure Matching where
  pairs : List (Nat × Nat)
  first : List (Nat × Nat)
deriving DecidableEq, Repr

/-- The first of a list of ports at or after a pointer in rotating order. -/
def firstFrom (ptr : Nat) (l : List Nat) : Option Nat :=
  ((List.range 24).map (fun k => (ptr + k) % 24)).find? (fun p => l.contains p)

/-- Urgent ones if any, else all (R284). -/
def urgentFirst (l : List (Nat × Bool)) : List Nat :=
  let u := l.filter (fun e => e.2)
  (if u = [] then l else u).map (·.1)

/-- One iteration over the requests (ingress, egress, urgent). -/
def spindleIter (h : Hub) (req : List (Nat × Nat × Bool)) (m : Matching) (isFirst : Bool) : Matching :=
  let open_ := req.filter (fun r => m.pairs.all (fun x => decide (x.1 ≠ r.1) && decide (x.2 ≠ r.2.1)))
  let grants := (List.range 24).filterMap (fun j =>
    (firstFrom (fld h (aSwcPortPtr j) 0 5) (urgentFirst ((open_.filter (fun r => decide (r.2.1 = j))).map (fun r => (r.1, r.2.2))))).map
      (fun i => (i, j)))
  let accepts := (List.range 24).filterMap (fun i =>
    let mine := grants.filter (fun g => decide (g.1 = i))
    let urg := fun j => open_.any (fun r => decide (r.1 = i) && decide (r.2.1 = j) && r.2.2)
    (firstFrom (fld h (aSwcPortPtr i) 8 5) (urgentFirst (mine.map (fun g => (g.2, urg g.2))))).map (fun j => (i, j)))
  { pairs := m.pairs ++ accepts, first := if isFirst then accepts else m.first }

/-- The requests of a cell slot. -/
def spindleRequests (h : Hub) : List (Nat × Nat × Bool) :=
  let pairs := (h.swc.voq.map (fun e => e.1 / 4)).eraseDups
  pairs.filterMap (fun k =>
    let i := k / 24
    let j := k % 24
    if !portUp h i ∨ !portUp h j then none
    else match offer h i j with
      | [] => none
      | p :: _ => some (i, j, decide (p.pass ≤ 1)))

/-- Take the matched batches out of their VOQs. -/
def takeBatch (h : Hub) (i j : Nat) : Hub :=
  match offer h i j with
  | [] => h
  | p :: ps =>
    let l := p :: ps
    let h := setVoq h i j p.pass ((voqAt h i j p.pass).drop l.length)
    { h with swc := { h.swc with batches := h.swc.batches ++ [(j, l)] } }

/-- The matching of a cell slot in three iterations; pointers move on acceptances of the first (R284, R285). -/
def spindle (h : Hub) : Hub :=
  let req := spindleRequests h
  let m := spindleIter h req ⟨[], []⟩ true
  let m := spindleIter h req (spindleIter h req m false) false
  let h := tally h 0x30 0x0302 m.pairs.length none
  let h2 := m.pairs.foldl (fun h x => takeBatch h x.1 x.2) h
  m.first.foldl (fun h x =>
    setFld (setFld h (aSwcPortPtr x.2) 0 5 ((x.1 + 1) % 24)) (aSwcPortPtr x.1) 8 5 ((x.2 + 1) % 24)) h2

/-! ### Admission and push-out (R289-R291) -/

/-- Candidates for push-out at a port: lossy packets of the cask parts, newest admitted first (R290). -/
def candidates (h : Hub) (j : Nat) : List Pkt :=
  let l := h.swc.queues.flatMap (fun e => e.2.cask.filter (fun p => decide (p.egr = j) && p.lossy))
  sortBy (fun a b => decide (b.order ≤ a.order)) l

/-- The order in which candidates are taken for an arriving packet of a class (R291). -/
def victimOrder (cls : Nat) (l : List Pkt) : List Pkt :=
  (List.range 8).flatMap (fun c =>
    (if c ≤ cls then l.filter (fun p => decide (p.cls = c) && p.red) else []) ++
    (if c < cls then l.filter (fun p => decide (p.cls = c) && !p.red) else []))

/-- Take victims until they hold d cells. -/
def takeVictims : List Pkt → Nat → List Pkt
  | [], _ => []
  | p :: ps, d => if d = 0 then [] else p :: takeVictims ps (d - pktCells p)

/-- The victims that free d cells for a packet; empty when they cannot (R290). -/
def victims (h : Hub) (p : Pkt) (d : Nat) : List Pkt :=
  if p.red then []
  else
    let v := takeVictims (victimOrder p.cls (candidates h p.egr)) d
    if d ≤ cellsOf v then v else []

/-- Evict packets (R291). -/
def evict (h : Hub) (v : List Pkt) : Hub :=
  v.foldl (fun h p =>
    let x := queueAt h p.queue
    let h := setQueue h p.queue { x with cask := x.cask.filter (fun y => decide (y.id ≠ p.id)) }
    markClose (tally (count h (aSwcCntPushout p.egr) 1) 0x30 0x0303 1 (some (pktInfo p))) p.id 3) h

/-- A packet joins the cask part of its queue, or the list of a direct port. -/
def joinCask (h : Hub) (p : Pkt) : Hub :=
  if p.queue < 4096 then
    let x := queueAt h p.queue
    setQueue h p.queue { x with cask := x.cask ++ [p] }
  else { h with swc := { h.swc with direct := tmod [] h.swc.direct (p.egr * 4 + p.pass) (fun l => l ++ [p]) } }

/-- Admission of a packet at its egress port by the first rule that applies (R289). -/
def takeIn (mh : Mem × Hub) (p : Pkt) : Mem × Hub :=
  let m := mh.1
  let h := mh.2
  let j := p.egr
  let o := tget 0 h.swc.orders j
  let p := { p with order := o, since := h.tim.coreClk }
  let h := { h with swc := { h.swc with orders := tset 0 h.swc.orders j ((o + 1) % 2 ^ 32) } }
  let n := pktCells p
  let lim := fld h (aSwcQCfg p.queue) 0 19
  let x := queueAt h p.queue
  let inTree := decide (p.queue < 4096)
  let quota := fld h (aSwcPortQuota j) 0 19
  let fits := decide (egressCells h j + n ≤ quota)
  let limOk := !inTree || decide (lim = 0) || decide (cellsOf x.cask + n ≤ lim)
  let h := markSet h p.id (fun h m => { m with relink := some (sinceMark h m) })
  let drop := fun (h : Hub) => if p.lossy then markClose (count h (aSwcCntDrop j) 1) p.id 2 else joinCask h p
  if p.pass = 1 then (m, joinCask h p)
  else if p.pass = 0 then
    if j ≤ 20 then (m, { h with swc := { h.swc with sysq := tmod [] h.swc.sysq j (fun l => l ++ [p]) } })
    else (m, joinCask h p)
  else if inTree && x.spilled then
    match joinBarrel m h p with
    | some r => r
    | none => (m, drop (if spillFull h p.queue then raise h 0x08 3 0 0 else h))
  else if fits && limOk then (m, joinCask h p)
  else
    let v := if !fits && limOk && flag h (aSwcPortQuota j) 31 then victims h p (egressCells h j + n - quota) else []
    if v ≠ [] then (m, joinCask (evict h v) p)
    else if inTree && spillCan h p.queue then
      match joinBarrel m h p with
      | some r => r
      | none => (m, drop h)
    else
      let wants := inTree && flag h (aSwcQCfg p.queue) 31 && decide (regionSize h ≠ 0) &&
        decide (0 < fld h (aSwcPortSpill j) 0 22)
      (m, drop (if wants && spillFull h p.queue then raise h 0x08 3 0 0 else h))

/-- RELINK: matched batches are relinked and admitted (R286, R289). -/
def relink (m : Mem) (h : Hub) : Mem × Hub :=
  let b := h.swc.batches
  b.foldl (fun mh e => e.2.foldl takeIn mh) (m, { h with swc := { h.swc with batches := [] } })

def execRelink (s : State) : Ans := s.actMem relink

/-! ### Discarding (R167, R273, R297) -/

/-- Return the completion-pool cells of a packet (R264). -/
def releaseCells (h : Hub) (p : Pkt) : Hub :=
  if p.cells = 0 then h
  else { h with tun := { h.tun with cplUse := tmod 0 h.tun.cplUse p.pool (fun n => n - p.cells) } }

/-- Take every packet that a predicate takes out of the VOQs, batches, system queues, direct lists and egress queues; the
barrels of a queue emptied return to the region (R297). The packets taken are handed back. -/
def purge (h : Hub) (f : Pkt → Bool) : Hub × List Pkt :=
  let s := h.swc
  let part := fun (t : Tab (List Pkt)) => t.flatMap (fun e => e.2.filter f)
  let keep := fun (t : Tab (List Pkt)) => (t.map (fun e => (e.1, e.2.filter (fun p => !f p)))).filter (fun e => e.2 != [])
  let qs := s.queues.flatMap (fun e => (e.2.cask ++ e.2.spill).filter f)
  let gone := part s.voq ++ s.batches.flatMap (fun e => e.2.filter f) ++ part s.sysq ++ part s.direct ++ qs
  let trim := fun (x : Queue) =>
    let x := { x with cask := x.cask.filter (fun p => !f p) }
    if x.spill ≠ [] ∧ x.spill.all f then { Queue.empty with cask := x.cask } else x
  let freed := s.queues.flatMap (fun e =>
    if e.2.spill ≠ [] ∧ e.2.spill.all f then e.2.written.map (·.slot) ++ e.2.openSlot.toList else [])
  let h := { h with swc := { s with
    voq := keep s.voq
    batches := (s.batches.map (fun e => (e.1, e.2.filter (fun p => !f p)))).filter (fun e => e.2 != [])
    sysq := keep s.sysq
    direct := keep s.direct
    queues := (s.queues.map (fun e => (e.1, trim e.2))).filter (fun e => decide (e.2 ≠ Queue.empty))
    slots := freed.foldl (fun t k => tset false t k false) s.slots } }
  (marksClose (gone.foldl releaseCells h) gone 4, gone)

/-- Discard what is queued for a switch port; the packets are handed back (R167, R297). -/
def discardPort (h : Hub) (sp : Nat) : Hub × List Pkt := purge h (fun p => decide (p.egr = sp))

/-! ### Fences (R300-R302, R236) -/

/-- A header of a control, time or hub-built packet. -/
def plainHdr (type tid kind tag flow dev : Nat) : Hdr :=
  { type := BitVec.ofNat 4 type, tid := BitVec.ofNat 12 tid, vc := BitVec.ofNat 3 (vcFor type kind), keyEn := false, kslot := 0,
    kind := BitVec.ofNat 4 kind, tag := BitVec.ofNat 12 tag, flow := BitVec.ofNat 16 flow, dev := BitVec.ofNat 10 dev, mark := false,
    red := false, rsv := 0, pn := 0 }

/-- Send a control message of 64-bit units on a trunk (R215, R234); d is the dock it concerns, 64 for none. -/
def sendControl (h : Hub) (n kind d : Nat) (units : List Nat) : Hub :=
  let payload := units.flatMap (fun u => toBytes (beBytes 8 u))
  let r := newPkt h 22 n (plainHdr 0 0 kind 0 0 0) payload kind d 0 64 0
  enter r.1 r.2

/-- FENCE_NO of the next fence. -/
def fenceNo (h : Hub) : Nat := fld h aSwcFenceStatus 16 16

/-- FENCE_START: a waiting dock's fence begins when fewer than 8 run (R300, R302). -/
def fenceStart (d : Nat) (h : Hub) : Hub :=
  if !h.swc.waiting.contains d ∨ (tfind h.swc.fences d).isSome ∨ 8 ≤ h.swc.fences.length then h
  else
    let mask := dockMask h d
    let h := setFlag { h with swc := { h.swc with waiting := h.swc.waiting.filter (· ≠ d) } } (aSwcGrpStatus d) 30 false
    match newMap h d mask with
    | none => h
    | some m =>
      let old := (List.range 256).map (mapTrunk h d)
      if m = old ∧ mapMask h d = mask then h
      else
        let no := fenceNo h
        let moved := maskOf 256 (fun b => decide ((m[b]?).getD 8 ≠ (old[b]?).getD 8))
        let f : Fence := ⟨no, mapMask h d, mask, m, BitVec.ofNat 256 moved, 0, h.tim.edges, [], []⟩
        let h := setFld h aSwcFenceStatus 16 16 ((no + 1) % 65536)
        let h := setFld (setFlag h (aSwcGrpStatus d) 31 true) (aSwcGrpStatus d) 0 16 no
        let h := { h with swc := { h.swc with fences := tput h.swc.fences d f } }
        let u := no * 2 ^ 48 + d * 2 ^ 40 + f.oldMask * 2 ^ 32 + mask * 2 ^ 24
        (members (f.oldMask ||| mask)).foldl (fun h n => if trkState h n = 7 then sendControl h n 3 64 [u] else h) h

def execFenceStart (d : Fin 64) (s : State) : Ans := s.act (fenceStart d.val)

/-- FENCE_ACK from a trunk (R236, R301). -/
def fenceAck (n u0 : Nat) (h : Hub) : Hub :=
  let d := bitsOf u0 40 6
  match tfind h.swc.fences d with
  | some f =>
    if f.no ≠ bitsOf u0 48 16 ∨ !bitOf (f.oldMask ||| f.newMask) n then h
    else
      let f := { f with acked := f.acked ||| 2 ^ n, upto := if bitOf f.acked n then f.upto else tput f.upto n h.swc.nextPkt }
      { h with swc := { h.swc with fences := tput h.swc.fences d f } }
  | none => h

def execFenceAck (n : Fin 8) (u0 : BitVec 64) (s : State) : Ans := s.act (fenceAck n.val u0.toNat)

/-- A packet of a moved bucket still bound for its old member (R301). -/
def oldBound (h : Hub) (d : Nat) (f : Fence) (p : Pkt) : Bool :=
  decide (p.dock = d) && decide (p.egr < 8) &&
    (match p.bucket with
      | some b => bitOf f.moved.toNat b && decide (mapTrunk h d b = p.egr)
      | none => false)

/-- All packets in VOQs and batches. -/
def voqPackets (h : Hub) : List Pkt := h.swc.voq.flatMap (·.2) ++ h.swc.batches.flatMap (·.2)

/-- All packets in egress queues, those of the system queues among them. -/
def queuedPackets (h : Hub) : List Pkt := h.swc.queues.flatMap (fun e => e.2.cask ++ e.2.spill) ++ h.swc.sysq.flatMap (·.2)

/-- Do the three conditions of R301 hold? -/
def fenceOver (h : Hub) (d : Nat) (f : Fence) : Bool :=
  !(voqPackets h ++ queuedPackets h).any (oldBound h d f) &&
  (members (f.oldMask ||| f.newMask)).all (fun n => decide (trkState h n ≠ 7) || bitOf f.acked n) &&
  !(voqPackets h ++ h.swc.entry.flatMap (·.2)).any (fun p => decide (p.src = d) &&
    (match tfind f.upto p.ing with
      | some u => decide (p.id < u)
      | none => false))

/-- The new map takes effect and the held packets enter in arrival order (R301). -/
def fenceClose (h : Hub) (d : Nat) (f : Fence) : Hub :=
  let h := setFlag (setMap h d f.newMask f.newMap) (aSwcGrpStatus d) 31 false
  let held := f.hold ++ tget [] h.swc.hold d
  let h := { h with swc := { h.swc with fences := tdel h.swc.fences d, hold := tset [] h.swc.hold d [] } }
  mapChange (held.foldl routeIn h) d

/-- FENCE_END (R301). -/
def fenceEnd (d : Nat) (h : Hub) : Hub :=
  match tfind h.swc.fences d with
  | some f => if fenceOver h d f then fenceClose h d f else h
  | none => h

def execFenceEnd (d : Fin 64) (s : State) : Ans := s.act (fenceEnd d.val)

/-- FENCE_TIMEOUT: packets still queued for the old member are discarded (R301). -/
def fenceTimeout (d : Nat) (h : Hub) : Hub :=
  match tfind h.swc.fences d with
  | some f =>
    if edgesSince h f.edge < fld h aSwcFenceCfg 16 8 then h
    else
      let r := purge h (oldBound h d f)
      let h := r.2.foldl (fun h p => count h (aSwcCntLost p.egr) 1) r.1
      raise (fenceClose h d f) 0x08 4 0 0
  | none => h

def execFenceTimeout (d : Fin 64) (s : State) : Ans := s.act (fenceTimeout d.val)

/-- Cells a fence holds: at HOLD the dock's ingress trunks withhold credit (R301). -/
def fenceFull (h : Hub) (n : Nat) : Bool :=
  h.swc.fences.any (fun e => bitOf (e.2.oldMask ||| e.2.newMask) n && decide (fld h aSwcFenceCfg 0 16 ≤ cellsOf e.2.hold))

/-- Does a packet of a VC wait at a trunk: a request for a tag or for completion space, or a packet for a full hold store (R225, R240,
R265)? -/
def vcWaits (h : Hub) (n vc : Nat) : Bool :=
  (h.tun.waitTag ++ h.tun.waitPool).any (fun e => decide (e.1 = n) && decide (e.2.hdr.vc.toNat = vc)) ||
    (tget [] h.swc.entry n).any (fun p => decide (p.hdr.vc.toNat = vc) && holdFull h p)

/-- Is credit of a VC withheld on a trunk (R225, R240, R265, R281, R301)? A full port leaves VC 0, 3 and 7 flowing; K-pass cells
beyond the control reserve and the shared pool hold VC 0 and VC 7. -/
def creditWithheld (h : Hub) (n vc : Nat) : Bool :=
  vcWaits h n vc || ((vc = 0 || vc = 7) && ctlFull h) ||
    ((vc = 1 || vc = 2 || vc = 4 || vc = 5 || vc = 6) && (ingressFull h n || fenceFull h n))

/-! ### Tags when a host end vanishes (R268, R273) -/

def setTag (h : Hub) (n : Nat) (t : Tag) : Hub := { h with tun := { h.tun with tags := tput h.tun.tags n t } }

/-- A tag enters discard state (R268). -/
def discardTag (h : Hub) (n : Nat) : Hub :=
  match tfind h.tun.tags n with
  | some t => if t.discard.isSome then h else setTag h n { t with discard := some h.tim.edges }
  | none => h

/-- The tags that a predicate takes enter discard state. -/
def discardTags (h : Hub) (f : Tag → Bool) : Hub :=
  ((h.tun.tags.filter (fun e => f e.2)).map (·.1)).foldl discardTag h

/-- No member trunk of a dock is ACTIVE any more: its host's and devices' outstanding requests enter discard state (R268,
R273). -/
def hostGone (h : Hub) (d : Nat) : Hub :=
  if hostReachable h d then h
  else discardTags h (fun g => decide (g.dock = d) && (g.toHost || decide (g.retSp < 8)))

/-- A trunk goes down: what is queued for its switch port is discarded and counted (R167, R297). -/
def trunkDown (h : Hub) (n : Nat) : Hub :=
  let r := discardPort { h with tun := { h.tun with notices := tset 0 h.tun.notices n 0 } } n
  let h := capacityChanged (count r.1 (aTrkCntDrop n) r.2.length) n
  (createdDocks h).foldl (fun h d => if bitOf (dockMask h d) n then hostGone h d else h) h

end Sys2Proof.Machine
end

