-- ==== Sys2Proof/Machine/Line.lean ====
section
/-!
DEFINITION. The line coding of a trunk lane (R139-R146, R149): data units, blocks, scrambler, Reed-Solomon codewords, line
symbols, commas, and the dealing of staves to the lanes of the set.
-/
namespace Sys2Proof.Machine

/-! ### Reed-Solomon codewords (R139, R141) -/

/-- A symbol times α in GF(2^10), by x^10 + x^3 + 1 (IEEE 802.3 Clause 91; notes/assumptions/141.md). -/
def gfShift (a : Nat) : Nat := if 2 * a < 1024 then 2 * a else (2 * a) ^^^ 0x409

/-- The product of two symbols, from n bits of the second. -/
def gfMul : Nat → Nat → Nat → Nat
  | 0, _, _ => 0
  | n + 1, a, b => (if b % 2 = 1 then a else 0) ^^^ gfMul n (gfShift a) (b / 2)

/-- The sum of two polynomials of one length. -/
def gfAdd (a b : List Nat) : List Nat := List.zipWith (· ^^^ ·) a b

/-- The generator with roots α^0 to α^(p-1), highest coefficient first, with the next root. -/
def rsGenerator : Nat → List Nat × Nat
  | 0 => ([1], 1)
  | p + 1 =>
    let g := rsGenerator p
    (gfAdd (g.1 ++ [0]) (0 :: g.1.map (gfMul 10 g.2)), gfShift g.2)

/-- The parity symbols of a message, in transmit order: its remainder by the generator (R141). -/
def rsParity (p : Nat) (msg : List Nat) : List Nat :=
  let g := (rsGenerator p).1.drop 1
  msg.foldl (fun r m =>
    let f := m ^^^ (r.head?.getD 0)
    gfAdd (r.drop 1 ++ [0]) (g.map (gfMul 10 f))) (List.replicate p 0)

/-- Parity symbols at a rate: RS(528,514) at BL-25, RS(544,514) above it (R139). -/
def fecParity (rate : Nat) : Nat := if rate = 0 then 14 else 30

/-- May a codeword with this many wrong symbols be corrected: at most half as many as its parity symbols (R141)?
DEDUCED (notes/assumptions/142.md). -/
def fecCorrects (rate wrong : Nat) : Bool := decide (2 * wrong ≤ fecParity rate)

/-- The symbols of twenty blocks of 257 bits: 10 line bits each, the earlier bit lowest (R141). -/
def blockSymbols (blocks : List Nat) : List Nat :=
  let v := blocks.foldr (fun b a => b % 2 ^ 257 + a * 2 ^ 257) 0
  (List.range 514).map (fun i => v / 2 ^ (10 * i) % 1024)

/-- A codeword: the message first, then its parity (R141). -/
def codeword (rate : Nat) (blocks : List Nat) : List Nat := blockSymbols blocks ++ rsParity (fecParity rate) (blockSymbols blocks)

/-! ### Line symbols (R143) -/

/-- The Gray-coded level of a pair of line bits, the earlier one lowest. -/
def pam4Level (v : Nat) : Int :=
  match v % 4 with
  | 0 => -3
  | 1 => -1
  | 3 => 1
  | _ => 3

/-- The line symbols of n bits, the lowest first: levels of pairs on PAM4, the bits themselves on NRZ. -/
def lineSymbols (rate n v : Nat) : List Int :=
  if rate = 0 then (List.range n).map (fun i => ((v / 2 ^ i % 2 : Nat) : Int))
  else (List.range (n / 2)).map (fun i => pam4Level (v / 4 ^ i))

/-! ### Blocks (R140, R142, R144, R145) -/

/-- Scramble the lowest n bits of a value: the scrambled bits and the state after them. -/
def scramble : Nat → Nat → Nat → Nat × Nat
  | 0, s, _ => (0, s)
  | n + 1, s, v =>
    let o := (s / 2 ^ 57 + s / 2 ^ 38) % 2
    let r := scramble n ((2 * s + o) % 2 ^ 58) (v / 2)
    ((v + o) % 2 + 2 * r.1, r.2)

/-- The state of a lane's scrambler before the first data bit after a comma (R142). -/
def scramblerSeed (lane : Nat) : Nat := 0x155555555555500 + lane

/-- A data block: H = 1, then the unit scrambled (R140). -/
def dataBlock (scr unit : Nat) : Nat × Nat :=
  let r := scramble 256 scr unit
  (1 + 2 * r.1, r.2)

/-- The body of a comma block (R145); stripe position 15 outside the set. -/
def commaBody (lane stripe count mask no phase : Nat) : Nat :=
  let lo := lane + stripe * 16
  let hi := count + mask * 16
  0x9C3A6E15B2D48F0761CB53A8 + lo * 2 ^ 96 + hi * 2 ^ 104 + (255 - (lo ^^^ hi)) * 2 ^ 112 + no * 2 ^ 120 + phase * 2 ^ 136

/-- The eight data units of a stave: byte j of a unit in its bits [8j+7:8j] (R144, R149). -/
def staveUnits (header : Word64) (body : List Word64) : List Nat :=
  let bs := unitBytes (header :: body)
  (List.range 8).map (fun i => ((bs.drop (32 * i)).take 32).foldr (fun (b : Byte) (a : Nat) => b.toNat + 256 * a) 0)

/-! ### The lanes' streams (R146, R149) -/

/-- The lanes that carry staves: the stripe set once the link has one; before that every lane that trains, so that the stream has
positions (notes/assumptions/143.md). -/
def sendSet (h : Hub) (n : Nat) : Nat :=
  let serving := maskOf 4 (fun k => flag h (aTrkCtl n) (4 + k) && !laneRetired h (4 * n + k))
  if 7 ≤ trkState h n then stripeSet h n
  else if 4 ≤ trkState h n then (trk h n).chosen &&& serving
  else serving

/-- Codewords from comma to comma: 4,096 from CONFIRM onward, 16 in training and RECOVERY (R146). -/
def commaPeriod (st : Nat) : Nat := if st = 6 ∨ st = 7 ∨ st = 9 then 4096 else 16

/-- Is a comma due: at the start of a stream, then at each period (R146, R147)? -/
def commaDue (h : Hub) (n : Nat) : Bool :=
  match (trk h n).sinceComma with
  | none => true
  | some c => decide (commaPeriod (trkState h n) ≤ c) && decide (c % 16 = 0)

/-- Add a block to a lane's codeword; a lane joins at a codeword's first block, and a full codeword goes to the line. -/
def pushBlock (h : Hub) (n k block scr : Nat) : Hub :=
  let t := trk h n
  let l := tget LaneTx.idle t.laneTx k
  if l.blocks.length ≠ t.slot then h
  else
    let blocks := l.blocks ++ [block]
    if blocks.length < 20 then setTrk h n { t with laneTx := tput t.laneTx k ⟨scr, blocks⟩ }
    else
      let rate := fld h (aTrkStatus n) 6 2
      let line := (codeword rate blocks).flatMap (lineSymbols rate 10)
      send (setTrk h n { t with laneTx := tput t.laneTx k ⟨scr, []⟩ }) (.line n k line)

/-- The lanes' next block has gone. -/
def nextSlot (h : Hub) (n : Nat) : Hub :=
  modTrk h n (fun t => if t.slot + 1 < 20 then { t with slot := t.slot + 1 }
    else { t with slot := 0, sinceComma := t.sinceComma.map (· + 1) })

/-- A comma block on every lane that sends, with the next COMMA_NO (R145, R146). -/
def sendComma (h : Hub) (n set all phase : Nat) : Hub :=
  let no := (fld h (aTrkStatus n) 16 16 + 1) % 65536
  let h := setFld h (aTrkStatus n) 16 16 no
  let h := (bitsSet 4 all).foldl (fun h k =>
    let stripe := if bitOf set k then popcount k set else 15
    pushBlock h n k (2 * commaBody k stripe (popcount 4 set) set no phase) (scramblerSeed k)) h
  modTrk (nextSlot h n) n (fun t => { t with sinceComma := some 0 })

/-- The header of a stave (R150): ACK, NAK and the credit report of VC `cvc`. -/
def staveHeader (h : Hub) (n type seq vc fpo : Nat) (body : List Word64) : Word64 :=
  let t := trk h n
  let ack := (fld h (aTrkSeq n) 16 12 + 4095) % 4096
  let hi := type * 2 ^ 60 + seq % 4096 * 2 ^ 48 + ack * 2 ^ 36 + (if t.nak then 2 ^ 35 else 0) + vc * 2 ^ 32 +
    fpo * 2 ^ 27 + t.nextCvc * 2 ^ 24 + tget 0 t.freedMine t.nextCvc % 256 * 2 ^ 16
  let crc := crc16 ((bitsMsb 48 (hi / 65536) ++ bitsMsb 16 0) ++ body.flatMap (fun u => bitsMsb 64 u.toNat))
  BitVec.ofNat 64 (hi + crc)

/-- A NULL stave's data units. -/
def nullUnits (h : Hub) (n : Nat) : List Nat :=
  let body := List.replicate 31 (0 : Word64)
  staveUnits (staveHeader h n 0 (fld h (aTrkSeq n) 0 12) 0 31 body) body

/-- One data-unit slot of a round: a comma first where one is due, then the unit of every lane (R146, R149). -/
def sendSlot (set all : Nat) (units : List (List Nat)) (null : List Nat) (n : Nat) (h : Hub) (j : Nat) : Hub :=
  let h := if (trk h n).slot = 0 ∧ commaDue h n then sendComma h n set all j else h
  let h := (bitsSet 4 all).foldl (fun h k =>
    let us := if bitOf set k then (units[popcount k set]?).getD null else null
    let b := dataBlock (tget LaneTx.idle (trk h n).laneTx k).scr (us[j]?.getD 0)
    pushBlock h n k b.1 b.2) h
  nextSlot h n

/-- A full round goes out in the same eight slots of every lane; a lane that is to join carries NULL staves (R149, R175). -/
def sendRound (h : Hub) (n : Nat) : Hub :=
  let set := sendSet h n
  let all := set ||| (trk h n).joining
  let units := (trk h n).round.map (fun s => staveUnits s.1 s.2)
  let null := nullUnits h n
  let h := modTrk h n (fun t => { t with round := [] })
  (List.range 8).foldl (sendSlot set all units null n) h

/-- Deal a stave to the next position of the round (R149). -/
def dealStave (h : Hub) (n : Nat) (header : Word64) (body : List Word64) : Hub :=
  let set := sendSet h n
  let p := (trk h n).round.length
  let h := send h (.stave n ((bitsSet 4 set)[p]?.getD 4) header body)
  let h := modTrk h n (fun t => { t with round := t.round ++ [(header, body)] })
  if popcount 4 set ≤ p + 1 then sendRound h n else h

/-- A stream starts anew: no codeword under way, a comma first (R146, R164). -/
def newStream (t : TrkSt) : TrkSt := { t with slot := 0, sinceComma := none, laneTx := [], round := [] }

/-! ### Training bursts (R169) -/

/-- n bits of PRBS13 from a state: x^13 + x^12 + x^2 + x + 1 (R205). -/
def prbs13 : Nat → Nat → List Nat
  | 0, _ => []
  | n + 1, s =>
    let b := (s / 2 ^ 12 + s / 2 ^ 11 + s / 2 + s) % 2
    b :: prbs13 n ((2 * s + b) % 2 ^ 13)

/-- The 4,096 symbols of a burst on a lane from a start state of the generator: PRBS13, then the 120-bit comma. -/
def burstSymbols (rate seed lane stripe count mask : Nat) : List Int :=
  let comma := lineSymbols rate 120 (commaBody lane stripe count mask 0 0 % 2 ^ 120)
  let bits := prbs13 (if rate = 0 then 3976 else 8072) seed
  let v := bits.foldr (fun b a => b + 2 * a) 0
  lineSymbols rate bits.length v ++ comma

/-- A training burst on the lanes of a mask; where the generator starts is free. -/
def sendBurst (h : Hub) (n mask : Nat) : Hub :=
  let set := stripeSet h n
  let rate := fld h (aTrkStatus n) 6 2
  (bitsSet 4 mask).foldl (fun h k =>
    let stripe := if bitOf set k then popcount k set else 15
    let h1 := send (drawFree h).1 (.burst n k (burstSymbols rate ((drawFree h).2.toNat % 8191 + 1) k stripe (popcount 4 set) set))
    modTrk h1 n (fun t => { t with laneTx := tput t.laneTx k ⟨scramblerSeed k, []⟩ })) h

end Sys2Proof.Machine
end

