-- ==== Sys2Proof/Machine/Trunk.lean ====
section
/-!
DEFINITION. The trunk link (chapter 5): commas and training, staves with sequence numbers, replay and credits, recovery,
electrical idle, stripe changes and time tokens.
-/
namespace Sys2Proof.Machine

/-- The lanes of a mask that are in service. -/
def inService (h : Hub) (n mask : Nat) : Nat := maskOf 4 (fun k => bitOf mask k && !laneRetired h (4 * n + k))

/-- Lanes of TRK_CTL.LANE_MASK in service, by physical index. -/
def trunkLanes (h : Hub) (n : Nat) : Nat := inService h n (fld h (aTrkCtl n) 4 4)

/-- Symbol rate in MBd of a trunk rate; that of BL-50 lies half-way and the rounding is open. -/
def trunkBaud (h : Hub) (rate : Nat) : Hub × Nat :=
  match rate with
  | 0 => (h, 25781)
  | 1 => ((drawFree h).1, 26562 + (drawFree h).2.toNat % 2)
  | _ => (h, 53125)

/-- Set the state of the lanes of a mask (LANE_STATUS.STATE, PAM4 and BAUD). -/
def setLanes (h : Hub) (n mask st rate : Nat) : Hub :=
  let hb := trunkBaud h rate
  (bitsSet 4 mask).foldl (fun h k => laneSet h (4 * n + k) st hb.2 (decide (rate ≠ 0))) hb.1

/-- A full training starts the lanes of a mask from their seeds for a rate (R190). -/
def seedLanes (h : Hub) (n mask rate : Nat) : Hub :=
  (bitsSet 4 mask).foldl (fun h k => seedLane h (4 * n + k) (trunkBaud h rate).2 (decide (rate ≠ 0))) h

/-- What a full training brings the lanes of a mask to. -/
def trainLanes (h : Hub) (n mask : Nat) : Hub := (bitsSet 4 mask).foldl (fun h k => trainLane h (4 * n + k)) h

/-- Enter a link state (R164). -/
def trkEnter (h : Hub) (n st : Nat) : Hub :=
  modTrk (setFld h (aTrkStatus n) 0 4 st) n (fun t => { t with sent := 0 })

/-- Forget all comma locks of a trunk. -/
def unlockAll (h : Hub) (n : Nat) : Hub :=
  modTrk ((List.range 4).foldl (fun h k => setFlag h (aLaneStatus (4 * n + k)) 25 false) h) n (fun t => { t with locks := [] })

/-- The comma record of a trunk's lane. -/
def laneLock (h : Hub) (n k : Nat) : LaneLock := tget LaneLock.none (trk h n).locks k

/-- Lanes of a trunk with comma lock. -/
def lockedLanes (h : Hub) (n : Nat) : Nat :=
  maskOf 4 (fun k => (laneLock h n k).locked)

/-- Are the lanes of a mask locked and deskewed: their last commas of one COMMA_NO, within 128 ns of one another (R148)? -/
def deskewed (h : Hub) (n mask : Nat) : Bool :=
  let ls := (bitsSet 4 mask).map (laneLock h n)
  ls.all (fun a => a.locked && ls.all (fun b => decide (a.no = b.no) && decide (a.arrival ≤ b.arrival + 128000)))

/-- Has a lane of the set lost its deskew: a comma of the same COMMA_NO came on another more than 128 ns apart (R148, R166)? -/
def deskewLost (h : Hub) (n mask : Nat) : Bool :=
  let ls := (bitsSet 4 mask).map (laneLock h n)
  ls.any (fun a => ls.any (fun b => a.locked && b.locked && decide (a.no = b.no) && decide (b.arrival + 128000 < a.arrival)))

/-- TRK_LANE_MAP of a stripe set: positions in ascending physical lane order (R171, R183). -/
def setLaneMap (h : Hub) (n mask : Nat) : Hub :=
  let byte := fun k =>
    let p := (laneLock h n k).partner
    p % 4 * 4 + (if bitOf mask k then 16 + popcount k mask else 0)
  wr h (aTrkLaneMap n) (W (byte 0 + byte 1 * 2 ^ 8 + byte 2 * 2 ^ 16 + byte 3 * 2 ^ 24))

/-- Put a stripe set in force. -/
def setStripe (h : Hub) (n mask : Nat) : Hub := setLaneMap (setFld h (aTrkStatus n) 8 4 mask) n mask

/-- DETECT: the BL-25 stream on every lane of LANE_MASK in service (R164); no lane is out of a set by its partner's wish (R174). -/
def toDetect (h : Hub) (n : Nat) : Hub :=
  let m := trunkLanes h n
  let h := setStripe (setFld (unlockAll (trkEnter h n 1) n) (aTrkStatus n) 6 2 0) n 0
  let h := setFld h (aTrkStatus n) 12 4 0
  let h := modTrk h n (fun t => { TrkSt.idle with ceiling := t.ceiling, nextChange := t.nextChange, txq := t.txq })
  seedLanes (setLanes h n m 1 0) n m 0

/-- Every RES.RESTORE that runs or waits for a resource that is back in service completes OK (R478). -/
def settleRestores (h : Hub) (cls idx : Nat) : Hub :=
  let mine := h.flt.restores.filter (fun r => decide (r.1 = cls) && decide (r.2.1 = idx))
  let h := { h with flt := { h.flt with restores := h.flt.restores.filter (fun r => !(decide (r.1 = cls) && decide (r.2.1 = idx))) } }
  mine.foldl (fun h r => settle h r.2.2 .ok 0) h

/-- A resource returns to service (R477): its LEVEL is 0, its bit of FLT_RETc_w clears, a RESTORED record is written. -/
def restoredRes (h : Hub) (cls idx : Nat) : Hub :=
  let h := setFlag (wr h (aFltBkt cls idx) 0) (aFltRet cls (idx / 32)) (idx % 32) false
  settleRestores (count (faultRecord h 3 0 cls idx 0 0) aFltCntRestore 1) cls idx

/-- A lane's retirement clears (R175, R211, R477). -/
def clearRetired (h : Hub) (l : Nat) : Hub :=
  if !laneRetired h l then h
  else
    let h := laneTo (setFlag h (aLaneRetired (l / 32)) (l % 32) false) l 0
    restoredRes { h with dsp := { h.dsp with fails := tset 0 h.dsp.fails l 0 } } 0 l

/-- The commands of a trunk's changes when the link goes down: a LANE.RETIRE ends TIMEOUT (R173); of a RES.RESTORE the test alone
decides, and the lane has passed it (R175). -/
def changesDown (h : Hub) (n : Nat) : Hub :=
  let t := trk h n
  let all := t.change.toList.map (fun c => (c.isReturn, c.lane, c.waiter)) ++ t.todo
  all.foldl (fun h c =>
    match c.2.2 with
    | some id => if c.1 then clearRetired h (4 * n + c.2.1) else settle h id .timeout 0
    | none => h) (modTrk h n (fun t => { t with change := none, theirs := none, todo := [] }))

/-- Link-down (R167): the replay buffer and every packet that waits for the trunk, whole or in part, is discarded and counted. -/
def linkDown (h : Hub) (n : Nat) : Hub :=
  let t := trk h n
  let h := count h (aTrkCntLost n) t.replay.length
  let h := fatesFinal (count h (aTrkCntDrop n) (t.txq.length + t.under.length)) (fun f => decide (f.port = n)) false
  let h := modTrk h n (fun t => { t with replay := [], txq := [], tx := [], under := [], rx := [], resync := 0 })
  let h := changesDown (setFld h (aTrkReplayStatus n) 0 10 0) n
  let h := setFld (wr h (aTunHello n) 0) (aTrkStatus n) 0 4 1
  raise (trunkDown h n) 0x05 1 n 0

/-- TRK_CTL.EN = 1 from DISABLED: DETECT with the ceiling at MAX_RATE (R164). -/
def trunkEnable (h : Hub) (n : Nat) : Hub :=
  toDetect (modTrk h n (fun t => { t with ceiling := fld h (aTrkCtl n) 1 2 })) n

/-- TRK_CTL.EN = 0: link-down, then electrical idle (R167). -/
def trunkDisable (h : Hub) (n : Nat) : Hub :=
  let h := if trkState h n = 0 then h else linkDown h n
  let h := setStripe (trkEnter h n 0) n 0
  unlockAll (setLanes h n (inService h n 15) 0 0) n

/-! ### Link messages and staves out -/

/-- A link message's first unit from its code and fields. -/
def linkUnit (code fields : Nat) : Word64 := BitVec.ofNat 64 (code * 2 ^ 56 + fields)

/-- Pad a body to 31 units with zero units. -/
def padBody (l : List Word64) : List Word64 := l ++ List.replicate (31 - l.length) 0

/-- Bits of a 64-bit unit, its first byte first (R144). -/
def unitBits (u : Word64) : List Bool := bitsMsb 64 u.toNat

/-- SCRC of a stave: CRC-16-CCITT over its bytes with bytes 6-7 zero (R150). -/
def staveCrc (header : Word64) (body : List Word64) : Nat :=
  crc16 ((bitsMsb 48 (header.toNat / 65536) ++ bitsMsb 16 0) ++ body.flatMap unitBits)

/-- Credit withheld for a lack of room returns when there is room again (R281). -/
def returnOwed (h : Hub) (n : Nat) : Hub :=
  (trk h n).owed.foldl (fun h e =>
    if creditWithheld h n e.1 then h
    else modTrk h n (fun t => { t with
      owed := tdel t.owed e.1, freedMine := tmod 0 t.freedMine e.1 (fun c => (c + e.2) % 256) })) h

/-- Send a stave: its header with ACK, NAK and the rotating credit report (R150, R158), dealt to a lane (R149). -/
def sendStave (h : Hub) (n type seq vc fpo : Nat) (body : List Word64) : Hub :=
  let h := returnOwed h n
  let h := if type = 1 then tally h (0x10 + n) 0x0100 1 none else h
  let header := staveHeader h n type seq vc fpo body
  dealStave (modTrk h n (fun t => { t with nextCvc := (t.nextCvc + 1) % 8, sent := t.sent + 1 })) n header body

/-- SEQ of the next new DATA stave. -/
def nextSeq (h : Hub) (n : Nat) : Nat := fld h (aTrkSeq n) 0 12

def sendNull (h : Hub) (n : Nat) : Hub := sendStave h n 0 (nextSeq h n) 0 31 (padBody [])

def sendLink (h : Hub) (n : Nat) (units : List Word64) : Hub := sendStave h n 2 (nextSeq h n) 0 31 (padBody units)

/-- Queue a link message. -/
def queueLink (h : Hub) (n : Nat) (units : List Word64) : Hub :=
  modTrk h n (fun t => { t with linkq := t.linkq ++ [units] })

/-- Highest rate code the hub offers: MAX_RATE and the ceiling (R164). -/
def rateCap (h : Hub) (n : Nat) : Nat := min (fld h (aTrkCtl n) 1 2) (trk h n).ceiling

/-- The hub's TS1 (R163). -/
def ts1Units (h : Hub) (n : Nat) : List Word64 :=
  let t := trk h n
  [linkUnit 0x01 (2 ^ 55 + (2 ^ (rateCap h n + 1) - 1) * 2 ^ 51 + lockedLanes h n * 2 ^ 47 +
      (if t.ts1.isSome then 2 ^ 46 else 0) + n % 8 * 2 ^ 43 + fld h aTimHubTag 0 16 * 2 ^ 24),
    BitVec.ofNat 64 (rd64 h aTimPtpIdLo)]

/-- The rate both ends chose: the highest set in both RATES fields under the hub's limits (R164). -/
def chooseRate (h : Hub) (n : Nat) (u0 : Word64) : Nat :=
  let theirs := bitsOf u0.toNat 51 3
  if bitOf theirs 2 && decide (2 ≤ rateCap h n) then 2
  else if bitOf theirs 1 && decide (1 ≤ rateCap h n) then 1 else 0

/-! ### Training (R163-R165) -/

/-- EQUALISE. -/
def toEqualise (h : Hub) (n : Nat) : Hub :=
  modTrk (trkEnter h n 5) n (fun t => { t with eqMine := false, eqTheirs := false, eqSent := [] })

/-- Two identical TS1 with ACKED received and eight sent: TS2 goes and the rate is switched (R164). -/
def tryTs2 (h : Hub) (n : Nat) : Hub :=
  let t := trk h n
  match t.ts1 with
  | none => h
  | some (u0, _) =>
    if trkState h n = 3 ∧ 2 ≤ t.ts1Acked ∧ 8 ≤ t.ts1Sent then
      let rate := chooseRate h n u0
      let lanes := bitsOf u0.toNat 47 4 &&& lockedLanes h n &&& trunkLanes h n
      let h := sendLink h n [linkUnit 0x02 (2 ^ rate * 2 ^ 51 + lanes * 2 ^ 47)]
      let h := setFld (modTrk h n (fun t => { t with chosen := lanes, idleDone := false })) (aTrkStatus n) 6 2 rate
      if rate = 0 then toEqualise h n
      else
        let h := modTrk (unlockAll (trkEnter h n 4) n) n newStream
        seedLanes (setLanes h n lanes 1 rate) n lanes rate
    else h

/-- TS1: the partner's identity and abilities are shown, and negotiation advances (R164). -/
def recvTs1 (n : Nat) (u0 u1 : Word64) (h : Hub) : Hub :=
  if trkState h n ≠ 3 then h
  else
    let h := wr64 h (aTrkPartnerIdLo n) u1.toNat
    let h := wr h (aTrkPartnerCap n)
      (W (bitsOf u0.toNat 55 1 * 2 ^ 8 + bitsOf u0.toNat 47 4 * 2 ^ 4 + bitsOf u0.toNat 51 3))
    let t := trk h n
    let acked := bitOf u0.toNat 46
    let k := if !acked then 0 else if t.ts1 = some (u0, u1) then t.ts1Acked + 1 else 1
    tryTs2 (setTrk h n { t with ts1 := some (u0, u1), ts1Acked := k }) n

def execTs1 (n : Fin 8) (u0 u1 : BitVec 64) (s : State) : Ans := s.act (recvTs1 n.val u0 u1)

/-- TS2: the partner's chosen rate and lanes are recorded; the hub's own exit from NEGOTIATE needs its TS2 sent (R164). -/
def execTs2 (n : Fin 8) (u0 : BitVec 64) (s : State) : Ans :=
  s.act (fun h => modTrk h n.val (fun t => { t with ts2 := some u0 }))

/-- EQ_REQ is clipped, applied and answered by EQ_ACK; an override answers with its own values and LIMIT (R165, R187,
R188). -/
def recvEqReq (n : Nat) (u0 : Word64) (h : Hub) : Hub :=
  let k := bitsOf u0.toNat 49 2
  let l := 4 * n + k
  let ack := fun (p m q : Nat) (lim : Bool) =>
    linkUnit 0x04 (k * 2 ^ 49 + p * 2 ^ 42 + m * 2 ^ 36 + q * 2 ^ 30 + (if lim then 2 ^ 29 else 0))
  if trkState h n ≠ 5 ∧ trkState h n ≠ 7 then h
  else if flag h (aLaneTxFfeOvr l) 31 then
    queueLink h n [ack (fld h (aLaneTxFfeOvr l) 16 6) (fld h (aLaneTxFfeOvr l) 8 6) (fld h (aLaneTxFfeOvr l) 0 6) true]
  else
    let c := clipFfe (bitsOf u0.toNat 42 6) (bitsOf u0.toNat 36 6) (bitsOf u0.toNat 30 6)
    let v := c.1 * 2 ^ 16 + c.2.1 * 2 ^ 8 + c.2.2.1 + (if c.2.2.2 then 2 ^ 24 else 0)
    queueLink (wr h (aLaneTxFfe l) (W v)) n [ack c.1 c.2.1 c.2.2.1 c.2.2.2]

def execEqReq (n : Fin 8) (u0 : BitVec 64) (s : State) : Ans := s.act (recvEqReq n.val u0)

/-- EQ_ACK reports the partner's coefficients in force (R165). -/
def execEqAck (n : Fin 8) (u0 : BitVec 64) (s : State) : Ans :=
  s.act (fun h => modTrk h n.val (fun t => { t with partnerEq := tput t.partnerEq (bitsOf u0.toNat 49 2) u0 }))

/-- CONFIRM once EQ_DONE is sent and received (R164). -/
def tryConfirm (h : Hub) (n : Nat) : Hub :=
  if trkState h n = 5 ∧ (trk h n).eqMine ∧ (trk h n).eqTheirs then
    modTrk (trkEnter h n 6) n (fun t => { t with
      creditSeen := 0, creditSent := false, readySeen := false, readySent := 0, init := [], freed := [], used := [],
      freedMine := [], owed := [] })
  else h

/-- EQ_SETTLED: every lane has met R165 for 1 ms, so the hub sends EQ_DONE. -/
def eqSettled (n : Nat) (h : Hub) : Hub :=
  if trkState h n ≠ 5 ∨ (trk h n).eqMine then h
  else tryConfirm (modTrk (sendLink h n [linkUnit 0x05 0]) n (fun t => { t with eqMine := true })) n

def execEqSettled (n : Fin 8) (s : State) : Ans := s.act (eqSettled n.val)

/-- EQ_DONE received (R165). -/
def recvEqDone (n : Nat) (h : Hub) : Hub :=
  if trkState h n ≠ 5 then h else tryConfirm (modTrk h n (fun t => { t with eqTheirs := true })) n

def execEqDone (n : Fin 8) (s : State) : Ans := s.act (recvEqDone n.val)

/-- ACTIVE from CONFIRM: SEQ 0, ACK 4,095, credits as advertised, LINK_UP (R164). A lane retired meanwhile stays out (R209). -/
def toActive (h : Hub) (n : Nat) : Hub :=
  let lanes := inService h n (trk h n).chosen
  let rate := fld h (aTrkStatus n) 6 2
  let h := setStripe (trkEnter h n 7) n lanes
  let h := wr (wr h (aTrkSeq n) 0) (aTrkReplayStatus n) 0
  let h := modTrk h n (fun t => { t with
    replay := [], resend := 0, lastReplayAck := none, nak := false, rx := [], resync := 0, tx := [], under := [],
    linkq := [], ceiling := fld h (aTrkCtl n) 1 2, idleAsked := false, change := none, theirs := none, todo := [] })
  let h := trainLanes (setLanes h n lanes 2 rate) n lanes
  capacityChanged (raise h 0x05 0 n 0) n

/-- CONFIRM ends when 8 CREDIT and READY are received and READY is sent 3 times (R164). -/
def tryActive (h : Hub) (n : Nat) : Hub :=
  let t := trk h n
  if trkState h n = 6 ∧ t.creditSeen = 255 ∧ t.readySeen ∧ 3 ≤ t.readySent then toActive h n else h

/-- CREDIT: the partner's credit for a VC (R157). -/
def recvCredit (n : Nat) (u0 : Word64) (h : Hub) : Hub :=
  if trkState h n ≠ 6 then h
  else
    let v := bitsOf u0.toNat 53 3
    tryActive (modTrk h n (fun t => { t with
      init := tset 0 t.init v (bitsOf u0.toNat 46 7), creditSeen := t.creditSeen ||| 2 ^ v })) n

def execCredit (n : Fin 8) (u0 : BitVec 64) (s : State) : Ans := s.act (recvCredit n.val u0)

/-- READY (R164). -/
def recvReady (n : Nat) (h : Hub) : Hub :=
  if trkState h n ≠ 6 then h else tryActive (modTrk h n (fun t => { t with readySeen := true })) n

def execReady (n : Fin 8) (s : State) : Ans := s.act (recvReady n.val)

/-! ### Changes of the stripe set (R171-R175) -/

/-- A stripe request or answer in units. -/
def changeUnit (code mask target id : Nat) (refuse : Bool) : List Word64 :=
  [linkUnit code (mask % 16 * 2 ^ 47 + target % 65536 * 2 ^ 31 + id % 16 * 2 ^ 27 + (if refuse then 2 ^ 26 else 0))]

/-- Start a change of the hub's own: a request whose target lies two commas past the one that may go before it (R171). A lane that returns sends a
burst, then commas and NULL staves outside the set (R175). -/
def startChange (h : Hub) (n : Nat) (isReturn : Bool) (mask lane : Nat) (waiter : Option Nat) : Hub :=
  let target := (fld h (aTrkStatus n) 16 16 + 3) % 65536
  let id := (trk h n).nextChange % 16
  let h := if isReturn then modTrk (sendBurst h n (2 ^ lane)) n (fun t => { t with joining := t.joining ||| 2 ^ lane }) else h
  let h := queueLink h n (changeUnit (if isReturn then 0x12 else 0x10) mask target id false)
  modTrk h n (fun t => { t with
    change := some ⟨isReturn, mask, target, id, 1, false, lane, waiter⟩, nextChange := t.nextChange + 1 })

/-- A RES.RESTORE fails: its instruction completes FAULT, the resource stays retired (R477). -/
def resFailed (h : Hub) (cls idx id : Nat) : Hub :=
  let h := { h with flt := { h.flt with restores := h.flt.restores.filter (fun r => decide (r.2.2 ≠ id)) } }
  faultRecord (settle h id .fault 0x0901) 4 0 cls idx 0 (fld h (aFltBkt cls idx) 0 16)

/-- The return of a lane fails under the RES.RESTORE that asked for it (R175). -/
def restoreFailed (h : Hub) (l : Nat) (waiter : Option Nat) : Hub :=
  match waiter with
  | some id => resFailed h 0 l id
  | none => h

/-- The command of a change that is over: the lane of a retirement has left (R173), that of a return has joined, which clears its
retirement and with it completes a RES.RESTORE (R175). -/
def changeOver (h : Hub) (n : Nat) (isReturn : Bool) (lane : Nat) (waiter : Option Nat) : Hub :=
  if isReturn then clearRetired h (4 * n + lane)
  else match waiter with
    | some id => settle h id .ok 0
    | none => h

/-- The first change that waits starts when none is in progress; one that has nothing left to do is over at once (R173, R174). -/
def nextTodo : Nat → Hub → Nat → Hub
  | 0, h, _ => h
  | fuel + 1, h, n =>
    let t := trk h n
    match t.todo with
    | [] => h
    | (ret, k, w) :: rest =>
      if t.change.isSome ∨ trkState h n ≠ 7 then h
      else
        let h := setTrk h n { t with todo := rest }
        let set := stripeSet h n
        if ret = bitOf set k then nextTodo fuel (changeOver h n ret k w) n
        else if ret then startChange h n true (set ||| 2 ^ k) k w
        else if set = 2 ^ k then
          let h := toDetect (linkDown h n) n
          match w with
          | some id => settle h id .ok 0
          | none => h
        else startChange h n false (set - 2 ^ k) k w

/-- A change of the hub's own: at once when none is in progress, else after those before it. -/
def askChange (h : Hub) (n : Nat) (isReturn : Bool) (lane : Nat) (waiter : Option Nat) : Hub :=
  nextTodo 8 (modTrk h n (fun t => { t with todo := t.todo ++ [(isReturn, lane, waiter)] })) n

/-- Report the lanes that leave and join a stripe set (LANE_OUT, LANE_IN) and put it in force. -/
def changeStripe (h : Hub) (n new_ : Nat) : Hub :=
  let old := stripeSet h n
  let rate := fld h (aTrkStatus n) 6 2
  let h := setStripe h n new_
  let h := setLanes h n (new_ &&& (15 ^^^ old)) 2 rate
  let h := (bitsSet 4 (old &&& (15 ^^^ new_))).foldl (fun h k =>
    raise (laneTo h (4 * n + k) (if laneRetired h (4 * n + k) then 5 else 0)) 0x05 3 n k) h
  let h := (bitsSet 4 (new_ &&& (15 ^^^ old))).foldl (fun h k => raise h 0x05 4 n k) h
  if old = new_ then h else capacityChanged h n

/-- Lanes that leave the set without a handshake: running and waiting changes go on without them, and a change whose own lane has
left is over (R173, R166). -/
def removeLanes (h : Hub) (n lanes : Nat) : Hub :=
  let keep := 15 ^^^ lanes
  let h := changeStripe h n (stripeSet h n &&& keep)
  let h := modTrk h n (fun t => { t with theirs := t.theirs.map (fun x => (x.1 &&& keep, x.2)) })
  match (trk h n).change with
  | some c =>
    if bitOf lanes c.lane ∧ !c.isReturn then
      nextTodo 8 (changeOver (modTrk h n (fun t => { t with change := none })) n false c.lane c.waiter) n
    else modTrk h n (fun t => { t with change := some { c with mask := c.mask &&& keep } })
  | none => h

/-! ### Recovery (R162, R166) -/

/-- Enter RECOVERY: lanes relock with the stored equaliser, RECOVER carries the hub's ACK (R166). -/
def toRecovery (h : Hub) (n : Nat) : Hub :=
  if trkState h n ≠ 7 then h
  else
    let h := setLanes (unlockAll (trkEnter h n 8) n) n (stripeSet h n) 1 (fld h (aTrkStatus n) 6 2)
    raise (modTrk h n (fun t => { t with recoverAck := none, recoverSent := false })) 0x05 2 n 0

/-- An ACK frees every stave up to and including it when it is valid; any other is ignored (R160). -/
def takeAck (h : Hub) (n a : Nat) : Hub :=
  let t := trk h n
  let out := t.replay.length
  let next := nextSeq h n
  if (next + 8192 - a - 1) % 4096 < out then
    let keep := (next + 8192 - a - 1) % 4096
    let left := t.replay.drop (out - keep)
    let seqs := (t.replay.take (out - keep)).map (·.seq)
    let h := fatesFinal h (fun f => decide (f.port = n) && (match f.seq with
      | some s => seqs.contains s
      | none => false)) true
    let h := modTrk h n (fun t => { t with replay := left, resend := min t.resend left.length })
    setFld (setFld h (aTrkReplayStatus n) 16 4 0) (aTrkReplayStatus n) 0 10 left.length
  else h

/-- RECOVERY ends with every lane of a set relocked and RECOVER exchanged: replay starts from the partner's ACK (R166). A stave
still missing keeps NAK until it is accepted (R161). -/
def leaveRecovery (h : Hub) (n : Nat) : Hub :=
  match (trk h n).recoverAck with
  | none => h
  | some a =>
    let h := takeAck (trkEnter h n 7) n a
    let h := setLanes h n (stripeSet h n) 2 (fld h (aTrkStatus n) 6 2)
    nextTodo 8 (modTrk h n (fun t => { t with
      resend := t.replay.length, lastReplayAck := some a, recoverAck := none, recoverSent := false })) n

def tryRecovered (h : Hub) (n : Nat) : Hub :=
  if trkState h n = 8 ∧ (trk h n).recoverSent ∧ (trk h n).recoverAck.isSome ∧ deskewed h n (stripeSet h n) then
    leaveRecovery h n
  else h

/-- RECOVER: enters RECOVERY or completes it (R166). -/
def recvRecover (n : Nat) (u0 : Word64) (h : Hub) : Hub :=
  let h := toRecovery h n
  if trkState h n ≠ 8 then h
  else tryRecovered (modTrk h n (fun t => { t with recoverAck := some (bitsOf u0.toNat 44 12) })) n

def execRecover (n : Fin 8) (u0 : BitVec 64) (s : State) : Ans := s.act (recvRecover n.val u0)

/-- Start a replay of every outstanding stave; LIMIT of them without ACK progress enter RECOVERY (R162). -/
def startReplay (h : Hub) (n : Nat) : Hub :=
  let t := trk h n
  if t.replay = [] then h
  else
    let ack := ((t.replay.head?.map (·.seq)).getD 0 + 4095) % 4096
    let h := modTrk h n (fun t => { t with resend := t.replay.length, lastReplayAck := some ack })
    let h := tally (count h (aTrkCntReplay n) 1) (0x10 + n) 0x0105 1 none
    let c := min 15 (fld h (aTrkReplayStatus n) 16 4 + 1)
    let h := setFld h (aTrkReplayStatus n) 16 4 c
    if fld h (aTrkReplayCfg n) 16 4 ≤ c then toRecovery (raise h 0x05 7 n 0) n else h

/-- REPLAY_TIMER: no ACK progress for TIMER_NS with staves outstanding (R162). -/
def execReplayTimer (n : Fin 8) (s : State) : Ans :=
  s.act (fun h => if trkState h n.val = 7 then startReplay h n.val else h)

/-! ### Commas (R145-R148) -/

/-- Is a comma block's body valid: pattern, CHECK, zero bits (R145)? -/
def commaOk (b : Nat) : Bool :=
  decide (bitsOf b 0 96 = 0x9C3A6E15B2D48F0761CB53A8) &&
    decide (bitsOf b 112 8 = 255 - (bitsOf b 96 8 ^^^ bitsOf b 104 8)) && decide (bitsOf b 139 117 = 0)

/-- The lock record of a lane after a valid comma at a codeword (R147), with its COMMA_NO and arrival (R148). -/
def lockStep (l : LaneLock) (lane cw no arrival : Nat) : LaneLock :=
  let d := cw - l.lastCw
  let near := decide (l.lastCw < cw) && decide (d % 16 = 0)
  if l.locked then
    if near && decide (d ≤ 4096) then { l with lastCw := cw, no := no, arrival := arrival } else ⟨1, cw, lane, false, no, arrival⟩
  else if decide (0 < l.seen) && near && decide (l.partner = lane) then
    ⟨l.seen + 1, cw, lane, decide (3 ≤ l.seen + 1), no, arrival⟩
  else ⟨1, cw, lane, false, no, arrival⟩

/-- LOCK is entered with its 2 ms ahead (R164). -/
def toLock (h : Hub) (n : Nat) : Hub := modTrk (trkEnter h n 2) n (fun t => { t with lockOver := false })

/-- LOCK ends once every lane that may join is locked, or the 2 ms are over, and the locked lanes are deskewed (R164). -/
def tryNegotiate (h : Hub) (n : Nat) : Hub :=
  let l := lockedLanes h n &&& trunkLanes h n
  if trkState h n = 2 ∧ l ≠ 0 ∧ (l = trunkLanes h n ∨ (trk h n).lockOver) ∧ deskewed h n l then trkEnter h n 3 else h

/-- What lock, deskew and their loss bring about in each state (R164, R166). -/
def lockEffects (h : Hub) (n : Nat) : Hub :=
  let l := lockedLanes h n
  match trkState h n with
  | 1 => if l &&& trunkLanes h n ≠ 0 then tryNegotiate (toLock h n) n else h
  | 2 => tryNegotiate h n
  | 4 => if (trk h n).idleDone ∧ deskewed h n (inService h n (trk h n).chosen) then toEqualise h n else h
  | 7 => if l &&& stripeSet h n = stripeSet h n ∧ !deskewLost h n (stripeSet h n) then h else toRecovery h n
  | 8 => tryRecovered h n
  | _ => h

/-- COMMA with a valid body: it updates the lane's lock and deskew (R147, R148). -/
def recvComma (n k : Nat) (body cw arrival : Nat) (h : Hub) : Hub :=
  if trkState h n = 0 ∨ trkState h n = 9 then h
  else
    let h := modTrk h n (fun t => { t with
      locks := tset LaneLock.none t.locks k (lockStep (tget LaneLock.none t.locks k) (bitsOf body 96 4) cw (bitsOf body 120 16) arrival) })
    let h := setFlag h (aLaneStatus (4 * n + k)) 25 (bitOf (lockedLanes h n) k)
    lockEffects h n

/-- COMMA_TIMEOUT: no comma within 4,112 codewords (R147, R166). -/
def commaTimeout (n k : Nat) (h : Hub) : Hub :=
  if !bitOf (lockedLanes h n) k then h
  else
    let h := modTrk h n (fun t => { t with locks := tdel t.locks k })
    lockEffects (setFlag h (aLaneStatus (4 * n + k)) 25 false) n

def execCommaTimeout (n : Fin 8) (k : Fin 4) (s : State) : Ans := s.act (commaTimeout n.val k.val)

/-- LOCK_WINDOW_END: 2 ms after the first lock the locked lanes go on, once deskewed (R164). -/
def execLockWindowEnd (n : Fin 8) (s : State) : Ans :=
  s.act (fun h => if trkState h n.val = 2 then
    tryNegotiate (modTrk h n.val (fun t => { t with lockOver := true })) n.val else h)

/-- SWITCH_IDLE_END: the 10 µs of idle are over and the stream starts at the chosen rate (R164). -/
def execSwitchIdleEnd (n : Fin 8) (s : State) : Ans :=
  s.act (fun h => if trkState h n.val = 4 then
    lockEffects (modTrk h n.val (fun t => { t with idleDone := true })) n.val else h)

/-- Lower the ceiling below the rate that failed (R164). -/
def lowerCeiling (h : Hub) (n : Nat) : Hub :=
  modTrk h n (fun t => { t with ceiling := fld h (aTrkStatus n) 6 2 - 1 })

/-- TRAINING_TIMEOUT by state (R164, R166, R167): RECOVERY with some lane relocked goes on without the others. -/
def trainingTimeout (n : Nat) (h : Hub) : Hub :=
  match trkState h n with
  | 2 => toDetect h n
  | 3 => toDetect h n
  | 4 => toDetect (lowerCeiling h n) n
  | 5 => toDetect (lowerCeiling h n) n
  | 6 => toDetect (linkDown h n) n
  | 8 =>
    let relocked := lockedLanes h n &&& stripeSet h n
    if relocked ≠ 0 ∧ (trk h n).recoverSent ∧ (trk h n).recoverAck.isSome then
      leaveRecovery (removeLanes h n (15 ^^^ relocked)) n
    else toDetect (linkDown h n) n
  | _ => h

def execTrainingTimeout (n : Fin 8) (s : State) : Ans := s.act (trainingTimeout n.val)

/-! ### Staves in (R149-R161) -/

/-- Units that a packet with this header occupies (R153). -/
def packetUnits (len : Nat) (keyEn : Bool) : Nat := (16 + len + (if keyEn then 16 else 0) + 7) / 8

/-- Units a packet in progress still needs; 1 while its header is not whole. -/
def unitsMissing (us : List Word64) : Nat :=
  match us with
  | u0 :: _ :: _ => packetUnits (bitsOf u0.toNat 24 10) (bitOf u0.toNat 44) - us.length
  | _ => 2 - us.length

/-- What one VC's parser yields: packets, the units in progress, packets dropped, a parse error (R154, R155). -/
structure Parsed where
  packets : List TunPacket
  left : List Word64
  drops : Nat
  error : Bool
deriving DecidableEq, Repr

/-- A packet of whole units. -/
def unitsPacket (us : List Word64) : TunPacket :=
  let h := parseHdr (us.head?.getD 0) ((us.drop 1).head?.getD 0)
  let len := bitsOf (us.head?.getD 0).toNat 24 10
  let bs := (unitBytes (us.drop 2))
  { hdr := h, payload := bs.take len, gcmTag := if h.keyEn then (bs.drop len).take 16 else [] }

/-- Parse a body from a unit onward, with the units of the packet in progress. -/
def parseBody : Nat → List Word64 → List Word64 → Nat → Parsed
  | 0, _, cur, _ => ⟨[], cur, 0, false⟩
  | _, [], cur, _ => ⟨[], cur, 0, false⟩
  | fuel + 1, u :: us, cur, vc =>
    if cur = [] ∧ bitsOf u.toNat 60 4 = 15 then ⟨[], [], 0, false⟩
    else
      let cur := cur ++ [u]
      let u0 := cur.head?.getD 0
      if bitsOf u0.toNat 24 10 > 512 then ⟨[], [], 1, true⟩
      else if cur.length < 2 ∨ unitsMissing cur ≠ 0 then parseBody fuel us cur vc
      else
        let p := unitsPacket cur
        let r := parseBody fuel us [] vc
        let t := p.hdr.type.toNat
        if 6 ≤ t ∨ !vcOk t p.hdr.kind.toNat p.hdr.vc.toNat ∨ p.hdr.vc.toNat ≠ vc then
          { r with drops := r.drops + 1 }
        else { r with packets := p :: r.packets }

/-- The unit at which the first header of a body starts, by the receiver's parse; 31 = none. -/
def parsedFpo (cur : List Word64) (us : List Word64) : Nat :=
  let full := if cur = [] then 0
    else
      let start := cur ++ us.take (2 - cur.length)
      cur.length + unitsMissing start - cur.length + (start.length - cur.length)
  if 31 ≤ full then 31
  else if bitsOf ((us.drop full).head?.getD 0).toNat 60 4 = 15 then 31 else full

/-- An accepted DATA stave's packets enter the switch port; a parse error discards the packet in progress (R154, R155). -/
def takeBody (h : Hub) (n vc fpo : Nat) (body : List Word64) : Hub :=
  let t := trk h n
  let lost := bitOf t.resync vc
  let cur := if lost then [] else tget [] t.rx vc
  if lost ∧ fpo = 31 then h
  else if !lost ∧ fpo ≠ parsedFpo cur body then
    let h := count h (aTrkCntDrop n) 1
    modTrk h n (fun t => { t with rx := tset [] t.rx vc [], resync := t.resync ||| 2 ^ vc })
  else
    let us := if lost then body.drop fpo else body
    let r := parseBody 32 us cur vc
    let h := count h (aTrkCntDrop n) r.drops
    let resync := if r.error then t.resync ||| 2 ^ vc else t.resync &&& (255 ^^^ 2 ^ vc)
    let h := modTrk h n (fun t => { t with rx := tset [] t.rx vc r.left, resync := resync })
    let h := r.packets.foldl (fun h p =>
      let e := resolveEnd h n p.hdr.tid.toNat
      tally h (0x10 + n) 0x0103 1 (some ⟨n, (e.map (·.dock)).getD 64, (e.map (·.cls)).getD 0, memAddr p.hdr.type.toNat p.payload⟩)) h
    { h with arrived := h.arrived ++ r.packets.map (fun p => (n, p)) }

/-- Is a received stave in error (R151), from the wrong symbols in each codeword that holds one of its data units (R141)? -/
def staveBad (rate : Nat) (header : Word64) (body : List Word64) (wrong : List Nat) : Bool :=
  wrong.any (fun e => !fecCorrects rate e) || decide (staveCrc header body ≠ bitsOf header.toNat 0 16) ||
    decide (3 ≤ bitsOf header.toNat 60 4)

/-- A stave that is free of error in ACTIVE (R150, R158, R160-R162): its ACK, credit report and NAK, then its SEQ. -/
def takeStave (h : Hub) (n : Nat) (header : Word64) (body : List Word64) : Hub :=
  let v := header.toNat
  let seq := bitsOf v 48 12
  let ack := bitsOf v 36 12
  let h := takeAck h n ack
  let h := modTrk h n (fun t => { t with freed := tset 0 t.freed (bitsOf v 24 3) (bitsOf v 16 8) })
  let h := if bitOf v 35 ∧ (trk h n).lastReplayAck ≠ some ack then startReplay h n else h
  let exp := fld h (aTrkSeq n) 16 12
  let behind := (exp + 4096 - seq) % 4096
  if seq ≠ exp ∧ 2047 < behind then modTrk h n (fun t => { t with nak := true })
  else if bitsOf v 60 4 ≠ 1 ∨ seq ≠ exp then h
  else
    let vc := bitsOf v 32 3
    let h := tally (setFld h (aTrkSeq n) 16 12 ((exp + 1) % 4096)) (0x10 + n) 0x0101 1 none
    let h := if creditWithheld h n vc then
        modTrk h n (fun t => { t with nak := false, owed := tmod 0 t.owed vc (· + 1) })
      else modTrk h n (fun t => { t with nak := false, freedMine := tmod 0 t.freedMine vc (fun c => (c + 1) % 256) })
    takeBody h n vc (bitsOf v 27 5) body

/-! ### Staves out (R154, R158-R160) -/

/-- May a new DATA stave of a VC go: credit and room in the replay buffer (R158, R160)? -/
def mayData (h : Hub) (n vc : Nat) : Bool :=
  let t := trk h n
  let c := (tget 0 t.init vc + tget 0 t.freed vc + 256 - tget 0 t.used vc % 256) % 256
  decide (c ≠ 0) && decide (t.replay.length < 512)

/-- The VCs with something to send, VC 0 and VC 7 first, then in the order of release (R159). -/
def vcOrder (t : TrkSt) : List Nat :=
  let queued := t.under ++ t.txq.map (fun p => p.hdr.vc.toNat)
  [0, 7].filter (fun v => queued.contains v) ++ queued.filter (fun v => decide (v ≠ 0) && decide (v ≠ 7))

/-- The next packet for a body of a VC: of VC 0 and VC 7 the oldest of its own; of the others the one released first among those
that may go, when it is of this VC (R159). -/
def nextPacket (h : Hub) (n vc : Nat) : Option TunPacket :=
  let t := trk h n
  if vc = 0 ∨ vc = 7 then t.txq.find? (fun p => decide (p.hdr.vc.toNat = vc))
  else match (vcOrder t).find? (fun v => decide (v ≠ 0) && decide (v ≠ 7) && mayData h n v) with
    | some v => if v = vc then t.txq.find? (fun p => decide (p.hdr.vc.toNat = vc)) else none
    | none => none

/-- The units of a packet (R153). -/
def packetToUnits (p : TunPacket) : List Word64 :=
  let v := hdrValue p.hdr p.payload.length
  [BitVec.ofNat 64 (v / 2 ^ 64), BitVec.ofNat 64 v] ++ bytesUnits 70 (p.payload ++ p.gcmTag)

/-- The oldest packet of a trunk and VC whose last byte has not gone yet. -/
def openFate (h : Hub) (n vc : Nat) : Option FateRec :=
  h.tel.fates.find? (fun f => decide (f.port = n) && decide (f.vc = vc) && f.seq.isNone && f.final.isNone)

/-- That packet's last byte goes in a stave (R458). -/
def fateSeq (h : Hub) (n vc seq : Nat) : Hub :=
  match openFate h n vc with
  | some f => { h with tel := { h.tel with fates := h.tel.fates.map (fun x => if x = f then { f with seq := some seq } else x) } }
  | none => h

/-- That packet is dropped before it is sent (R180, R419). -/
def fateDropped (h : Hub) (n vc : Nat) : Hub :=
  match openFate h n vc with
  | some f => fateFinal h f false
  | none => h

/-- Fill a body of a VC: the packet under way, then further packets, then padding; with the FPO (R150, R154). -/
def fillBody : Nat → Hub → Nat → Nat → List Word64 → Nat → Hub × List Word64 × Nat
  | 0, h, _, _, body, fpo => (h, body, fpo)
  | fuel + 1, h, n, vc, body, fpo =>
    if 31 ≤ body.length then (h, body, fpo)
    else
      let t := trk h n
      match tget [] t.tx vc with
      | u :: us =>
        let room := 31 - body.length
        let h := setTrk h n { t with tx := tset [] t.tx vc ((u :: us).drop room) }
        let h := if (u :: us).length ≤ room then
            fateSeq (modTrk h n (fun t => { t with under := t.under.filter (· ≠ vc) })) n vc (nextSeq h n)
          else h
        fillBody fuel h n vc (body ++ (u :: us).take room) fpo
      | [] =>
        match nextPacket h n vc with
        | none => (h, body, fpo)
        | some p =>
          let h := setTrk h n { t with txq := t.txq.erase p }
          match sealOut h n p with
          | (h, none) => fillBody fuel (fateDropped h n vc) n vc body fpo
          | (h, some q) =>
            let h := modTrk h n (fun t => { t with tx := tset [] t.tx vc (packetToUnits q), under := t.under ++ [vc] })
            fillBody fuel h n vc body (if fpo = 31 then body.length else fpo)

/-- Send a new DATA stave of a VC (R154, R157, R160). -/
def sendData (h : Hub) (n vc : Nat) : Hub :=
  let r := fillBody 64 h n vc [] 31
  let h := r.1
  if r.2.1 = [] then sendNull h n
  else
    let pad := if r.2.1.length < 31 then [BitVec.ofNat 64 (0xF0 * 2 ^ 56)] else []
    let body := padBody (r.2.1 ++ pad)
    let seq := nextSeq h n
    let h := setFld h (aTrkSeq n) 0 12 ((seq + 1) % 4096)
    let h := modTrk h n (fun t => { t with
      replay := t.replay ++ [⟨seq, vc, r.2.2, body⟩], used := tset 0 t.used vc ((tget 0 t.used vc + 1) % 256) })
    let h := setFld h (aTrkReplayStatus n) 0 10 (trk h n).replay.length
    sendStave h n 1 seq vc r.2.2 body

/-- A stave in ACTIVE: a replay goes ahead of new DATA staves; link messages, then data by VC, else NULL (R159, R162). -/
def activeStave (h : Hub) (n : Nat) : Hub :=
  let t := trk h n
  match t.linkq with
  | m :: ms => sendLink (setTrk h n { t with linkq := ms }) n m
  | [] =>
    if 0 < t.resend then
      match t.replay[t.replay.length - t.resend]? with
      | some st => sendStave (setTrk (tally h (0x10 + n) 0x0106 1 none) n { t with resend := t.resend - 1 }) n 1 st.seq st.vc st.fpo st.body
      | none => sendNull h n
    else
      match (vcOrder t).find? (mayData h n) with
      | some vc => sendData h n vc
      | none => sendNull h n

/-- CREDIT messages for every VC (R157). -/
def creditUnits (h : Hub) (n : Nat) : List Word64 :=
  (List.range 8).map (fun v =>
    let c := if v < 4 then fld h (aTrkVcCredit0 n) (8 * v) 8 else fld h (aTrkVcCredit1 n) (8 * (v - 4)) 8
    linkUnit 0x06 (v * 2 ^ 53 + c % 128 * 2 ^ 46))

/-- The later of two COMMA_NOs, which wrap (R145, R172). -/
def laterComma (a b : Nat) : Nat := if (a + 65536 - b) % 65536 < 32768 then a else b

/-- The target of the changes that both ends have agreed on: of crossing requests the later one (R171, R172). -/
def changeTarget (t : TrkSt) : Option Nat :=
  let mine := t.change.filter (·.acked)
  match mine, t.theirs with
  | some c, some x => some (laterComma c.target x.2.1)
  | some c, none => some c.target
  | none, some x => some x.2.1
  | none, none => none

/-- Has the comma of the target been sent (R171)? -/
def changeDue (h : Hub) (n : Nat) : Bool :=
  match changeTarget (trk h n) with
  | some x => decide ((fld h (aTrkStatus n) 16 16 + 65536 - x) % 65536 < 32768)
  | none => false

/-- The switch at the target comma: both ends deal over the new set, crossing requests meet in the intersection; lanes that the
partner removed are shown as excluded (R171, R172, R174). -/
def stripeSwitch (n : Nat) (h : Hub) : Hub :=
  let t := trk h n
  let mine := t.change.filter (·.acked)
  let old := stripeSet h n
  let new_ := (mine.map (·.mask)).getD 15 &&& (t.theirs.map (·.1)).getD 15
  let gone := match t.theirs with
    | some x => if x.2.2 then old &&& (15 ^^^ x.1) else 0
    | none => 0
  let h := setFld h (aTrkStatus n) 12 4 ((fld h (aTrkStatus n) 12 4 ||| gone) &&& (15 ^^^ new_))
  let h := modTrk h n (fun t => { t with
    change := if mine.isSome then none else t.change, theirs := none, joining := t.joining &&& (15 ^^^ new_) })
  let h := changeStripe h n new_
  let h := (bitsSet 4 (new_ &&& (15 ^^^ old))).foldl (fun h k => clearRetired h (4 * n + k)) h
  match mine with
  | some c => nextTodo 8 (if c.isReturn then h else changeOver h n false c.lane c.waiter) n
  | none => h

/-- Which coefficients the hub's receivers ask for, and when, is free, at most 64 times a lane (R165). -/
def askEq (h : Hub) (n : Nat) : Hub × Option (List Word64) :=
  let v := (drawFree h).2.toNat
  let k := bitsOf v 0 2
  let c := tget 0 (trk h n).eqSent k
  if bitOf (sendSet h n) k ∧ c < 64 ∧ bitOf v 2 then
    (modTrk (drawFree h).1 n (fun t => { t with eqSent := tset 0 t.eqSent k (c + 1) }),
      some [linkUnit 0x03 (k * 2 ^ 49 + bitsOf v 3 6 * 2 ^ 42 + bitsOf v 9 6 * 2 ^ 36 + bitsOf v 15 6 * 2 ^ 30)])
  else ((drawFree h).1, none)

/-- STAVE_TRANSMIT: the next stave by state (R159, R164). -/
def sendNext (n : Nat) (h : Hub) : Hub :=
  let t := trk h n
  match trkState h n with
  | 1 => sendNull h n
  | 2 => sendNull h n
  | 3 =>
    if t.sent % 16 = 15 then
      let h := sendLink h n (ts1Units h n)
      tryTs2 (if t.ts1.isSome then modTrk h n (fun t => { t with ts1Sent := t.ts1Sent + 1 }) else h) n
    else sendNull h n
  | 4 => if t.idleDone then sendNull h n else h
  | 5 => match t.linkq with
    | m :: ms => sendLink (setTrk h n { t with linkq := ms }) n m
    | [] => match askEq h n with
      | (h, some m) => sendLink h n m
      | (h, none) => sendNull h n
  | 6 =>
    if !t.creditSent then modTrk (sendLink h n (creditUnits h n)) n (fun t => { t with creditSent := true })
    else tryActive (modTrk (sendLink h n [linkUnit 0x07 0]) n (fun t => { t with readySent := t.readySent + 1 })) n
  | 7 => activeStave (if changeDue h n then stripeSwitch n h else h) n
  | 8 =>
    let ack := (fld h (aTrkSeq n) 16 12 + 4095) % 4096
    tryRecovered (modTrk (sendLink h n [linkUnit 0x1F (ack * 2 ^ 44)]) n (fun t => { t with recoverSent := true })) n
  | _ => h

def execStaveTransmit (n : Fin 8) (s : State) : Ans := s.act (sendNext n.val)

/-! ### Electrical idle (R168-R170) -/

/-- Has a trunk nothing to send, nothing outstanding and all credits back (R168)? -/
def trunkQuiet (h : Hub) (n : Nat) : Bool :=
  let t := trk h n
  t.replay = [] && t.txq = [] && t.tx = [] && t.under = [] &&
    (List.range 8).all (fun v => decide (tget 0 t.used v % 256 = tget 0 t.freed v % 256))

/-- Is electrical idle allowed: TRK_CTL.IDLE_EN, which counts as 1 in Idle (R168, R507). -/
def idleEn (h : Hub) (n : Nat) : Bool := flag h (aTrkCtl n) 8 || decide (fld h aPwrStatus 0 2 = 1)

/-- IDLE_TIMER: the hub asks for idle when IDLE_EN allows it (R168). -/
def idleTimer (n : Nat) (h : Hub) : Hub :=
  if trkState h n = 7 ∧ idleEn h n ∧ trunkQuiet h n ∧ !(trk h n).idleAsked then
    modTrk (queueLink h n [linkUnit 0x18 0]) n (fun t => { t with idleAsked := true })
  else h

def execIdleTimer (n : Fin 8) (s : State) : Ans := s.act (idleTimer n.val)

/-- Sixteen NULL staves, and as many more as the round under way needs, then IDLE (R149, R168). -/
def toIdle (h : Hub) (n : Nat) : Hub :=
  let h := (List.range 16).foldl (fun h _ => sendNull h n) h
  let h := (List.range 3).foldl (fun h _ => if (trk h n).round = [] then h else sendNull h n) h
  let h := setLanes (trkEnter h n 9) n (stripeSet h n) 3 (fld h (aTrkStatus n) 6 2)
  let h := (bitsSet 4 (stripeSet h n)).foldl (fun h k => setFlag h (aLaneStatus (4 * n + k)) 24 false) h
  modTrk h n (fun t => { t with idleAsked := false, idleFrom := h.tim.edges })

/-- IDLE_REQ is answered with IDLE_ACK, REFUSE while traffic is held or IDLE_EN = 0 (R168). -/
def recvIdleReq (n : Nat) (h : Hub) : Hub :=
  if trkState h n ≠ 7 then h
  else
    let refuse := !idleEn h n || !trunkQuiet h n
    let h := sendLink h n [linkUnit 0x19 (if refuse then 2 ^ 26 else 0)]
    if refuse then h else toIdle h n

def execIdleReq (n : Fin 8) (s : State) : Ans := s.act (recvIdleReq n.val)

/-- IDLE_ACK to the hub's own request (R168). -/
def recvIdleAck (n : Nat) (u0 : Word64) (h : Hub) : Hub :=
  if trkState h n ≠ 7 ∨ !(trk h n).idleAsked then h
  else if bitOf u0.toNat 26 then modTrk h n (fun t => { t with idleAsked := false })
  else toIdle h n

def execIdleAck (n : Fin 8) (u0 : BitVec 64) (s : State) : Ans := s.act (recvIdleAck n.val u0)

/-- Leave IDLE by a training burst on every lane of the set, with COMMA_NO 0; a codeword follows (R169, R198). -/
def leaveIdle (h : Hub) (n : Nat) : Hub :=
  if trkState h n ≠ 9 then h
  else
    let m := stripeSet h n
    let h := modTrk (setFld (trkEnter h n 7) (aTrkStatus n) 16 16 0) n (fun t => { newStream t with sinceComma := some 0 })
    nextTodo 8 (setLanes (sendBurst h n m) n m 2 (fld h (aTrkStatus n) 6 2)) n

/-- FAST_EXIT (R169). -/
def execFastExit (n : Fin 8) (s : State) : Ans := s.act (fun h => leaveIdle h n.val)

/-- ENERGY_DETECT: energy on a lane of an idle trunk's set starts the hub's own burst (R169, R198). -/
def energyDetect (l : Nat) (h : Hub) : Hub :=
  let h := setFlag h (aLaneStatus l) 24 true
  if l < 32 ∧ bitOf (stripeSet h (l / 4)) (l % 4) then leaveIdle h (l / 4) else h

def execEnergyDetect (l : Fin 98) (s : State) : Ans :=
  s.act (fun h => if lanePresent h.part.res l.val ∧ !(32 ≤ l.val ∧ l.val < 64) then energyDetect l.val h else h)

/-- TOKEN_WAKE: every TOKEN_TICKS edges in IDLE the hub leaves it to send a token (R170). -/
def tokenWake (n : Nat) (h : Hub) : Hub :=
  if trkState h n = 9 ∧ fld h (aTrkIdleCfg n) 16 8 ≤ edgesSince h (trk h n).idleFrom then leaveIdle h n else h

def execTokenWake (n : Fin 8) (s : State) : Ans := s.act (tokenWake n.val)

/-! ### Stripe changes (R171-R175) -/

/-- RETIRE_REQ from the partner is acknowledged (R171, R174). -/
def recvRetireReq (n : Nat) (u0 : Word64) (h : Hub) : Hub :=
  if trkState h n ≠ 7 then h
  else
    let v := u0.toNat
    let h := queueLink h n (changeUnit 0x11 (bitsOf v 47 4) (bitsOf v 31 16) (bitsOf v 27 4) false)
    modTrk h n (fun t => { t with theirs := some (bitsOf v 47 4, bitsOf v 31 16, true) })

def execRetireReq (n : Fin 8) (u0 : BitVec 64) (s : State) : Ans := s.act (recvRetireReq n.val u0)

/-- RETIRE_ACK confirms the hub's request of the same ID (R171). -/
def recvRetireAck (n : Nat) (u0 : Word64) (h : Hub) : Hub :=
  match (trk h n).change with
  | some c => if !c.isReturn ∧ c.id = bitsOf u0.toNat 27 4 ∧ !bitOf u0.toNat 26 then
      modTrk h n (fun t => { t with change := some { c with acked := true } }) else h
  | none => h

def execRetireAck (n : Fin 8) (u0 : BitVec 64) (s : State) : Ans := s.act (recvRetireAck n.val u0)

/-- Has the hub comma lock on every lane that a new mask adds (R171)? -/
def returnLocked (h : Hub) (n mask : Nat) : Bool :=
  let new_ := mask &&& (15 ^^^ stripeSet h n)
  decide (lockedLanes h n &&& new_ = new_)

/-- RETURN_REQ from the partner: REFUSE where the hub has not locked the lane (R171), or its equalisation has not settled (R175;
notes/assumptions/164.md). -/
def recvReturnReq (n : Nat) (u0 : Word64) (settled : Bool) (h : Hub) : Hub :=
  if trkState h n ≠ 7 then h
  else
    let v := u0.toNat
    let locked := settled && returnLocked h n (bitsOf v 47 4)
    let h := queueLink h n (changeUnit 0x13 (bitsOf v 47 4) (bitsOf v 31 16) (bitsOf v 27 4) (!locked))
    if locked then modTrk h n (fun t => { t with theirs := some (bitsOf v 47 4, bitsOf v 31 16, false) }) else h

def execReturnReq (n : Fin 8) (u0 : BitVec 64) (settled : Bool) (s : State) : Ans := s.act (recvReturnReq n.val u0 settled)

/-- RETURN_ACK: with REFUSE the lane stays out, and a RES.RESTORE that waits fails (R175). -/
def recvReturnAck (n : Nat) (u0 : Word64) (h : Hub) : Hub :=
  match (trk h n).change with
  | some c =>
    if !c.isReturn ∨ c.id ≠ bitsOf u0.toNat 27 4 then h
    else if bitOf u0.toNat 26 then
      let h := modTrk h n (fun t => { t with change := none, joining := t.joining &&& (15 ^^^ 2 ^ c.lane) })
      nextTodo 8 (restoreFailed h (4 * n + c.lane) c.waiter) n
    else modTrk h n (fun t => { t with change := some { c with acked := true } })
  | none => h

def execReturnAck (n : Fin 8) (u0 : BitVec 64) (s : State) : Ans := s.act (recvReturnAck n.val u0)

/-- REQ_REPEAT: an unacknowledged request goes again, up to 10 times; the lane of a retirement that runs out leaves through RECOVERY
(R171, R173). -/
def reqRepeat (n : Nat) (h : Hub) : Hub :=
  match (trk h n).change with
  | some c =>
    if c.acked then h
    else if c.sends < 11 then
      let h := queueLink h n (changeUnit (if c.isReturn then 0x12 else 0x10) c.mask c.target c.id false)
      modTrk h n (fun t => { t with change := some { c with sends := c.sends + 1 } })
    else if c.isReturn then h
    else
      toRecovery (removeLanes h n (2 ^ c.lane)) n
  | none => h

def execReqRepeat (n : Fin 8) (s : State) : Ans := s.act (reqRepeat n.val)

/-- STRIPE_SWITCH: the target COMMA_NO is reached (R171). -/
def execStripeSwitch (n : Fin 8) (s : State) : Ans :=
  s.act (fun h => if trkState h n.val = 7 ∧ changeDue h n.val then stripeSwitch n.val h else h)

/-- RETURN_TIMEOUT: no RETURN_ACK within 20 ms leaves the lane out and sets LANE_FAIL (R175). -/
def returnTimeout (n : Nat) (h : Hub) : Hub :=
  match (trk h n).change with
  | some c =>
    if !c.isReturn ∨ c.acked then h
    else
      let h := modTrk h n (fun t => { t with change := none, joining := t.joining &&& (15 ^^^ 2 ^ c.lane) })
      nextTodo 8 (restoreFailed (raise h 0x05 5 n 0) (4 * n + c.lane) c.waiter) n
  | none => h

def execReturnTimeout (n : Fin 8) (s : State) : Ans := s.act (returnTimeout n.val)

/-! ### Time tokens (R176, R177) -/

/-- TOKEN_SYNC: one per tick in ACTIVE, carrying its own departure time (R177). -/
def tokenSync (n t : Nat) (h : Hub) : Hub :=
  let h := atClk h t
  if trkState h n ≠ 7 ∨ h.tim.edges ≤ (trk h n).syncEdge then h
  else
    let num := fld h (aTrkTokenSeq n) 0 16
    let h := sendLink h n [linkUnit 0x20 (num * 2 ^ 40 + hubFx h % 65536), BitVec.ofNat 64 (hubNs h)]
    let h := setFld h (aTrkTokenSeq n) 0 16 ((num + 1) % 65536)
    modTrk h n (fun t => { t with syncEdge := h.tim.edges })

def execTokenSync (n : Fin 8) (t : Nat) (s : State) : Ans := s.act (tokenSync n.val t)

/-- TOKEN_REQ: the host's report is shown, and TOKEN_RESP carries the arrival time t4 (R177). -/
def tokenReq (n : Nat) (token : BitVec 16) (offset delay : Word) (t : Nat) (h : Hub) : Hub :=
  let h := atClk h t
  if trkState h n ≠ 7 then h
  else
    let h := setFld h (aTrkTokenSeq n) 16 16 token.toNat
    let h := wr (wr h (aTrkTokenOffset n) offset) (aTrkTokenDelay n) delay
    queueLink h n [linkUnit 0x22 (token.toNat * 2 ^ 40 + hubFx h % 65536), BitVec.ofNat 64 (hubNs h)]

def execTokenReq (n : Fin 8) (token : BitVec 16) (offset delay : Word) (t : Nat) (s : State) : Ans :=
  s.act (tokenReq n.val token offset delay t)

/-! ### Staves in (R140, R151, R163) -/

/-- The messages of a LINK body, each with the units of its own, up to code 0x00 or an unknown code (R163). -/
def linkMessages : Nat → List Word64 → List (List Word64)
  | 0, _ => []
  | _, [] => []
  | fuel + 1, u :: us =>
    let code := bitsOf u.toNat 56 8
    if [0x01, 0x20, 0x21, 0x22].contains code then (u :: us.take 1) :: linkMessages fuel (us.drop 1)
    else if [0x02, 0x03, 0x04, 0x05, 0x06, 0x07, 0x10, 0x11, 0x12, 0x13, 0x18, 0x19, 0x1F].contains code then [u] :: linkMessages fuel us
    else []

/-- The effect of a received message (R163). TOKEN_SYNC and TOKEN_RESP go from the hub to a host only. -/
def linkMessage (n : Nat) (h : Hub) (m : List Word64) : Hub :=
  let u0 := m.head?.getD 0
  let u1 := (m[1]?).getD 0
  match bitsOf u0.toNat 56 8 with
  | 0x01 => recvTs1 n u0 u1 h
  | 0x02 => modTrk h n (fun t => { t with ts2 := some u0 })
  | 0x03 => recvEqReq n u0 h
  | 0x04 => modTrk h n (fun t => { t with partnerEq := tput t.partnerEq (bitsOf u0.toNat 49 2) u0 })
  | 0x05 => recvEqDone n h
  | 0x06 => recvCredit n u0 h
  | 0x07 => recvReady n h
  | 0x10 => recvRetireReq n u0 h
  | 0x11 => recvRetireAck n u0 h
  | 0x12 => recvReturnReq n u0 (bitOf (drawFree h).2.toNat 0) (drawFree h).1
  | 0x13 => recvReturnAck n u0 h
  | 0x18 => recvIdleReq n h
  | 0x19 => recvIdleAck n u0 h
  | 0x1F => recvRecover n u0 h
  | 0x21 => tokenReq n (BitVec.ofNat 16 (bitsOf u0.toNat 40 16)) (u0.setWidth 32) (u1.setWidth 32) (h.tim.coreClk - h.tim.edgeClk) h
  | _ => h

/-- STAVE_RECEIVE: a stave in error is discarded whole, in ACTIVE with NAK; of any other ACTIVE uses the header and the body, and a
LINK stave gives its messages in every state that has a stream (R151, R161, R163). -/
def recvStave (n : Nat) (header : Word64) (body : List Word64) (wrong : List Nat) (h : Hub) : Hub :=
  let st := trkState h n
  if st < 3 ∨ st = 9 then h
  else if staveBad (fld h (aTrkStatus n) 6 2) header body wrong then
    if st = 7 then modTrk h n (fun t => { t with nak := true }) else h
  else
    let h := if st = 7 then takeStave h n header body else h
    if bitsOf header.toNat 60 4 = 2 then (linkMessages 31 body).foldl (linkMessage n) h else h

def execStaveReceive (n : Fin 8) (header : BitVec 64) (body : List (BitVec 64)) (wrong : List Nat) (s : State) : Ans :=
  s.act (recvStave n.val header body wrong)

end Sys2Proof.Machine
end

