-- ==== Sys2Proof/Machine/Pcie.lean ====
section
/-!
DEFINITION. The configuration space of the virtual PCIe switch and hub function (R246, R253-R255). The register offsets are
those of PCI Express Base, PRESUMED (notes/assumptions/30.md).
-/
namespace Sys2Proof.Machine

/-! ### Configuration space (R246, R253-R255) -/

/-- Functions of a dock's virtual switch: 0 upstream port, 1 hub function, 2 + n the port for Pn. -/
def cfgKey (d fn w : Nat) : Nat := (d * 16 + fn) * 1024 + w

/-- What a configuration word's writable bits start from: the defaults of PCI Express Base (R255). The severities of the failures of
R270 are 0 (R271). -/
def cfgDefault (fn w : Nat) : Word :=
  match w with
  | 18 => 0x2810
  | 66 => if fn = 1 then 0 else 0x00400000
  | 67 => if fn = 1 then 0 else 0x00062030
  | 69 => if fn = 1 then 0 else 0x6000
  | _ => 0

/-- The stored bits of a configuration word. -/
def cfgStored (h : Hub) (d fn w : Nat) : Nat := (tget (cfgDefault fn w) h.tun.config (cfgKey d fn w)).toNat

def cfgStore (h : Hub) (d fn w v : Nat) : Hub :=
  { h with tun := { h.tun with config := tset (cfgDefault fn w) h.tun.config (cfgKey d fn w) (W v) } }

/-- APER_LOG of a dock's hub function. -/
def aperLog (h : Hub) (d : Nat) : Nat := fld h (aTunHfCfg d) 0 6

/-- The bits of a configuration word that the host writes. -/
def cfgRw (h : Hub) (d fn w : Nat) : Nat :=
  let bridge := decide (fn ≠ 1)
  match w with
  | 1 => 0x547
  | 4 => if bridge then 0 else 0xFFFFE000
  | 5 => if bridge then 0 else 0xFFFFFFFF
  | 6 => if bridge then 0x00FFFFFF
         else if aperLog h d = 0 then 0 else (2 ^ 64 - 2 ^ aperLog h d) % 2 ^ 32
  | 7 => if bridge then 0xF0F0
         else if aperLog h d = 0 then 0 else (2 ^ 64 - 2 ^ aperLog h d) / 2 ^ 32
  | 8 => if bridge then 0xFFF0FFF0 else 0xFFFFF000
  | 9 => if bridge then 0xFFF0FFF0 else 0xFFFFFFFF
  | 10 => if bridge then 0xFFFFFFFF else 0
  | 11 => if bridge then 0xFFFFFFFF else 0
  | 12 => if bridge then 0xFFFFFFFF else 0
  | 15 => if bridge then 0x005300FF else 0xFF
  | 18 => 0x7FFF
  | 20 => if 2 ≤ fn then 0x1D3 else 0x43
  | 22 => if 2 ≤ fn then 0x1FFF else 0
  | 26 => if bridge then 0x80 else 0x1F
  | 32 => if bridge then 0 else 0xC0000000
  | 33 => if bridge then 0x103 else 0
  | 39 => if bridge then 0 else 0x103
  | 66 => if bridge then 0x07FFF030 else 0
  | 67 => if bridge then 0x078FF030 else 0
  | 69 => if bridge then 0xF1C1 else 0
  | 70 => if bridge then 0x140 else 0
  | 81 => if 2 ≤ fn then 0x1F0000 else 0
  | _ => 0

/-- The bits of a configuration word that a 1 clears. -/
def cfgW1c (fn w : Nat) : Nat :=
  match w with
  | 1 => 0xF9000000
  | 18 => 0x000F0000
  | 22 => if 2 ≤ fn then 0x011F0000 else 0
  | 65 => 0x07FFFFFF
  | 68 => 0xFFFF
  | _ => 0

/-- The debounced insertion detect of a channel that has one (R498, R500). -/
def pwcPresent (h : Hub) (c : Nat) : Bool :=
  decide (16 ≤ c) && tget false h.pwr.det c && decide (8 * fld h (aPwrPwcCfg1 c) 16 10 ≤ edgesSince h (tget 0 h.pwr.detEdge c))

/-- Insertion detect of a PCIe port's channel (R255). -/
def insertion (h : Hub) (n : Nat) : Bool := pwcPresent h (16 + n)

/-- The fixed bits of a configuration word as a host reads it. -/
def cfgFixed (h : Hub) (d fn w : Nat) : Nat :=
  let link := tget ⟨false, 0, 0⟩ h.tun.plinks (fn - 2)
  let speed := if fn = 0 then 6 else if link.rate = 0 then 6 else link.rate
  let width := if fn = 0 then 16 else if link.width = 0 then 2 else link.width
  let active := if fn = 0 then (members (dockMask h d)).any (fun n => decide (trkState h n = 7)) else link.up
  match fn, w with
  | 1, 0 => (rd h aTunHfId).toNat
  | _, 0 => (rd h aTunVswId).toNat
  | _, 1 => 0x00100000
  | 1, 2 => 0x08800000
  | _, 2 => 0x06040000
  | 1, 3 => 0
  | _, 3 => 0x00010000
  | 1, 4 => 4
  | 1, 6 => if aperLog h d = 0 then 0 else 0xC
  | 1, 8 => 4
  | _, 9 => if fn = 1 then 0 else 0x00010001
  | 1, 11 => (rd h aTunHfSubsys).toNat
  | _, 13 => 0x40
  | 0, 16 => 0x00528010
  | 1, 16 => 0x00028010
  | _, 16 => 0x01628010
  | _, 17 => 0x8001
  | _, 19 => if fn = 1 then 0 else 0x00100000 + width * 16 + speed + (if 2 ≤ fn then (fn - 2) * 2 ^ 24 else 0)
  | _, 20 => if fn = 1 then 0 else speed * 2 ^ 16 + width * 2 ^ 20 + (if active then 2 ^ 29 else 0)
  | _, 21 => if 2 ≤ fn then (fn - 2) * 2 ^ 19 + 0x60 else 0
  | _, 22 => if 2 ≤ fn ∧ insertion h (fn - 2) then 2 ^ 22 else 0
  | _, 25 => if fn = 1 then 0 else 0x40
  | 1, 32 => 0x000F9811
  | _, 32 => 0x00039001
  | 1, 33 => 4
  | 1, 34 => 0x804
  | _, 36 => if fn = 1 then 0 else 0x0000000D
  | _, 37 => if fn = 1 then 0 else (rd h aTunVswSubsys).toNat
  | 1, 38 => 0x00030001
  | 0, 64 => 0x00020001
  | 1, 64 => 0
  | _, 64 => 0x14020001
  | _, 80 => if 2 ≤ fn then 0x0001000D else 0
  | _, 81 => if 2 ≤ fn then 0x1F else 0
  | _, _ => 0

/-- A configuration word as a host reads it. -/
def cfgRead (h : Hub) (d fn w : Nat) : Nat := cfgStored h d fn w ||| cfgFixed h d fn w

/-- The byte lanes that enables name. -/
def beMask (be : Nat) : Nat := (List.range 4).foldl (fun m i => if bitOf be i then m + 255 * 256 ^ i else m) 0

/-- A host's write of a configuration word. -/
def cfgWord (h : Hub) (d fn w be v : Nat) : Hub :=
  let m := beMask be
  let rw := cfgRw h d fn w &&& m
  let old := cfgStored h d fn w
  let keep := old &&& (0xFFFFFFFF ^^^ rw) &&& (0xFFFFFFFF ^^^ (cfgW1c fn w &&& v &&& m))
  cfgStore h d fn w (keep ||| (v &&& rw))

/-- Command bits of a function: Memory Space Enable, Bus Master Enable, SERR# Enable. -/
def cfgCmd (h : Hub) (d fn i : Nat) : Bool := bitOf (cfgStored h d fn 1) i

/-- Secondary and subordinate bus of a port. -/
def secBus (h : Hub) (d fn : Nat) : Nat := bitsOf (cfgStored h d fn 6) 8 8
def subBus (h : Hub) (d fn : Nat) : Nat := bitsOf (cfgStored h d fn 6) 16 8

/-- Base and limit of a port's memory window and prefetchable window. -/
def memWindow (h : Hub) (d fn : Nat) : Nat × Nat :=
  let v := cfgStored h d fn 8
  (bitsOf v 4 12 * 2 ^ 20, bitsOf v 20 12 * 2 ^ 20 + 0xFFFFF)

def pfWindow (h : Hub) (d fn : Nat) : Nat × Nat :=
  let v := cfgStored h d fn 9
  (cfgStored h d fn 10 * 2 ^ 32 + bitsOf v 4 12 * 2 ^ 20, cfgStored h d fn 11 * 2 ^ 32 + bitsOf v 20 12 * 2 ^ 20 + 0xFFFFF)

/-- Base and limit of a port's I/O window. -/
def ioWindow (h : Hub) (d fn : Nat) : Nat × Nat :=
  let v := cfgStored h d fn 7
  (bitsOf v 4 4 * 4096, bitsOf v 12 4 * 4096 + 0xFFF)

def inWindow (w : Nat × Nat) (a len : Nat) : Bool := decide (w.1 ≤ a) && decide (a + len ≤ w.2 + 1)

/-- Does a port's memory or prefetchable window take a range? -/
def portTakes (h : Hub) (d fn a len : Nat) : Bool :=
  cfgCmd h d fn 1 && (inWindow (memWindow h d fn) a len || inWindow (pfWindow h d fn) a len)

/-- Bases of the hub function's BARs. -/
def bar0 (h : Hub) (d : Nat) : Nat := cfgStored h d 1 4 + cfgStored h d 1 5 * 2 ^ 32
def bar2 (h : Hub) (d : Nat) : Nat := cfgStored h d 1 6 + cfgStored h d 1 7 * 2 ^ 32
def bar4 (h : Hub) (d : Nat) : Nat := cfgStored h d 1 8 + cfgStored h d 1 9 * 2 ^ 32

/-- Is the hub function present (R246)? -/
def hfPresent (h : Hub) : Bool := decide (fld h aTunHfId 0 16 ≠ 0xFFFF)

/-- Is the hub function in D3hot? -/
def hfD3 (h : Hub) (d : Nat) : Bool := decide (cfgStored h d 1 39 % 4 = 3)

/-- The PCIe ports of a dock (R216). -/
def dockPorts (h : Hub) (d : Nat) : List Nat := (List.range 8).filter (fun n => (portEndOf h (8 + n) d).isSome)

/-- Is the physical link of Pn in L0? -/
def pcieUp (h : Hub) (n : Nat) : Bool := (tget ⟨false, 0, 0⟩ h.tun.plinks n).up

/-- Where a request of a host goes (R218, R256). -/
inductive Target where
  | nowhere | bar0 | bar2 | bar4
  | port (n : Nat)
deriving DecidableEq, Repr

/-- Decode a memory range of a dock: the upstream port takes it first, by its windows (R256). -/
def decodeMem (h : Hub) (d a len : Nat) : Target :=
  if !portTakes h d 0 a len then .nowhere
  else if hfPresent h && cfgCmd h d 1 1 && inWindow (bar0 h d, bar0 h d + 0x1FFF) a len then .bar0
  else if hfPresent h && cfgCmd h d 1 1 && inWindow (bar4 h d, bar4 h d + 0xFFF) a len then .bar4
  else if hfPresent h && cfgCmd h d 1 1 && decide (aperLog h d ≠ 0) &&
      inWindow (bar2 h d, bar2 h d + 2 ^ aperLog h d - 1) a len then .bar2
  else match (dockPorts h d).find? (fun n => portTakes h d (2 + n) a len) with
    | some n => .port n
    | none => .nowhere

/-- Decode an I/O range of a dock. -/
def decodeIo (h : Hub) (d a len : Nat) : Target :=
  if !(cfgCmd h d 0 0 && inWindow (ioWindow h d 0) a len) then .nowhere
  else match (dockPorts h d).find? (fun n => cfgCmd h d (2 + n) 0 && inWindow (ioWindow h d (2 + n)) a len) with
  | some n => .port n
  | none => .nowhere

end Sys2Proof.Machine
end

