-- ==== Sys2Proof/Machine/Bridge.lean ====
section
/-!
DEFINITION. The bridge between tunnels and PCIe ports (chapters 7 and 8): the hub function's control page and event ring,
tags and completion space, posted-write failures, the virtual switch, locks, prefetch, and the ends that vanish.
-/
namespace Sys2Proof.Machine

/-! ### Packets that the hub builds -/

/-- Send a PCIe packet on a dock's PCIe trunk tunnel from a switch port; the packet is lost where the dock has none. -/
def pcieUpward (h : Hub) (ing d kind : Nat) (t : Tlp) (tag flow dev cells : Nat) : Hub :=
  match trunkEnd h d 1 with
  | none => h
  | some e =>
    let r := newPkt h ing e.sp (plainHdr 1 e.tid kind tag flow dev) (tlpBytes t) kind d e.cls d cells
    enter r.1 r.2

/-- Is there a host end that can take packets of a dock (R268)? -/
def hostDeliverable (h : Hub) (d : Nat) : Bool := (trunkEnd h d 1).isSome && hostReachable h d

/-- Requester ID of the hub function and of a port. -/
def hfId (h : Hub) (d : Nat) : Nat := secBus h d 0 * 256
def portId (h : Hub) (d n : Nat) : Nat := secBus h d 0 * 256 + (1 + n) * 8

/-- Requester ID of a function of the virtual switch. -/
def fnId (h : Hub) (d fn : Nat) : Nat :=
  if fn = 0 then bitsOf (cfgStored h d 0 6) 0 8 * 256 else if fn = 1 then hfId h d else portId h d (fn - 2)

/-! ### Host events (R249-R251) -/

def evrAt (h : Hub) (d : Nat) : Evr := tget Evr.idle h.tun.evr d

def setEvr (h : Hub) (d : Nat) (e : Evr) : Hub := { h with tun := { h.tun with evr := tset Evr.idle h.tun.evr d e } }

/-- A word of BAR4 (R246): a vector is masked until the host unmasks it. -/
def bar4Word (h : Hub) (d i : Nat) : Nat :=
  (tget (if i < 64 ∧ i % 4 = 3 then 1 else 0) h.tun.bar4 (d * 1024 + i)).toNat

def setBar4 (h : Hub) (d i v : Nat) : Hub :=
  { h with tun := { h.tun with bar4 := tset (if i < 64 ∧ i % 4 = 3 then 1 else 0) h.tun.bar4 (d * 1024 + i) (W v) } }

/-- Send an MSI-X vector of the hub function, or set its pending bit while it is masked. -/
def hfMsix (h : Hub) (d v : Nat) : Hub :=
  let ctl := cfgStored h d 1 32
  if !bitOf ctl 31 then h
  else if bitOf ctl 30 ∨ bitOf (bar4Word h d (4 * v + 3)) 0 then
    setBar4 h d 512 (bar4Word h d 512 ||| 2 ^ v)
  else
    let a := bar4Word h d (4 * v) + bar4Word h d (4 * v + 1) * 2 ^ 32
    pcieUpward h 22 d 0 (tlpWrite (hfId h d) a (leBytes 4 (bar4Word h d (4 * v + 2)))) 0 0 0 0

/-- Pending vectors that are no longer masked are sent and their bits clear. -/
def msixFlush (h : Hub) (d : Nat) : Hub :=
  (bitsSet 16 (bar4Word h d 512)).foldl (fun h v => hfMsix (setBar4 h d 512 (bar4Word h d 512 &&& (0xFFFFFFFF ^^^ 2 ^ v))) d v) h

/-- Write one record at TAIL: bytes 4-15, then bytes 0-3, then the vector (R249). -/
def evrWrite (h : Hub) (d type data tick : Nat) : Hub :=
  let e := evrAt h d
  let a := e.base + 16 * e.tail
  let size := 2 ^ bitsOf e.ctl 16 4
  let h := pcieUpward h 22 d 0 (tlpWrite (hfId h d) (a + 4) (leBytes 4 data ++ leBytes 8 tick)) 0 0 0 0
  let h := pcieUpward h 22 d 0 (tlpWrite (hfId h d) a (leBytes 4 (type + (if e.phase then 2 ^ 31 else 0)))) 0 0 0 0
  let wrap := decide (e.tail + 1 = size)
  let h := setEvr h d { e with tail := if wrap then 0 else e.tail + 1, phase := if wrap then !e.phase else e.phase }
  hfMsix h d (bitsOf e.ctl 0 4)

/-- Free entries of a ring. -/
def evrFree (e : Evr) : Nat :=
  let size := 2 ^ bitsOf e.ctl 16 4
  (e.head + 2 * size - e.tail - 1) % size

/-- An event is lost (R250). -/
def evrLose (h : Hub) (d : Nat) : Hub :=
  let e := evrAt h d
  setEvr h d { e with lost := min 0xFFFFFFFF (e.lost + 1), since := e.since + 1 }

/-- Queue an event on EP1 of the device function (R367). -/
def ep1Post (h : Hub) (d type data tick : Nat) : Hub :=
  if !flag h (aUsbVhCfg d) 9 || !flag h (aUsbVhCfg d) 8 || decide (fld h aUsbDfId 0 16 = 0xFFFF) then h
  else
    let q := tget [] h.usb.ep1 d
    if 16 ≤ q.length then { h with usb := { h.usb with ep1Lost := tmod 0 h.usb.ep1Lost d (· + 1) } }
    else { h with usb := { h.usb with ep1 := tset [] h.usb.ep1 d (q ++ [(type, data, tick)]) } }

/-- Post an event to a dock's ring (R249, R250): OVERFLOW goes ahead once two entries are free. -/
def evrPost (h : Hub) (d type data tick : Nat) : Hub :=
  let e := evrAt h d
  if !bitOf e.ctl 31 || !cfgCmd h d 1 2 || dockFrozen h d then evrLose h d
  else if e.since = 0 then (if evrFree e = 0 then evrLose h d else evrWrite h d type data tick)
  else if evrFree e < 2 then evrLose h d
  else
    let h := evrWrite h d 0x0F e.since tick
    let h := setEvr h d { evrAt h d with since := 0 }
    evrWrite h d type data tick

/-- An event of a dock (R249): held in D3hot (R246). -/
def hfEvent (h : Hub) (d type data : Nat) : Hub :=
  if !dockCreated h d then h
  else
    let tick := tickNo h
    let h := if dockFrozen h d then h else ep1Post h d type data tick
    if hfD3 h d && !dockFrozen h d then setEvr h d { evrAt h d with held := (evrAt h d).held ++ [(type, data, tick)] }
    else evrPost h d type data tick

/-- The events held in D3hot go when the function returns to D0. -/
def hfWake (h : Hub) (d : Nat) : Hub :=
  let l := (evrAt h d).held
  l.foldl (fun h x => evrPost h d x.1 x.2.1 x.2.2) (setEvr h d { evrAt h d with held := [] })

/-- What a dock's host sends while the ingress gates are closed is dropped and counted (R386). -/
def hostGate (d : Nat) (f : Hub → Hub) (h : Hub) : Hub :=
  if gatesClosed h d then count h (aVdkCntFrozenDrop d) 1 else f h

/-- A dock's host reaches its hub function's registers through the dock's PCIe trunk tunnel, while that is open, the function is present
and its Memory Space Enable set; frozen ingress gates come first (R25, R246, R386). -/
def hubPage (d : Nat) (f : Hub → Hub) (h : Hub) : Hub :=
  hostGate d (fun h => if (trunkEnd h d 1).isSome && hfPresent h && cfgCmd h d 1 1 then f h else h) h

/-- DOORBELL: a host write to HF_DBk (R248); dropped in D3hot (R246). -/
def doorbell (d k v : Nat) (h : Hub) : Hub :=
  if !dockCreated h d || hfD3 h d then h
  else
    let h := wr h (aTunDb d k) (W v)
    let h := if flag h (aTunDbPending d) k then setFlag h (aTunDbPending d) (8 + k) true else setFlag h (aTunDbPending d) k true
    raise h 0x06 4 0 (d * 2 ^ 16 + k)

def execDoorbell (d : Fin 64) (k : Fin 8) (value : Word) (s : State) : Ans := s.act (hubPage d.val (doorbell d.val k.val value.toNat))

/-- HF_EVR_CTL (R251): EN from 0 to 1 needs a valid size and starts the ring over (R249). -/
def evrCtl (d v : Nat) (h : Hub) : Hub :=
  if !dockCreated h d then h
  else
    let e := evrAt h d
    let size := bitsOf v 16 4
    let on := bitOf v 31
    let ok := decide (4 ≤ size) && decide (size ≤ 12)
    let vec := bitsOf v 0 4
    if bitOf e.ctl 31 ∧ on then
      if size = bitsOf e.ctl 16 4 then setEvr h d { e with ctl := putBits e.ctl 0 4 vec } else h
    else if on ∧ !ok then setEvr h d { e with ctl := putBits e.ctl 0 4 vec }
    else
      let e := { e with ctl := (if on then 2 ^ 31 else 0) + size * 2 ^ 16 + vec }
      setEvr h d (if on then { e with head := 0, tail := 0, phase := true } else e)

def execEvrCtlWrite (d : Fin 64) (value : Word) (s : State) : Ans := s.act (hubPage d.val (evrCtl d.val value.toNat))

/-- HF_EVR_BASE: discarded while EN = 1 (R251). -/
def evrBase (d : Nat) (high : Bool) (v : Nat) (h : Hub) : Hub :=
  if !dockCreated h d then h
  else
    let e := evrAt h d
    if bitOf e.ctl 31 then h
    else setEvr h d { e with base := if high then putBits e.base 32 32 v else putBits e.base 0 32 (v / 16 * 16) }

def execEvrBaseWrite (d : Fin 64) (high : Bool) (value : Word) (s : State) : Ans := s.act (hubPage d.val (evrBase d.val high value.toNat))

/-- HF_EVR_HEAD: a value past the ring is discarded (R251). -/
def evrHead (d v : Nat) (h : Hub) : Hub :=
  if !dockCreated h d then h
  else
    let e := evrAt h d
    let n := bitsOf v 0 12
    if 2 ^ bitsOf e.ctl 16 4 ≤ n then h else setEvr h d { e with head := n }

def execEvrHeadWrite (d : Fin 64) (value : Word) (s : State) : Ans := s.act (hubPage d.val (evrHead d.val value.toNat))

/-! ### Posted writes that fail (R270-R272) -/

/-- AER bit of a failure code. -/
def aerBit (code : Nat) : Nat := if code = 3 ∨ code = 5 then 22 else if code = 7 then 21 else 20

/-- Fill a port's Header Log and send ERR_NONFATAL from it (R271 step 2). -/
def aerReport (h : Hub) (d fn bit : Nat) (t : Tlp) : Hub :=
  let h := cfgStore h d fn 65 (cfgStored h d fn 65 ||| 2 ^ bit)
  let hdr := tlpBytes { t with data := [] }
  let h := (List.range 4).foldl (fun h i => cfgStore h d fn (71 + i) (dwAt hdr i)) h
  let h := cfgStore h d fn 18 (cfgStored h d fn 18 ||| 2 ^ 17 ||| (if bit = 20 then 2 ^ 19 else 0))
  let quiet := bitOf (cfgStored h d fn 66) bit || (!bitOf (cfgStored h d fn 18) 1 && !cfgCmd h d fn 8)
  if quiet ∨ !hostDeliverable h d then h
  else pcieUpward h 22 d 0 (tlpMsg (fnId h d fn) 0x31) 0 0 0 0

/-- An Advisory Non-Fatal Error of a function with its uncorrectable status bit (R269): ERR_COR goes unless the host has masked it
or left Correctable Error Reporting off. -/
def aerAdvisory (h : Hub) (d fn bit : Nat) : Hub :=
  let h := cfgStore h d fn 68 (cfgStored h d fn 68 ||| 2 ^ 13)
  let h := cfgStore h d fn 65 (cfgStored h d fn 65 ||| 2 ^ bit)
  let h := cfgStore h d fn 18 (cfgStored h d fn 18 ||| 2 ^ 16)
  if bitOf (cfgStored h d fn 69) 13 || bitOf (cfgStored h d fn 66) bit || !bitOf (cfgStored h d fn 18) 0 || !hostDeliverable h d then h
  else pcieUpward h 22 d 0 (tlpMsg (fnId h d fn) 0x30) 0 0 0 0

/-- A posted write fails (R271): code, port that reports, direction toward the host, hub function as target, handle. -/
def postedFail (h : Hub) (d code fn : Nat) (toHost hf : Bool) (dev : Nat) (t : Tlp) : Hub :=
  let n := (rd h (aTunPelCount d)).toNat
  let e := n % 64
  let tid := ((trunkEnd h d 1).map (·.tid)).getD 0
  let info := code * 2 ^ 24 + (if toHost then 2 ^ 23 else 0) + (if hf then 2 ^ 22 else 0) + (if hf then 0 else dev) * 2 ^ 12 + tid
  let h := wr64 h (aTunPel d e 0) t.addr.toNat
  let h := wr (wr h (aTunPel d e 2) (W info)) (aTunPel d e 3) (W (tickNo h))
  let h := wr h (aTunPelCount d) (W (n + 1))
  let h := if 64 ≤ n then wr h (aTunPelOverflow d) (W ((rd h (aTunPelOverflow d)).toNat + 1)) else h
  let h := aerReport (count h aTunCntPostedErr 1) d fn (aerBit code) t
  let h := if hostDeliverable h d then hfEvent h d 0x07 e else h
  raise h 0x07 0 0 (d * 2 ^ 16 + e)

/-- Report the posted writes among packets lost in the switch core (R270 code 0x03). -/
def failLost (h : Hub) (l : List Pkt) : Hub :=
  (lostWrites l).foldl (fun h p =>
    match bytesTlp p.payload with
    | some t =>
      if t.kind ≠ .memWr ∨ 64 ≤ p.src then h
      else
        let up := decide (p.egr < 8)
        let n := if up then p.hdr.dev.toNat % 8 else p.egr - 8
        if 8 ≤ n then h else postedFail h p.src 0x03 (2 + n) up false n t
    | none => h) h

/-! ### Tags and completion space (R238-R240, R264, R265) -/

/-- The lowest key not listed. -/
def firstGap {α : Type} : Tab α → Nat → Nat
  | [], n => n
  | (k, _) :: t, n => if k = n then firstGap t (n + 1) else if n < k then n else firstGap t n

/-- Completion space of a request of PCIe (R264). -/
def npCells (a len : Nat) : Nat := 3 * ((a % 256 + len + 255) / 256)

def poolSize (h : Hub) (sp : Nat) : Nat := fld h (aTunCplpool sp) 0 17

/-- Is there room in a pool? -/
def poolRoom (h : Hub) (sp cells : Nat) : Bool := decide (tget 0 h.tun.cplUse sp + cells ≤ poolSize h sp)

/-- Take a tag with its completion space: the tag, or whether it is the pool that lacks room. -/
def takeTag (h : Hub) (t : Tag) : Hub × Except Bool Nat :=
  let n := firstGap h.tun.tags 0
  if 4096 ≤ n then (h, .error false)
  else if !poolRoom h t.retSp t.cells then (h, .error true)
  else
    let use := tget 0 h.tun.cplUse t.retSp + t.cells
    let tags := tput h.tun.tags n { t with issued := h.tim.edges }
    let h := { h with tun := { h.tun with
      tags := tags, tagHigh := max h.tun.tagHigh tags.length, cplUse := tset 0 h.tun.cplUse t.retSp use } }
    let h := if fld h (aTunCpluse t.retSp) 16 16 < use then setFld h (aTunCpluse t.retSp) 16 16 (min 0xFFFF use) else h
    let h := tally h 0x20 0x0201 1 (some ⟨t.retSp, t.dock, 0, memAddr 1 (tlpBytes t.tlp)⟩)
    (if tags.length = 4096 then raise h 0x06 0 0 0 else h, .ok n)

/-- Free a tag, with its completion space unless a packet carries it away. -/
def freeTag (h : Hub) (n : Nat) (keepCells : Bool) : Hub :=
  match tfind h.tun.tags n with
  | none => h
  | some t =>
    let use := if keepCells then h.tun.cplUse else tmod 0 h.tun.cplUse t.retSp (fun u => u - t.cells)
    { h with tun := { h.tun with tags := tdel h.tun.tags n, cplUse := use } }

/-- A request waits at its ingress adapter (R240, R265). -/
def waitFor (h : Hub) (ing : Nat) (p : TunPacket) (pool : Bool) : Hub :=
  let e := resolveEnd h ing p.hdr.tid.toNat
  let h := tally h 0x20 0x0203 1 (some ⟨ing, (e.map (·.dock)).getD 64, (e.map (·.cls)).getD 0, memAddr p.hdr.type.toNat p.payload⟩)
  if pool then count { h with tun := { h.tun with waitPool := h.tun.waitPool ++ [(ing, p)] } } aTunCntCplPoolWait 1
  else count { h with tun := { h.tun with waitTag := h.tun.waitTag ++ [(ing, p)] } } aTunCntTagWait 1

/-- Does an ingress port hold back its non-posted requests? -/
def npBlocked (h : Hub) (ing : Nat) : Bool := (h.tun.waitTag ++ h.tun.waitPool).any (fun e => decide (e.1 = ing))

/-! ### Completions that the hub makes -/

/-- Complete a request toward the host of a dock. -/
def cplHost (h : Hub) (d : Nat) (t : Tlp) (status : Nat) (data : List Byte) : Hub :=
  pcieUpward h 22 d 2 (tlpCpl t status data) 0 0 0 0

/-- Send a packet down to Pn from a switch port. -/
def pcieDown (h : Hub) (ing n kind : Nat) (t : Tlp) (tag flow dev src cells : Nat) : Hub × Option Pkt :=
  match portEnd h (8 + n) with
  | none => (h, none)
  | some e =>
    let r := newPkt h ing (8 + n) (plainHdr 1 e.tid kind tag flow dev) (tlpBytes t) kind e.dock e.cls src cells
    (r.1, some r.2)

def enterSome (r : Hub × Option Pkt) : Hub :=
  match r.2 with
  | some p => enter r.1 p
  | none => r.1

/-- Complete a request toward the device on Pn. -/
def cplDev (h : Hub) (d n : Nat) (t : Tlp) (status : Nat) : Hub := enterSome (pcieDown h 22 n 2 (tlpCpl t status []) 0 0 0 d 0)

/-- Complete the request that a tag records, toward where it came from. -/
def cplTag (h : Hub) (t : Tag) (status : Nat) : Hub :=
  if t.retSp < 8 then cplHost h t.dock t.tlp status [] else cplDev h t.dock (t.retSp - 8) t.tlp status

/-! ### Prefetch (R260, R261) -/

def pfOf (h : Hub) (n : Nat) : List Pf := tget [] h.tun.prefetch n

def setPf (h : Hub) (n : Nat) (l : List Pf) : Hub :=
  { h with tun := { h.tun with prefetch := tset [] h.tun.prefetch n l } }

/-- Discard the prefetch entries of Pn that a predicate takes; unused ones count. -/
def dropPf (h : Hub) (n : Nat) (f : Pf → Bool) : Hub :=
  let l := pfOf h n
  count (setPf h n (l.filter (fun x => !f x))) aTunCntPfDiscard (l.filter (fun x => f x && !x.used)).length

/-- The address that the tag of a prefetch read bears once its data is older than an event that discards entries. -/
def pfStale : Nat := 2 ^ 64

/-- Discard every prefetch entry of Pn, and what its prefetch reads under way will bring (R261). -/
def flushPf (h : Hub) (n : Nat) : Hub :=
  let h := dropPf h n (fun _ => true)
  { h with tun := { h.tun with tags := h.tun.tags.map (fun e =>
      (e.1, if e.2.prefetch.isSome ∧ e.2.dev = n then { e.2 with prefetch := some pfStale } else e.2)) } }

/-- PREFETCH_EXPIRY: at the second edge after an entry was filled (R261). -/
def execPrefetchExpiry (p : Fin 8) (s : State) : Ans :=
  s.act (fun h => dropPf h p.val (fun x => decide (2 ≤ edgesSince h x.edge)))

/-- Cut read data at the completion boundary into payloads of at most 256 bytes (R229). -/
def cutRcb : Nat → Nat → List Byte → List (Nat × List Byte)
  | 0, _, _ => []
  | n + 1, a, bs =>
    if bs = [] then [] else
      let k := 256 - a % 256
      (a, bs.take k) :: cutRcb n (a + k) (bs.drop k)

/-- Answer a read toward the host with data, in completions cut at the boundary. -/
def cplRead (h : Hub) (ing d : Nat) (t : Tlp) (a : Nat) (data : List Byte) (cells : Nat) : Hub :=
  let pieces := cutRcb (data.length + 1) a data
  (pieces.foldl (fun (x : Hub × Nat) pc =>
    let last := decide (x.2 = pc.2.length)
    let c := { tlpCpl t 0 pc.2 with byteCount := x.2, addr := BitVec.ofNat 64 (pc.1 % 128) }
    (pcieUpward x.1 ing d 2 c 0 0 0 (if last then cells else 0), x.2 - pc.2.length)) (h, data.length)).1

/-- Put the data of a prefetch read into a buffer: a later piece of the read joins its entry, and the first replaces the least
recently filled of four (R261). The age of an entry counts from its last filling. -/
def fillPf (h : Hub) (n : Nat) (first : Bool) (a : Nat) (data : List Byte) : Hub :=
  let l := pfOf h n
  let grows := fun (x : Pf) => !first && decide (x.addr + x.data.length = a) && decide (x.data.length + data.length ≤ 4096)
  if pfStale ≤ a then h
  else if l.any grows then
    setPf h n (l.filter (fun x => !grows x) ++ (l.filter grows).map (fun x => { x with data := x.data ++ data, edge := h.tim.edges }))
  else if !first then h
  else
    let h := if 4 ≤ l.length then count h aTunCntPfDiscard (if (l.head?.map (·.used)).getD true then 0 else 1) else h
    setPf h n ((if 4 ≤ l.length then l.drop 1 else l) ++ [⟨a, data, h.tim.edges, false⟩])

/-! ### Locks (R257-R259) -/

/-- The owner of Pn's bridge semaphore. -/
def lockOwner (h : Hub) (n : Nat) : Option (Nat × Nat) :=
  if flag h (aTunBrgLock n) 31 then some (fld h (aTunBrgLock n) 16 6, fld h (aTunBrgLock n) 0 16) else none

/-- Must a request toward Pn wait for the semaphore? -/
def lockedOut (h : Hub) (n d reqId : Nat) : Bool :=
  match lockOwner h n with
  | some o => decide (o ≠ (d, reqId))
  | none => false

/-- Take the semaphore of Pn: prefetched data of Pn is discarded (R257, R261). -/
def lockTake (h : Hub) (n d reqId : Nat) : Hub :=
  match lockOwner h n with
  | some _ => h
  | none =>
    let h := wr h (aTunBrgLock n) (W (2 ^ 31 + d * 2 ^ 16 + reqId))
    flushPf { h with tun := { h.tun with lockEdge := tput h.tun.lockEdge n h.tim.edges } } n

/-- A packet for Pn goes on, or waits at the bridge while another holds the semaphore. -/
def lockPass (h : Hub) (n d : Nat) (p : Pkt) : Hub :=
  match bytesTlp p.payload with
  | none => h
  | some t =>
    if !isCpl t && (lockedOut h n d t.reqId.toNat || (tget [] h.tun.lockHeld n != [] && lockOwner h n ≠ some (d, t.reqId.toNat))) then
      { h with tun := { h.tun with lockHeld := tmod [] h.tun.lockHeld n (fun l => l ++ [p]) } }
    else enter (if t.kind = .memRdLk then lockTake h n d t.reqId.toNat else h) p

/-- The requests held at Pn's bridge go on in order. -/
def lockDrain (h : Hub) (n : Nat) : Hub :=
  let l := tget [] h.tun.lockHeld n
  l.foldl (fun h p => lockPass h n p.src p) { h with tun := { h.tun with lockHeld := tset [] h.tun.lockHeld n [] } }

/-- Release the semaphore of Pn. -/
def lockRelease (h : Hub) (n : Nat) : Hub :=
  lockDrain { wr h (aTunBrgLock n) 0 with tun := { h.tun with lockEdge := tdel h.tun.lockEdge n } } n

/-- Send an Unlock message to Pn from a switch port. -/
def sendUnlock (h : Hub) (ing n d reqId : Nat) : Hub := enterSome (pcieDown h ing n 0 (tlpMsg reqId 0) 0 0 0 d 0)

/-- Release the semaphore of Pn and mark its owner broken (R259, R387). -/
def lockBroken (h : Hub) (n : Nat) : Hub :=
  match lockOwner h n with
  | none => h
  | some o =>
    let h := sendUnlock h 22 n o.1 o.2
    let h := { h with tun := { h.tun with broken := if h.tun.broken.contains o then h.tun.broken else h.tun.broken ++ [o] } }
    raise (count (lockRelease h n) aTunCntLockBreak 1) 0x07 1 0 0

/-- LOCK_BREAK: 8 tick edges after the semaphore was taken (R258, R259). -/
def lockBreak (n : Nat) (h : Hub) : Hub :=
  match tfind h.tun.lockEdge n with
  | some e => if 8 ≤ edgesSince h e then lockBroken h n else h
  | none => h

def execLockBreak (p : Fin 8) (s : State) : Ans := s.act (lockBreak p.val)

/-- UNLOCK: the owner's message is forwarded, behind what its host sent before it, and ends the lock; any other is consumed (R258,
R259). -/
def unlock (ing d reqId : Nat) (h : Hub) : Hub :=
  match (List.range 8).find? (fun n => decide (lockOwner h n = some (d, reqId))) with
  | some n => lockRelease (sendUnlock h ing n d reqId) n
  | none => h

def execUnlock (d : Fin 64) (reqId : BitVec 16) (s : State) : Ans :=
  s.act (fun h => match trunkEnd h d.val 1 with
    | some e => hostGate d.val (unlock e.sp d.val reqId.toNat) h
    | none => h)

/-! ### Prefetch reads (R260) -/

/-- End of the extension of a read that ends at e, in a window that ends before w, under a prefetch register (R260). -/
def pfEnd (h : Hub) (reg e w : Nat) : Nat := min (min (e + fld h reg 0 7 * 64) ((e + 4095) / 4096 * 4096)) w

/-- The extension of a host read as a read of the hub's own, with its own tag and completion space; skipped rather than wait for
either (R260). `go` sends it. -/
def prefetchRead (h : Hub) (e : EndInfo) (dev req a len : Nat) (go : Hub → Tlp → Nat → Hub) : Hub :=
  let num := firstGap h.tun.tags 0
  let x : Tlp := { tlpZero with
    kind := .memRd, reqId := BitVec.ofNat 16 req, tag := BitVec.ofNat 14 num, addr := BitVec.ofNat 64 a, len := len }
  match takeTag h ⟨1, false, e.dock, e.sp, e.tid, dev, req, num, 0, npCells a len, len, none, x, some a⟩ with
  | (h, .ok n) => go h x n
  | (_, .error _) => h

/-- A host read toward Pn is extended when it lies wholly in the prefetchable window (R260). The extension, the hub's own request,
waits at the bridge while another holds the semaphore (R258). -/
def prefetch (h : Hub) (e : EndInfo) (n : Nat) (t : Tlp) : Hub :=
  let a := t.addr.toNat
  let w := pfWindow h e.dock (2 + n)
  let stop := pfEnd h (aTunPf n) (a + t.len) (w.2 + 1)
  if !flag h (aTunPf n) 31 ∨ t.kind ≠ .memRd ∨ !cfgCmd h e.dock (2 + n) 1 ∨ !inWindow w a t.len ∨ stop ≤ a + t.len then h
  else prefetchRead h e n (portId h e.dock n) (a + t.len) (stop - (a + t.len)) (fun h x _ =>
    match pcieDown h e.sp n 1 x 0 0 0 e.dock 0 with
    | (h, some p) => lockPass h n e.dock p
    | (h, none) => h)

/-- The key of the prefetch entries of a dock's BAR2. -/
def pfAper (d : Nat) : Nat := 8 + d

/-- A host read of BAR2 is extended under TUN_PF_APER by the same rule (R260). -/
def prefetchAper (h : Hub) (e : EndInfo) (t : Tlp) : Hub :=
  let a := t.addr.toNat
  let stop := pfEnd h aTunPfAper (a + t.len) (bar2 h e.dock + 2 ^ aperLog h e.dock)
  if !flag h aTunPfAper 31 ∨ t.kind ≠ .memRd ∨ stop ≤ a + t.len then h
  else prefetchRead h e (1024 * pfAper e.dock) (hfId h e.dock) (a + t.len) (stop - (a + t.len)) (fun h x n =>
    let r := newPkt h e.sp 21 (plainHdr 1 e.dock 1 n 0 0) (tlpBytes x) 1 e.dock e.cls e.dock 0
    enter r.1 r.2)

/-- Discard the prefetch entries of a dock's BAR2, and what its reads under way will bring. -/
def flushAper (h : Hub) (d : Nat) : Hub :=
  let h := dropPf h (pfAper d) (fun _ => true)
  { h with tun := { h.tun with tags := h.tun.tags.map (fun e =>
      (e.1, if e.2.prefetch.isSome ∧ e.2.dev = 1024 * pfAper d then { e.2 with prefetch := some pfStale } else e.2)) } }

/-! ### Non-posted requests from a host -/

/-- A tag entry for a host's request toward a handle; 1024 stands for the hub function, whose DEV reads 0. -/
def hostTag (e : EndInfo) (dev : Nat) (t : Tlp) : Tag :=
  let len := if t.kind = .memRd ∨ t.kind = .memRdLk then t.len else 4
  ⟨1, false, e.dock, e.sp, e.tid, dev, t.reqId.toNat, t.tag.toNat, 0, npCells t.addr.toNat len, len, none, t, none⟩

/-- Take a tag for a host's request, or let it wait; then go on. -/
def withHostTag (h : Hub) (ing : Nat) (e : EndInfo) (hdr : Hdr) (dev : Nat) (t orig : Tlp) (retry : Bool) (f : Hub → Nat → Hub) : Hub :=
  let p : TunPacket := ⟨hdr, tlpBytes orig, []⟩
  if npBlocked h ing && !retry then waitFor h ing p ((h.tun.waitTag.any (fun x => decide (x.1 = ing))) = false)
  else match takeTag h (hostTag e dev t) with
    | (h, .ok n) => f h n
    | (h, .error pool) => if retry then
        { h with tun := if pool then { h.tun with waitPool := (ing, p) :: h.tun.waitPool }
                        else { h.tun with waitTag := (ing, p) :: h.tun.waitTag } }
      else waitFor h ing p pool

/-- A host's request goes to Pn (R257, R258, R260, R273); AtomicOp Egress Blocking of the port stops an AtomicOp (R256). -/
def npToPort (h : Hub) (ing : Nat) (e : EndInfo) (hdr : Hdr) (n : Nat) (t orig : Tlp) (retry : Bool) : Hub :=
  if !pcieUp h n ∨ (t.kind = .atomic ∧ bitOf (cfgStored h e.dock (2 + n) 26) 7) then cplHost h e.dock t 1 []
  else withHostTag h ing e hdr n t orig retry (fun h _ =>
    match pcieDown h ing n 1 t 0 0 0 e.dock 0 with
    | (h, some p) => prefetch (lockPass h n e.dock p) e n t
    | (h, none) => h)

/-- A host's request goes to the hub function or the surface aperture. -/
def npToHf (h : Hub) (ing : Nat) (e : EndInfo) (hdr : Hdr) (sp : Nat) (t : Tlp) (retry : Bool) : Hub :=
  withHostTag h ing e hdr 1024 t t retry (fun h n =>
    let r := newPkt h ing sp (plainHdr 1 e.dock 1 n 0 0) (tlpBytes t) 1 e.dock e.cls e.dock 0
    if sp = 21 then prefetchAper (enter r.1 r.2) e t else enter r.1 r.2)

/-- A host read that lies wholly inside a valid prefetch entry is answered from it (R261). -/
def pfHit (h : Hub) (n a len : Nat) : Option Pf :=
  (pfOf h n).find? (fun x => decide (x.addr ≤ a) && decide (a + len ≤ x.addr + x.data.length) && decide (edgesSince h x.edge < 2))

/-- Answer a host read from a prefetch entry. -/
def pfAnswer (h : Hub) (ing n : Nat) (e : EndInfo) (t : Tlp) (x : Pf) : Hub :=
  let a := t.addr.toNat
  let h := setPf h n ((pfOf h n).map (fun y => if y = x then { y with used := true } else y))
  cplRead (count h aTunCntPfHit 1) ing e.dock t a ((x.data.drop (a - x.addr)).take t.len) 0

/-- MRdLk from a host (R257, R259). -/
def hostLocked (h : Hub) (ing : Nat) (e : EndInfo) (hdr : Hdr) (t : Tlp) (retry : Bool) : Hub :=
  let o := (e.dock, t.reqId.toNat)
  if h.tun.broken.contains o then
    cplHost { h with tun := { h.tun with broken := h.tun.broken.erase o } } e.dock t 4 []
  else match decodeMem h e.dock t.addr.toNat t.len with
    | .port n =>
      if (List.range 8).any (fun m => decide (m ≠ n) && decide ((lockOwner h m).map (·.1) = some e.dock)) then
        cplHost h e.dock t 1 []
      else npToPort h ing e hdr n t t retry
    | _ => cplHost h e.dock t 1 []

/-- A host's memory, I/O or atomic request (R218, R256). -/
def hostRequest (h : Hub) (ing : Nat) (e : EndInfo) (hdr : Hdr) (t : Tlp) (retry : Bool) : Hub :=
  let a := t.addr.toNat
  let io := decide (t.kind = .ioRd) || decide (t.kind = .ioWr)
  match (if io then decodeIo h e.dock a (max 1 t.len) else decodeMem h e.dock a (max 1 t.len)) with
  | .nowhere => cplHost h e.dock t 1 []
  | .port n =>
    match (if t.kind = .memRd ∧ pcieUp h n ∧ !lockedOut h n e.dock t.reqId.toNat then pfHit h n a t.len else none) with
    | some x => pfAnswer h 22 n e t x
    | none => npToPort h ing e hdr n t t retry
  | .bar2 =>
    if t.kind = .atomic then cplHost h e.dock t 1 []
    else
      let h := dropPf h (pfAper e.dock) (fun x => decide (2 ≤ edgesSince h x.edge))
      match (if t.kind = .memRd then pfHit h (pfAper e.dock) a t.len else none) with
      | some x => pfAnswer h 21 (pfAper e.dock) e t x
      | none => npToHf h ing e hdr 21 t retry
  | _ => if t.kind = .atomic then cplHost h e.dock t 1 [] else npToHf h ing e hdr 22 t retry

/-! ### Configuration requests (R254, R255) -/

/-- The configuration request of a TLP. -/
def tlpConfig (t : Tlp) : ConfigReq :=
  let g := t.target.toNat
  { type1 := t.type1, bus := BitVec.ofNat 8 (g / 256), dev := BitVec.ofNat 5 (g / 8), fn := BitVec.ofNat 3 g,
    reg := BitVec.ofNat 10 (t.addr.toNat / 4), write := t.kind = .cfgWr, be := t.firstBe,
    value := BitVec.ofNat 32 (leNat (t.data.take 4)), reqId := t.reqId, tag := t.tag }

/-- The TLP of a configuration request. -/
def configTlp (q : ConfigReq) : Tlp :=
  { tlpZero with kind := if q.write then .cfgWr else .cfgRd, type1 := q.type1, reqId := q.reqId, tag := q.tag, len := 4,
                 firstBe := q.be, lastBe := 0, addr := BitVec.ofNat 64 (q.reg.toNat * 4),
                 target := BitVec.ofNat 16 (q.bus.toNat * 256 + q.dev.toNat * 8 + q.fn.toNat),
                 data := if q.write then leBytes 4 q.value.toNat else [] }

/-- A function of the virtual switch answers a configuration request. -/
def cfgAnswer (h : Hub) (d fn : Nat) (q : ConfigReq) : Hub :=
  let t := configTlp q
  if q.fn ≠ 0 ∨ (fn = 1 ∧ !hfPresent h) then cplHost h d t 1 []
  else if q.write then
    let was := hfD3 h d
    let h := cfgWord h d fn q.reg.toNat q.be.toNat q.value.toNat
    let h := if 2 ≤ fn then flushPf h (fn - 2) else h
    let h := if fn = 1 ∧ was ∧ !hfD3 h d then hfWake h d else h
    let h := if fn = 1 ∧ q.reg = 32 then msixFlush h d else h
    cplHost h d t 0 []
  else cplHost h d t 0 (leBytes 4 (cfgRead h d fn q.reg.toNat))

/-- A configuration request of a host: answered by the virtual switch or routed to a device (R253, R254). The upstream port takes the
buses of its own range, and a device on Pn is device 0 of the secondary bus. -/
def configRequest (h : Hub) (ing : Nat) (e : EndInfo) (hdr : Hdr) (q : ConfigReq) (retry : Bool) : Hub :=
  let d := e.dock
  let t := configTlp q
  let bus := q.bus.toNat
  if fld h aTunVswId 0 16 = 0xFFFF then h
  else if !q.type1 then cfgAnswer h d 0 q
  else if bus = secBus h d 0 then
    if q.dev = 0 then cfgAnswer h d 1 q
    else if 1 ≤ q.dev.toNat ∧ q.dev.toNat ≤ 8 ∧ (dockPorts h d).contains (q.dev.toNat - 1) then cfgAnswer h d (1 + q.dev.toNat) q
    else cplHost h d t 1 []
  else if bus < secBus h d 0 ∨ subBus h d 0 < bus then cplHost h d t 1 []
  else match (dockPorts h d).find? (fun n => decide (0 < secBus h d (2 + n)) && decide (secBus h d (2 + n) ≤ bus) && decide (bus ≤ subBus h d (2 + n))) with
    | none => cplHost h d t 1 []
    | some n =>
      let down := { t with type1 := decide (bus ≠ secBus h d (2 + n)) }
      if bus = secBus h d (2 + n) ∧ q.dev ≠ 0 then cplHost h d t 1 []
      else npToPort (if q.write then flushPf h n else h) ing e hdr n down t retry

/-- CONFIG_REQUEST: a configuration request on a dock's PCIe trunk tunnel. -/
def execConfigRequest (d : Fin 64) (q : ConfigReq) (s : State) : Ans :=
  s.act (fun h => match trunkEnd h d.val 1 with
    | some e => hostGate d.val (fun h => configRequest h e.sp e (plainHdr 1 e.tid 1 0 0 0) q false) h
    | none => h)

/-- MRDLK: a locked read on a dock's PCIe trunk tunnel. -/
def execMrdlk (d : Fin 64) (t : Tlp) (s : State) : Ans :=
  s.act (fun h => match trunkEnd h d.val 1 with
    | some e => hostGate d.val (fun h =>
        hostLocked h e.sp e (plainHdr 1 e.tid 1 0 0 0) { t with kind := .memRdLk } false) h
    | none => h)

/-- A non-posted TLP of a host. -/
def hostNp (h : Hub) (ing : Nat) (e : EndInfo) (hdr : Hdr) (t : Tlp) (retry : Bool) : Hub :=
  match t.kind with
  | .cfgRd => configRequest h ing e hdr (tlpConfig t) retry
  | .cfgWr => configRequest h ing e hdr (tlpConfig t) retry
  | .memRdLk => hostLocked h ing e hdr t retry
  | _ => hostRequest h ing e hdr t retry

/-! ### Posted requests from a host -/

/-- A host's posted request to Pn (R258, R261, R270). -/
def postedToPort (h : Hub) (ing : Nat) (e : EndInfo) (n : Nat) (t : Tlp) : Hub :=
  if !pcieUp h n then (if t.kind = .memWr then postedFail h e.dock 0x02 (2 + n) false false n t else h)
  else
    match pcieDown (flushPf h n) ing n 0 t 0 0 0 e.dock 0 with
    | (h, some p) => lockPass h n e.dock p
    | (h, none) => h

/-- A posted TLP of a host (R218, R256, R258). PME_Turn_Off goes to every port; other messages end at the switch. -/
def hostPosted (h : Hub) (ing : Nat) (e : EndInfo) (t : Tlp) : Hub :=
  if t.kind = .msg then
    if t.msgCode = 0 then unlock ing e.dock t.reqId.toNat h
    else if t.msgCode = 0x19 then (dockPorts h e.dock).foldl (fun h n => postedToPort h ing e n t) h
    else h
  else match decodeMem h e.dock t.addr.toNat (max 1 t.len) with
    | .nowhere => postedFail h e.dock 0x01 0 false false 0 t
    | .port n => postedToPort h ing e n t
    | .bar2 =>
      let h := flushAper h e.dock
      let r := newPkt h ing 21 (plainHdr 1 e.dock 0 0 0 0) (tlpBytes t) 0 e.dock e.cls e.dock 0
      enter r.1 r.2
    | _ =>
      let r := newPkt h ing 22 (plainHdr 1 e.dock 0 0 0 0) (tlpBytes t) 0 e.dock e.cls e.dock 0
      enter r.1 r.2

/-! ### Completions (R239, R268, R269) -/

/-- An unexpected completion (R239, R269), reported by the function that received it. -/
def unexpected (h : Hub) (d fn : Nat) : Hub :=
  raise (count (aerAdvisory h d fn 16) aTunCntUnexpCpl 1) 0x06 6 0 0

/-- Does a completion finish its request (R239)? -/
def cplEnds (t : Tlp) : Bool := t.status ≠ 0 || decide (t.byteCount ≤ t.data.length) || t.data = []

/-- A completion of a tag passes: the tag ends with it, its space leaves with the packet (R239, R264). -/
def cplPass (h : Hub) (n : Nat) (g : Tag) (t : Tlp) (f : Hub → Nat → Hub) : Hub :=
  if cplEnds t then f (tally (freeTag h n true) 0x20 0x0202 1 (some ⟨g.retSp, g.dock, 0, memAddr 1 (tlpBytes g.tlp)⟩)) g.cells else f (setTag h n { g with left := g.left - t.data.length }) 0

/-- A completion from a host end (R239): the tunnel TAG, Requester ID and return end must agree. -/
def hostCpl (h : Hub) (ing : Nat) (e : EndInfo) (tag : Nat) (t : Tlp) : Hub :=
  match tfind h.tun.tags tag with
  | none => unexpected h e.dock 0
  | some g =>
    if g.type ≠ 1 ∨ !g.toHost ∨ g.dock ≠ e.dock ∨ g.reqId ≠ t.reqId.toNat then unexpected h e.dock 0
    else if g.discard.isSome then count h aTunCntCplDiscard 1
    else
      let n := g.retSp - 8
      if !pcieUp h n ∨ (portEndOf h (8 + n) e.dock).isNone then count (discardTag h tag) aTunCntCplDiscard 1
      else cplPass h tag g t (fun h cells => enterSome (pcieDown h ing n 2 t 0 0 0 e.dock cells))

/-- A completion from the device on Pn (R239): its tag is found by port, Requester ID and PCIe tag. One for a device on another port
goes to the host instead while ACS P2P Completion Redirect is set on its port, unless it has Relaxed Ordering (R255). -/
def devCpl (h : Hub) (n : Nat) (e : EndInfo) (t : Tlp) : Hub :=
  match h.tun.tags.find? (fun x => decide (x.2.type = 1) && !x.2.toHost && decide (x.2.dev = n) && decide (x.2.reqId = t.reqId.toNat) &&
      decide (x.2.reqTag = t.tag.toNat)) with
  | none => unexpected h e.dock (2 + n)
  | some (num, g) =>
    let h := if t.kind = .cplLk ∧ (t.data = [] ∨ t.status ≠ 0) then
        (match lockOwner h n with
          | some o => if o = (g.dock, g.reqId) then lockRelease h n else h
          | none => h)
      else h
    if g.discard.isSome then count h aTunCntCplDiscard 1
    else match g.prefetch with
      | some a =>
        if t.status ≠ 0 then freeTag h num false
        else
          let h := if t.data = [] then h else fillPf h n (decide (g.left = g.tlp.len)) (a + (g.tlp.len - g.left)) t.data
          if cplEnds t then freeTag h num false else setTag h num { g with left := g.left - t.data.length }
      | none =>
        if g.retSp < 8 then
          if !hostDeliverable h g.dock then count (discardTag h num) aTunCntCplDiscard 1
          else cplPass h num g t (fun h cells => pcieUpward h (8 + n) g.dock 2 t 0 (0x8000 + n) n cells)
        else if bitOf (cfgStored h g.dock (2 + n) 81) 19 && !bitOf t.attr.toNat 1 then
          cplPass h num g t (fun h cells => pcieUpward h (8 + n) g.dock 2 t 0 (0x8000 + n) n cells)
        else if !pcieUp h (g.retSp - 8) then count (discardTag h num) aTunCntCplDiscard 1
        else cplPass h num g t (fun h cells => enterSome (pcieDown h (8 + n) (g.retSp - 8) 2 t 0 (0x8000 + n) n g.dock cells))

/-! ### Requests from devices (R256, R260, R270) -/

/-- Is a request of Pn blocked by ACS Source Validation (R256), or by ACS Translation Blocking for its Address Type (R255)? -/
def acsBlocked (h : Hub) (d n : Nat) (t : Tlp) : Bool :=
  (bitOf (cfgStored h d (2 + n) 81) 16 &&
    (decide (t.reqId.toNat / 256 < secBus h d (2 + n)) || decide (subBus h d (2 + n) < t.reqId.toNat / 256))) ||
    (bitOf (cfgStored h d (2 + n) 81) 17 && decide (t.addrType ≠ 0))

/-- Does a request of Pn name an address in Pn's own window? It goes to the host while ACS Upstream Forwarding is set, and is an
Unsupported Request otherwise (R255). -/
def turnsBack (h : Hub) (d n a len : Nat) : Bool := portTakes h d (2 + n) a len && !bitOf (cfgStored h d (2 + n) 81) 20

/-- Another downstream port of the dock whose window takes the address, when P2P requests are not redirected (R256). -/
def peerPort (h : Hub) (d n a len : Nat) : Option Nat :=
  if bitOf (cfgStored h d (2 + n) 81) 18 then none
  else (dockPorts h d).find? (fun m => decide (m ≠ n) && portTakes h d (2 + m) a len)

/-- INTx levels at the upstream port of a dock, by pin (R256): the swizzle of devices 1 + n. -/
def intxUp (h : Hub) (d pin : Nat) : Bool :=
  (dockPorts h d).any (fun n => (List.range 4).any (fun q => bitOf h.tun.intx (4 * n + q) && decide ((q + 1 + n) % 4 = pin)))

/-- An Assert_INTx or Deassert_INTx message of Pn: the combined level goes up when it changes (R256). -/
def intxMessage (h : Hub) (d n pin : Nat) (level : Bool) : Hub :=
  let up := (pin + 1 + n) % 4
  let was := intxUp h d up
  let h := { h with tun := { h.tun with intx := putBits h.tun.intx (4 * n + pin) 1 (if level then 1 else 0) } }
  let now := intxUp h d up
  if was = now then h
  else pcieUpward h 22 d 0 (tlpMsg (bitsOf (cfgStored h d 0 6) 0 8 * 256) ((if now then 0x20 else 0x24) + up)) 0 0 0 0

/-- The INTx levels of Pn end with its port: a level that no other port holds is deasserted upstream (R256). -/
def intxDrop (h : Hub) (d n : Nat) : Hub :=
  (List.range 4).foldl (fun h pin =>
    if !bitOf h.tun.intx (4 * n + pin) then h
    else
      let up := (pin + 1 + n) % 4
      let h := { h with tun := { h.tun with intx := putBits h.tun.intx (4 * n + pin) 1 0 } }
      if intxUp h d up then h
      else pcieUpward h 22 d 0 (tlpMsg (bitsOf (cfgStored h d 0 6) 0 8 * 256) (0x24 + up)) 0 0 0 0) h

/-- A posted TLP of the device on Pn: one toward the host discards Pn's prefetch entries, INTx messages included (R261). -/
def devPosted (h : Hub) (n : Nat) (e : EndInfo) (t : Tlp) : Hub :=
  let d := e.dock
  let fails := fun (h : Hub) code (m : Nat) toHost => if t.kind = .memWr then postedFail h d code (2 + m) toHost false n t else h
  if t.kind = .msg ∧ 0x20 ≤ t.msgCode.toNat ∧ t.msgCode.toNat < 0x28 then
    intxMessage (flushPf h n) d n (t.msgCode.toNat % 4) (decide (t.msgCode.toNat < 0x24))
  else if acsBlocked h d n t then fails h 0x07 n true
  else match (if t.kind = .memWr then peerPort h d n t.addr.toNat (max 1 t.len) else none) with
    | some m =>
      if !pcieUp h m then fails h 0x02 m false
      else match pcieDown (flushPf h m) (8 + n) m 0 t 0 (0x8000 + n) n d 0 with
        | (h, some p) => lockPass h m d p
        | (h, none) => h
    | none =>
      let h := flushPf h n
      if t.kind = .memWr ∧ turnsBack h d n t.addr.toNat (max 1 t.len) then aerReport h d (2 + n) 20 t
      else if !hostDeliverable h d then fails h 0x05 n true
      else pcieUpward h (8 + n) d 0 t 0 (0x8000 + n) n 0

/-- A tag entry for a request of Pn. -/
def devTag (h : Hub) (n : Nat) (e : EndInfo) (toHost : Bool) (dev : Nat) (t : Tlp) : Tag :=
  let _ := h
  let len := if t.kind = .memRd then t.len else 4
  ⟨1, toHost, e.dock, 8 + n, e.tid, dev, t.reqId.toNat, t.tag.toNat, 0, npCells t.addr.toNat len, len, none, t, none⟩

/-- A non-posted TLP of the device on Pn (R238, R256, R257, R273). -/
def devNp (h : Hub) (n : Nat) (e : EndInfo) (t : Tlp) (retry : Bool) : Hub :=
  let d := e.dock
  let p : TunPacket := ⟨plainHdr 1 e.tid 1 0 0 0, tlpBytes t, []⟩
  let wait := fun (h : Hub) pool => if retry then
      { h with tun := if pool then { h.tun with waitPool := (8 + n, p) :: h.tun.waitPool }
                      else { h.tun with waitTag := (8 + n, p) :: h.tun.waitTag } }
    else waitFor h (8 + n) p pool
  if t.kind = .memRdLk ∨ t.kind = .cfgRd ∨ t.kind = .cfgWr then cplDev h d n t 1
  else if acsBlocked h d n t then
    cplDev (cfgStore h d (2 + n) 65 (cfgStored h d (2 + n) 65 ||| 2 ^ 21)) d n t 4
  else if npBlocked h (8 + n) ∧ !retry then wait h (!h.tun.waitTag.any (fun x => decide (x.1 = 8 + n)))
  else match peerPort h d n t.addr.toNat (max 1 t.len) with
    | some m =>
      if !pcieUp h m then cplDev h d n t 1
      else if t.kind = .atomic ∧ bitOf (cfgStored h d (2 + m) 26) 7 then cplDev h d n t 1
      else match takeTag h (devTag h n e false m t) with
        | (h, .ok _) => match pcieDown h (8 + n) m 1 t 0 (0x8000 + n) n d 0 with
          | (h, some p) => lockPass h m d p
          | (h, none) => h
        | (h, .error pool) => wait h pool
    | none =>
      if turnsBack h d n t.addr.toNat (max 1 t.len) then cplDev (aerReport h d (2 + n) 20 t) d n t 1
      else if !hostDeliverable h d then cplDev h d n t 1
      else match takeTag h (devTag h n e true n t) with
        | (h, .ok g) => pcieUpward h (8 + n) d 1 t g (0x8000 + n) n 0
        | (h, .error pool) => wait h pool

/-- DEVICE_TLP: a TLP from the device on Pn. A port of a frozen dock withholds posted and non-posted credit
(R386); an end without a route drops (R220). -/
def deviceTlp (n : Nat) (t : Tlp) (h : Hub) : Hub :=
  match portEnd h (8 + n) with
  | none => h
  | some e =>
    if !pcieUp h n then h
    else if (routeOf h (8 + n) e.tid).isNone then noRoute h (8 + n) e.dock
    else
    let i : PInfo := ⟨8 + n, e.dock, e.cls, memAddr 1 (tlpBytes t)⟩
    let h := tally (tally h (0xC0 + n) 0x0C01 1 (some i)) 0x20 0x0200 1 (some i)
    if isCpl t then devCpl h n e t
    else if gatesClosed h e.dock then h
    else if tlpClass t = 0 then devPosted h n e t
    else devNp h n e t false

def execDeviceTlp (p : Fin 8) (t : Tlp) (s : State) : Ans := s.act (deviceTlp p.val t)

/-! ### Timers on tags (R268, R269) -/

/-- DISCARD_TIMER: DISCARD edges after discard state began; a device's request completes with Unsupported Request (R268). -/
def discardTimer (n : Nat) (h : Hub) : Hub :=
  match tfind h.tun.tags n with
  | none => h
  | some g =>
    match g.discard with
    | none => h
    | some e =>
      if edgesSince h e < fld h aTunBrgCfg 16 11 then h
      else
        let h := freeTag h n false
        if g.toHost ∧ 8 ≤ g.retSp ∧ g.type = 1 then cplDev h g.dock (g.retSp - 8) g.tlp 1 else h

def execDiscardTimer (tag : BitVec 12) (s : State) : Ans := s.act (discardTimer tag.toNat)

/-- CPL_TIMEOUT: a tag held CPL_TIMEOUT edges is freed without completion, one in discard state too (R269). -/
def cplTimeout (n : Nat) (h : Hub) : Hub :=
  match tfind h.tun.tags n with
  | none => h
  | some g =>
    let lim := fld h aTunBrgCfg 0 16
    if lim = 0 ∨ edgesSince h g.issued < lim then h
    else raise (count (freeTag h n false) aTunCntCplTimeout 1) 0x07 2 0 0

def execCplTimeout (tag : BitVec 12) (s : State) : Ans := s.act (cplTimeout tag.toNat)

/-! ### Device handles (R241, R242) -/

/-- Handles of a dock that count against its allowance. -/
def devUse (h : Hub) (d : Nat) : Nat := (h.tun.devs.filter (fun e => decide (8 ≤ e.1) && decide (e.2.dock = d))).length

/-- The lowest handle from 8 that is neither valid nor waiting to return. -/
def freeHandle_ (h : Hub) : Nat :=
  firstGap ((h.tun.freed.map (·.1)).foldl (fun t n => tput t n ()) ((h.tun.devs.filter (fun e => decide (8 ≤ e.1))).map (fun e => (e.1, ())))) 8

/-- A device entry becomes valid: PCIe and USB entries are announced (R242). -/
def attach (h : Hub) (n : Nat) (v : Dev) : Hub :=
  let h := { h with tun := { h.tun with devs := tput h.tun.devs n { v with seen := tickNo h % 2 ^ 32, edge := h.tim.edges } } }
  if v.kind = 3 then h else raise (hfEvent h v.dock 0x03 (n + v.kind * 1024)) 0x06 2 0 n

/-- A device entry is freed (R242). -/
def detach (h : Hub) (n : Nat) : Hub :=
  match tfind h.tun.devs n with
  | none => h
  | some v =>
    let h := { h with tun := { h.tun with
      devs := tdel h.tun.devs n, freed := if n < 8 then h.tun.freed else tput h.tun.freed n h.tim.edges } }
    if v.kind = 3 then h else raise (hfEvent h v.dock 0x04 (n + v.kind * 1024)) 0x06 3 0 n

/-- Take a handle for a USB device or station; DEV_FULL when the allowance or the table is full (R241). -/
def attachNew (h : Hub) (v : Dev) : Hub × Option Nat :=
  let n := freeHandle_ h
  if 1024 ≤ n ∨ fld h (aVdkAllow1 v.dock) 16 11 ≤ devUse h v.dock then (raise h 0x06 1 0 0, none)
  else (attach h n v, some n)

/-- HANDLE_RETURN: 16 edges after its freeing, once no tag names it (R242). -/
def handleReturn (n : Nat) (h : Hub) : Hub :=
  match tfind h.tun.freed n with
  | some e =>
    if edgesSince h e < 16 ∨ h.tun.tags.any (fun t => decide (t.2.dev = n)) then h
    else { h with tun := { h.tun with freed := tdel h.tun.freed n } }
  | none => h

def execHandleReturn (n : Fin 1024) (s : State) : Ans := s.act (handleReturn n.val)

/-! ### Physical links of PCIe ports -/

/-- The handle of Pn becomes valid when its link is up and its tunnel open (R241). -/
def attachPort (h : Hub) (n : Nat) : Hub :=
  match portEnd h (8 + n) with
  | some e =>
    let l := tget ⟨false, 0, 0⟩ h.tun.plinks n
    if l.up ∧ (tfind h.tun.devs n).isNone then attach h n ⟨1, e.dock, 8 + n, n, l.rate * 16 + l.width, 0, 0, 0⟩ else h
  | none => h

/-- The LANE.RETIRE that waits for Pn to have taken the effect of R209 completes (R210). -/
def pcieSettled (h : Hub) (n : Nat) : Hub :=
  match tfind h.lns.x1Cmd n with
  | some id => settle { h with lns := { h.lns with x1Cmd := tdel h.lns.x1Cmd n } } id .ok 0
  | none => h

/-- Symbol rate in MBd and modulation of a PCIe rate code, 1 = 2.5 GT/s to 6 = 64 GT/s (R26). -/
def pcieBaud (rate : Nat) : Nat × Bool :=
  match rate with
  | 1 => (2500, false)
  | 2 => (5000, false)
  | 3 => (8000, false)
  | 4 => (16000, false)
  | 5 => (32000, false)
  | _ => (32000, true)

/-- The lanes of Pn that a link of a width uses: both, or one in service, lane 1 reversed when lane 0 is retired (R209). -/
def pcieLanes (h : Hub) (n width : Nat) : List Nat :=
  (([64 + 2 * n, 65 + 2 * n]).filter (fun l => !laneRetired h l)).take (max 1 (min 2 width))

/-- A lane of a PCIe link at a rate: a full training, with the partner's coefficients where that rate has equalisation (R188, R190). -/
def pcieLane (rate : Nat) (h : Hub) (l : Nat) : Hub :=
  laneUp (if 3 ≤ rate then partnerFfe h l else h) l (pcieBaud rate).1 (pcieBaud rate).2

/-- PCIE_LINK_UP: the Data Link Layer of Pn reaches the up state (R241), at the highest rate that both partners support, from the
partner's highest rate and width (R26, R28); below 64 GT/s it runs Non-Flit Mode, as its rate says (R229). -/
def pcieLinkUp (n rate width : Nat) (h : Hub) : Hub :=
  let h := pcieSettled { h with lns := { h.lns with x1 := tdel h.lns.x1 n } } n
  let lanes := pcieLanes h n width
  let rate := max 1 (min 6 rate)
  if h.part.res.pcie ≤ n ∨ pcieUp h n ∨ retired h 5 n ∨ lanes = [] then h
  else
    let h := lanes.foldl (pcieLane rate) h
    let h := { h with tun := { h.tun with plinks := tset ⟨false, 0, 0⟩ h.tun.plinks n ⟨true, rate, lanes.length⟩ } }
    attachPort h n

def execPcieLinkUp (p : Fin 8) (rate width : BitVec 4) (s : State) : Ans := s.act (pcieLinkUp p.val rate.toNat width.toNat)

/-- Packets that waited for a port that is gone: requests complete or fail as R273 gives. -/
def settleLost (h : Hub) (n : Nat) (p : Pkt) : Hub :=
  match bytesTlp p.payload with
  | some t =>
    if t.kind = .memWr then postedFail h p.src 0x02 (2 + n) false false n t else h
  | none => h

/-- A port of PCIe no longer reaches its device (R258, R273): its requests, lock and prefetch end. -/
def portGone (h : Hub) (n : Nat) : Hub :=
  let h := match portEnd h (8 + n) with
    | some e => intxDrop (flushPf h n) e.dock n
    | none => flushPf h n
  let h := wr h (aTunBrgLock n) 0
  let held := tget [] h.tun.lockHeld n
  let h := { h with tun := { h.tun with lockEdge := tdel h.tun.lockEdge n, lockHeld := tset [] h.tun.lockHeld n [] } }
  let r := discardPort h (8 + n)
  let h := (held ++ r.2).foldl (fun h p => settleLost h n p) r.1
  -- outstanding requests toward the device complete with Unsupported Request
  let out := h.tun.tags.filter (fun x => decide (x.2.type = 1) && !x.2.toHost && decide (x.2.dev = n) && x.2.discard.isNone &&
    decide (x.2.retSp ≠ 8 + n))
  let h := out.foldl (fun h x =>
    let h := freeTag h x.1 false
    if x.2.prefetch.isSome then h else cplTag h x.2 1) h
  -- requests of the device toward the host end by the discard timer
  let h := discardTags h (fun g => g.toHost && decide (g.retSp = 8 + n))
  { h with dck := { h.dck with freeze := h.dck.freeze.map (fun e =>
      (e.1, e.2.map (fun f => if f.tag.retSp = 8 + n ∨ (!f.tag.toHost ∧ f.tag.dev = n) then { f with lost := true } else f))) } }

/-- PCIE_LINK_DOWN: Pn leaves L0 (R273). -/
def pcieLinkDown (n : Nat) (h : Hub) : Hub :=
  if !pcieUp h n then h
  else
    let h := { h with tun := { h.tun with plinks := tset ⟨false, 0, 0⟩ h.tun.plinks n ⟨false, 0, 0⟩ } }
    detach (portGone (laneRest (laneRest h (64 + 2 * n) 0) (65 + 2 * n) 0) n) n

def execPcieLinkDown (p : Fin 8) (s : State) : Ans := s.act (pcieLinkDown p.val)

end Sys2Proof.Machine
end

