-- ==== Sys2Proof/Machine/Usb.lean ====
section
/-!
DEFINITION. The USB complex of SP20 (chapter 12): endpoint memory, virtual hubs, transaction translators, SuperSpeed packets,
the hub device function, resets and wakes. Bit places of SuperSpeed headers and of hub-class requests are those of USB 3.2 and
USB 2.0, PRESUMED (notes/assumptions/31.md).
-/
namespace Sys2Proof.Machine

/-! ### Units on tunnels (R228) -/

/-- Cut bytes into packets of 512; fuel bounds the count. -/
def cut512 : Nat → List Byte → List (List Byte)
  | 0, bs => [bs]
  | n + 1, bs => if bs.length ≤ 512 then [bs] else bs.take 512 :: cut512 n (bs.drop 512)

/-- Send a unit from a switch port to an end: the first packet carries its KIND, later ones 0xF; the last one carries the
completion cells. -/
def sendUnit (h : Hub) (ing : Nat) (e : EndInfo) (kind tag flow dev src cells : Nat) (bytes : List Byte) : Hub :=
  let l := cut512 (bytes.length / 512) bytes
  (l.foldl (fun (x : Hub × Nat) b =>
    let k := if x.2 = 0 then kind else 0xF
    let c := if x.2 + 1 = l.length then cells else 0
    let hd := { plainHdr e.type e.tid k tag flow dev with vc := BitVec.ofNat 3 (vcFor e.type kind) }
    let r := newPkt x.1 ing e.sp hd b kind e.dock e.cls src c
    (enter r.1 r.2, x.2 + 1)) (h, 0)).1

/-- Send a unit of the USB complex to the host of a dock; without a route it is dropped (R220). -/
def usbUp (h : Hub) (d kind tag dev cells : Nat) (bytes : List Byte) : Hub :=
  match (portEndOf h 20 d).bind (fun e => routeEnd h 20 e.tid) with
  | some e => sendUnit h 20 e kind tag 0 dev d cells bytes
  | none => noRoute h 20 64

/-! ### Ports and endpoint memory (R355, R362-R366) -/

/-- The dock and virtual port of a physical port. -/
def usbAssign (h : Hub) (u : Nat) : Option (Nat × Nat) :=
  if flag h (aUsbPortAssign u) 31 then some (fld h (aUsbPortAssign u) 0 6, fld h (aUsbPortAssign u) 8 4) else none

/-- The physical port of a dock's virtual port. -/
def usbPhys (h : Hub) (d v : Nat) : Option Nat := (List.range 16).find? (fun u => decide (usbAssign h u = some (d, v)))

def usbLink (h : Hub) (u : Nat) : Nat := fld h (aUsbPortStatus u) 3 3
def usbSpeed (h : Hub) (u : Nat) : Nat := fld h (aUsbPortStatus u) 0 3

/-- Has a port lost SuperSpeed, or none (R3, R355)? -/
def usbNoSs (h : Hub) (u : Nat) : Bool := decide (h.part.res.ss ≤ u) || laneRetired h (84 + u)

/-- Are the virtual hubs present (R353)? -/
def vhPresent (h : Hub) : Bool := decide (fld h aUsbVhId 0 16 ≠ 0xFFFF)

/-- Is a dock's device function present (R367)? -/
def dfPresent (h : Hub) (d : Nat) : Bool := vhPresent h && decide (fld h aUsbDfId 0 16 ≠ 0xFFFF) && flag h (aUsbVhCfg d) 8

/-- The enabled buffers of a dock that are not draining, with their blocks. -/
def usbBuffers (h : Hub) (d : Nat) : List (Nat × Nat) :=
  (List.range 256).filterMap (fun b =>
    if flag h (aUsbEpmCtl b) 31 ∧ !flag h (aUsbEpmUse b) 31 ∧ fld h (aUsbEpmCtl b) 0 6 = d then some (b, fld h (aUsbEpmLength b) 0 19 / 1088) else none)

/-- Blocks held in a buffer. -/
def bufUse (h : Hub) (b : Nat) : Nat := (h.usb.blocks.filter (fun k => decide (k.buf = b))).length

/-- Free blocks of a dock's pool; those of draining buffers do not count. -/
def usbFree (h : Hub) (d : Nat) : Nat :=
  (usbBuffers h d).foldl (fun n e => n + (e.2 - bufUse h e.1)) 0

def usbTotal (h : Hub) (d : Nat) : Nat := (usbBuffers h d).foldl (fun n e => n + e.2) 0

/-- Take a block for a holder. -/
def takeBlock (h : Hub) (d key : Nat) (unused : Bool) : Option Hub :=
  match (usbBuffers h d).find? (fun e => decide (bufUse h e.1 < e.2)) with
  | some e => some { h with usb := { h.usb with blocks := h.usb.blocks ++ [⟨d, e.1, key, h.tim.edges, unused⟩] } }
  | none => none

/-- Take n blocks as reservations. -/
def reserveBlocks : Nat → Hub → Nat → Nat → Hub
  | 0, h, _, _ => h
  | n + 1, h, d, key => match takeBlock h d key true with
    | some h => reserveBlocks n h d key
    | none => h

/-- A buffer that drained ends its draining (R366). -/
def drainDone (h : Hub) : Hub :=
  (List.range 256).foldl (fun h b =>
    if flag h (aUsbEpmUse b) 31 ∧ bufUse h b = 0 then
      setFlag { h with usb := { h.usb with drain := tset (0, 0) h.usb.drain b (0, 0) } } (aUsbEpmUse b) 31 false
    else h) h

/-- Free the blocks that a predicate takes. -/
def freeBlocks (h : Hub) (f : Blk → Bool) : Hub :=
  if h.usb.blocks.any f then drainDone { h with usb := { h.usb with blocks := h.usb.blocks.filter (fun k => !f k) } } else h

/-- Turn one reservation of an endpoint into a block in use under another key, or take a free block. -/
def useBlock (h : Hub) (d key newKey : Nat) : Option Hub :=
  match h.usb.blocks.find? (fun k => decide (k.key = key) && decide (k.dock = d) && k.unused) with
  | some k => some { h with usb := { h.usb with
      blocks := h.usb.blocks.erase k ++ [{ k with key := newKey, unused := false }] } }
  | none => takeBlock h d newKey false

/-- No free block: BLOCKS_EMPTY sets (R362). -/
def blocksEmpty (h : Hub) (d : Nat) : Hub := raise h 0x0B 0 0 0

/-! ### SuperSpeed headers -/

def ssDw (p : UsbPacket) (i : Nat) : Nat := bitsOf p.header.toNat (32 * i) 32

/-- Packet type: 4 transaction, 8 data. -/
def ssType (p : UsbPacket) : Nat := bitsOf (ssDw p 0) 0 5
def ssRoute (p : UsbPacket) : Nat := bitsOf (ssDw p 0) 5 20
def ssAddr (p : UsbPacket) : Nat := bitsOf (ssDw p 0) 25 7
def ssSub (p : UsbPacket) : Nat := bitsOf (ssDw p 1) 0 4
def ssIn (p : UsbPacket) : Bool := bitOf (ssDw p 1) 7
def ssEp (p : UsbPacket) : Nat := bitsOf (ssDw p 1) 8 4
def ssIso (p : UsbPacket) : Bool := decide (bitsOf (ssDw p 1) 12 3 = 5)
def ssNumP (p : UsbPacket) : Nat := bitsOf (ssDw p 1) 16 5
def ssSetup (p : UsbPacket) : Bool := bitOf (ssDw p 1) 15 && decide (ssType p = 8)
def ssLast (p : UsbPacket) : Bool := bitOf (ssDw p 1) 6

/-- A holder's key of an endpoint and direction. -/
def epKey (p : UsbPacket) (inDir : Bool) : Nat :=
  ((ssRoute p * 128 + ssAddr p) * 16 + ssEp p) * 2 + (if inDir then 1 else 0)

/-- A key of a USB 2.0 request, of a data packet on its way to the switch core, and of one in an endpoint. -/
def reqKey (tag : Nat) : Nat := 2 ^ 40 + tag
def pktKey (id : Nat) : Nat := 2 ^ 41 + id
def outKey (k : Nat) : Nat := 2 ^ 42 + k

def setNumP (p : UsbPacket) (n : Nat) : UsbPacket :=
  { p with header := BitVec.ofNat 96 (putBits p.header.toNat 48 5 n) }

/-- The bytes of a SuperSpeed unit (R230). -/
def ssBytes (p : UsbPacket) : List Byte := leBytes 12 p.header.toNat ++ p.data

/-- NUMP_CLAMP (R362): the packet to pass, or none where it must be held. -/
def clampNumP (h : Hub) (d : Nat) (p : UsbPacket) (inDir : Bool) : Hub × Option UsbPacket :=
  let n := ssNumP p
  let free := usbFree h d
  if n = 0 then (h, some p)
  else if free = 0 then
    let h := blocksEmpty h d
    if ssIso p then (h, some p) else (count h aUsbCntHeld 1, none)
  else
    let m := min n (min (fld h (aUsbVhCfg d) 0 5) free)
    let h := reserveBlocks m h d (epKey p inDir)
    (if m < n then tally (count h aUsbCntClamp 1) 0x60 0x0603 1 none else h, some (setNumP p m))

/-! ### Places and handles of devices (R241, R242, R360) -/

/-- Depth of a route string. -/
def routeDepth (r : Nat) : Nat := if r = 0 then 0 else if r < 16 then 1 else if r < 256 then 2 else if r < 4096 then 3 else if r < 65536 then 4 else 5

/-- Free the handles of the devices of a physical port at a route or below it, of the SuperSpeed or the USB 2.0 hub of its dock. -/
def usbDetachBelow (h : Hub) (u d route : Nat) (ss : Bool) : Hub :=
  ((h.tun.devs.filter (fun e => decide (e.2.kind = 2) && decide (e.2.port = u) && decide (e.2.dock = d) &&
    decide ((bitsOf e.2.detail 3 2 = 3) ↔ ss) && decide (bitsOf e.2.detail 12 20 % 16 ^ routeDepth route = route))).map (·.1)).foldl detach h

/-- A device that answers at a new address takes a handle (R241); the handle that it had at its place ends. -/
def usbAddressed (h : Hub) (d u route addr speed : Nat) : Hub :=
  let h := usbDetachBelow h u d route (speed = 3)
  (attachNew h ⟨2, d, 20, u, route * 2 ^ 12 + addr * 2 ^ 5 + speed % 4 * 2 ^ 3, 0, 0, 0⟩).1

/-- Free the handles of the devices of a physical port below a route; the whole port for route 0. -/
def usbDetach (h : Hub) (u : Nat) : Hub :=
  ((h.tun.devs.filter (fun e => decide (e.2.kind = 2) && decide (e.2.port = u))).map (·.1)).foldl detach h

/-- The handle of a device, 0 for none. -/
def usbHandle (h : Hub) (d addr : Nat) (ss : Bool) : Nat :=
  match h.tun.devs.find? (fun e => decide (e.2.kind = 2) && decide (e.2.dock = d) && decide (bitsOf e.2.detail 5 7 = addr) &&
      decide ((bitsOf e.2.detail 3 2 = 3) ↔ ss)) with
  | some e => e.1
  | none => 0

/-! ### Virtual ports -/

def vpKey (d half v : Nat) : Nat := (d * 2 + half) * 16 + v

def vport (h : Hub) (d half v : Nat) : VPort := tget VPort.idle h.usb.vports (vpKey d half v)

def setVport (h : Hub) (d half v : Nat) (x : VPort) : Hub :=
  { h with usb := { h.usb with vports := tset VPort.idle h.usb.vports (vpKey d half v) x } }

def ctlAt (h : Hub) (d half : Nat) : Ctl := tget Ctl.idle h.usb.ctl (d * 4 + half)

def setCtl (h : Hub) (d half : Nat) (c : Ctl) : Hub := { h with usb := { h.usb with ctl := tset Ctl.idle h.usb.ctl (d * 4 + half) c } }

/-- Report a change on both halves of a virtual port. -/
def vpChange (h : Hub) (d v bit : Nat) : Hub :=
  [0, 1].foldl (fun h k => setVport h d k v { vport h d k v with change := (vport h d k v).change ||| 2 ^ bit }) h

/-- Does the channel of a virtual port's physical port stand tripped (R353)? -/
def vpOver (h : Hub) (d v : Nat) : Bool :=
  match usbPhys h d v with
  | some u => flag h (aUsbPortStatus u) 7
  | none => false

/-- Is a connection reported on a virtual port of a half (R353, R355, R356)? -/
def vpConnected (h : Hub) (d half v : Nat) : Bool :=
  if v = 15 then half = 1 && dfPresent h d
  else match usbPhys h d v with
    | none => false
    | some u =>
      (tfind h.usb.resetFrom u).isNone &&
        (if half = 1 then decide (4 ≤ usbSpeed h u) && !usbNoSs h u else decide (1 ≤ usbSpeed h u) && decide (usbSpeed h u ≤ 3))

/-! ### Ends of USB 2.0 requests -/

/-- May a reset enable a virtual port: a device is connected, and its channel has not tripped (R353)? -/
def vpEnables (h : Hub) (d half v : Nat) : Bool := vpConnected h d half v && !vpOver h d v

/-- What filters see of a packet of a dock's host on its USB tunnel. -/
def usbInfo (h : Hub) (d : Nat) : PInfo :=
  let e := trunkEnd h d 2
  ⟨(e.map (·.sp)).getD 0, d, ((portEndOf h 20 d).map (·.cls)).getD 0, none⟩

/-- The header of a result (R230). -/
def resultUnit (unit : BitVec 64) (code len : Nat) (toggle : Bool) : Nat :=
  putBits (putBits (putBits unit.toNat 44 3 code) 33 11 len) 32 1 (if toggle then 1 else 0)

/-- Give the result of a USB 2.0 request: its tag and block end, the completion space leaves with the last packet. -/
def usbResult (h : Hub) (d tag : Nat) (unit : BitVec 64) (code : Nat) (toggle : Bool) (data : List Byte) : Hub :=
  let h := freeBlocks h (fun k => decide (k.key = reqKey tag))
  match tfind h.tun.tags tag with
  | none => h
  | some g =>
    let dir := bitOf unit.toNat 52
    let len := if dir then data.length else bitsOf unit.toNat 33 11
    let bytes := toBytes (beBytes 8 (resultUnit unit code len toggle)) ++ (if dir then data else [])
    let h := if code = 1 then tally h 0x60 0x0602 1 none else h
    let h := if g.discard.isSome then h else tally h 0x20 0x0202 1 (some (usbInfo h d))
    if g.discard.isSome then count h aTunCntCplDiscard 1
    else if !hostReachable h d then count (discardTag h tag) aTunCntCplDiscard 1
    else usbUp (freeTag h tag true) d 5 g.reqTag (usbHandle h d (bitsOf unit.toNat 57 7) false) g.cells bytes

/-- The place of an address; address 0 of an unaddressed hub is the hub. -/
def usbLoc (h : Hub) (d addr : Nat) : Option Loc :=
  match tfind h.usb.locs (d * 128 + addr) with
  | some l => some l
  | none => if addr = 0 ∧ (ctlAt h d 0).addr = 0 then some ⟨0, 0⟩ else none

/-- The USB 2.0 requests of a dock that wait for a block, of its virtual port v. -/
def usbWaits (h : Hub) (d v : Nat) (p : Pkt) : Bool :=
  decide (p.hdr.kind = 4) && ((usbLoc h d (bitsOf (beNat (toNats (p.payload.take 8))) 57 7)).map (·.vport) == some v)

/-- End every outstanding USB 2.0 request of a port, that of a dock's virtual port, with a code: those listed and those that wait for a
block. -/
def usbCancel (h : Hub) (u code : Nat) (counter : Bool) (dv : Option (Nat × Nat)) : Hub :=
  let waits := match dv with
    | some (d, v) => ((tget [] h.usb.heldDown d).filter (usbWaits h d v)).map (fun p =>
        (d, p.hdr.tag.toNat, BitVec.ofNat 64 (beNat (toNats (p.payload.take 8)))))
    | none => []
  let l := (tget [] h.usb.periodic u ++ tget [] h.usb.async u).map (fun q => (q.dock, q.tag, q.unit)) ++ waits
  let h := match dv with
    | some (d, v) => { h with usb := { h.usb with
        heldDown := tset [] h.usb.heldDown d ((tget [] h.usb.heldDown d).filter (fun p => !usbWaits h d v p)) } }
    | none => h
  let h := { h with usb := { h.usb with periodic := tset [] h.usb.periodic u [], async := tset [] h.usb.async u [] } }
  l.foldl (fun h q =>
    let h := usbResult h q.1 q.2.1 q.2.2 code false []
    if counter then count h aUsbCntTtReset 1 else h) h

/-- The link state of a physical port and the STATE of its SuperSpeed lane: in U0 it carries data, through a full training when it comes
from anything but U1 to U3; in those and with no device it is in electrical idle (R188, R190, R196). Coefficients are fixed at PRE 3,
MAIN 51, POST 9. -/
def usbLinkTo (h : Hub) (u l : Nat) : Hub :=
  let old := usbLink h u
  let h := setFld h (aUsbPortStatus u) 3 3 l
  let lane := 84 + u
  let baud := if usbSpeed h u = 5 then 10000 else 5000
  if usbNoSs h u then h
  else if l = 1 ∧ 4 ≤ usbSpeed h u then
    if 2 ≤ old ∧ old ≤ 4 then laneSet h lane 2 baud false else laneUp (setFfe h lane 0x033309) lane baud false
  else if l = 5 then h
  else laneTo h lane 3

/-- A connected virtual port is suspended, or goes on: so does the link below it. -/
def portLink (h : Hub) (d half v l : Nat) : Hub :=
  match usbPhys h d v with
  | some u => if vpConnected h d half v ∧ usbLink h u ≠ l ∧ usbLink h u ≠ 5 then usbLinkTo h u l else h
  | none => h

/-- A reset of a physical port (R370); a link below U0 comes back to it. -/
def usbReset (h : Hub) (u : Nat) : Hub :=
  let h := if 2 ≤ usbLink h u ∧ usbLink h u ≤ 4 then usbLinkTo h u 1 else h
  send (usbCancel h u 6 true (usbAssign h u)) (.usbReset u)

/-- A port is reset before its virtual port reports the connection anew (R373, R395). -/
def usbAnew (h : Hub) (u d v : Nat) : Hub :=
  let h := usbReset h u
  let h := [0, 1].foldl (fun h k => setVport h d k v { vport h d k v with enabled := false, suspended := false }) h
  if usbSpeed h u = 0 then h else vpChange h d v 0

/-- The default state of a dock's virtual hub pair (R354): its physical ports are reset. -/
def usbDefault (h : Hub) (d : Nat) : Hub :=
  let h := if (ctlAt h d 2).setup = [] then h else count h aUsbCntCtlAbort 1
  let h := { h with usb := { h.usb with
    ctl := h.usb.ctl.filter (fun e => decide (e.1 / 4 ≠ d))
    vports := h.usb.vports.filter (fun e => decide (e.1 / 32 ≠ d))
    locs := h.usb.locs.filter (fun e => decide (e.1 / 128 ≠ d))
    setups := h.usb.setups.filter (fun e => decide (e.1 / 2 ^ 28 ≠ d)) } }
  (List.range 16).foldl (fun h u => if (usbAssign h u).map (·.1) = some d then usbReset h u else h) h

/-! ### Hub-class and standard requests (R353, R370, R371) -/

/-- Fields of a setup stage. -/
def suType (s : List Byte) : Nat := leNat (s.take 1)
def suReq (s : List Byte) : Nat := leNat ((s.drop 1).take 1)
def suValue (s : List Byte) : Nat := leNat ((s.drop 2).take 2)
def suIndex (s : List Byte) : Nat := leNat ((s.drop 4).take 2)
def suLen (s : List Byte) : Nat := leNat ((s.drop 6).take 2)

/-- wPortStatus and wPortChange of a virtual port. -/
def portStatus (h : Hub) (d half v : Nat) : Nat :=
  let p := vport h d half v
  let oc := vpOver h d v
  let sp := match usbPhys h d v with
    | some u => usbSpeed h u
    | none => 0
  let c := vpConnected h d half v
  let b := fun (x : Bool) n => if x then 2 ^ n else 0
  let st := if half = 0 then b c 0 + b p.enabled 1 + b p.suspended 2 + b oc 3 + 2 ^ 8 + b (sp = 1) 9 + b (sp = 3) 10
    else b c 0 + b p.enabled 1 + b oc 3 + (if !c then 5 else if p.suspended then 3 else 0) * 2 ^ 5 + 2 ^ 9
  st + p.change * 2 ^ 16

/-- Bitmap of the ports with a change, bit v for port v. -/
def changeMap (h : Hub) (d half : Nat) : Nat := maskOf 16 (fun v => decide (1 ≤ v) && decide ((vport h d half v).change ≠ 0))

/-- Hub time, discipline state and TIM_EDGES (R368). -/
def dfTime (h : Hub) : List Byte :=
  leBytes 8 (hubNs h) ++ leBytes 2 (hubFx h % 65536) ++ leBytes 1 (fld h aTimDiscStatus 0 3) ++ leBytes 5 0 ++ leBytes 8 h.tim.edges

/-- Slice vintage and digest of a dock (R135, R368). -/
def dfSlice (h : Hub) (d : Nat) : List Byte :=
  leBytes 8 (tget 0 h.txs.sliceVintage d).toNat ++ leBytes 16 (tget 0 h.txs.sliceDigest d).toNat

/-- The audio slot configurations (R368). -/
def dfAudio (h : Hub) : List Byte := (List.range 8).flatMap (fun n => leBytes 4 (rd h (aTimAudCfg n)).toNat)

/-- Data of the IN stage of a control transfer of a half; none = STALL. Descriptor bytes are not the manual's: free bytes. -/
def ctlData (h : Hub) (d half : Nat) (s : List Byte) : Hub × Option (List Byte) :=
  let t := suType s
  let r := suReq s
  if t = 0x80 ∧ r = 6 then ((freeBytes (min (suLen s) 255) h).1, some (freeBytes (min (suLen s) 255) h).2)
  else if t = 0xA0 ∧ r = 6 ∧ half < 2 then ((freeBytes (min (suLen s) 12) h).1, some (freeBytes (min (suLen s) 12) h).2)
  else if t = 0x80 ∧ r = 8 then (h, some (leBytes 1 (ctlAt h d half).config))
  else if t = 0x80 ∧ r = 0 then (h, some (leBytes 2 (1 + (if (ctlAt h d half).wake then 2 else 0))))
  else if (t = 0x81 ∨ t = 0x82) ∧ r = 0 then (h, some (leBytes 2 0))
  else if t = 0xA0 ∧ r = 0 ∧ half < 2 then (h, some (leBytes 4 0))
  else if t = 0xA3 ∧ r = 0 ∧ half < 2 then
    if 1 ≤ suIndex s ∧ suIndex s ≤ 15 then (h, some (leBytes 4 (portStatus h d half (suIndex s)))) else (h, none)
  else if t = 0xC0 ∧ half = 2 ∧ suValue s = 0 then
    if r = 1 ∧ suLen s = 24 then (h, some (ctlAt h d half).data)
    else if r = 2 ∧ suLen s = 24 then (h, some (dfSlice h d))
    else if r = 4 ∧ suLen s = 32 then (h, some (dfAudio h))
    else (h, none)
  else (h, none)

/-- Is a request without an IN stage one that the half takes? -/
def ctlOk (half : Nat) (s : List Byte) : Bool :=
  let t := suType s
  let r := suReq s
  (t = 0 && (r = 5 || r = 9 || r = 3 || r = 1)) || (t = 1 && (r = 3 || r = 1 || r = 11)) || (t = 2 && (r = 1 || r = 3)) ||
    (decide (half < 2) && t = 0x23 && (r = 1 || r = 3) && decide (1 ≤ suIndex s % 256) && decide (suIndex s % 256 ≤ 15)) ||
    (decide (half < 2) && t = 0x20 && (r = 1 || r = 3 || r = 12)) || (half = 2 && t = 0x40 && r = 3 && decide (suValue s < 8) && suLen s = 4)

/-- The device function of a dock is reset: a control transfer in progress is aborted, address and configuration return to default
(R370). -/
def dfReset (h : Hub) (d : Nat) : Hub :=
  setCtl (if (ctlAt h d 2).setup = [] then h else count h aUsbCntCtlAbort 1) d 2 Ctl.idle

/-- Resume a virtual port for its host (R372). -/
def hostResume (d v : Nat) (h : Hub) : Hub :=
  let key := d * 16 + v
  let u := usbPhys h d v
  let clearAll := fun (h : Hub) =>
    if v = 15 then setCtl h d 2 { ctlAt h d 2 with suspended := false }
    else [0, 1].foldl (fun h k => portLink (setVport h d k v { vport h d k v with suspended := false }) d k v 1) h
  match tfind h.usb.wakes key with
  | some w =>
    if w.done ∨ w.start + 1600000 < h.tim.coreClk then clearAll h
    else
      let h := { h with usb := { h.usb with wakes := tdel h.usb.wakes key } }
      let h := setFlag (setFlag h (aUsbVhWake d) 30 true) (aUsbVhWake d) 29 true
      raise (clearAll (count h aUsbCntCollided 1)) 0x0B 3 0 0
  | none =>
    let asleep := (vport h d 0 v).suspended || (vport h d 1 v).suspended
    let h := clearAll h
    match u with
    | some u => if asleep then send h (.usbResume u) else h
    | none => h

/-- A port feature of a virtual hub (R353, R372). -/
def portFeature (h : Hub) (d half v f : Nat) (set : Bool) (idx : Nat) : Hub :=
  let p := vport h d half v
  if set then
    match f with
    | 4 =>
      let h := match usbPhys h d v with
        | some u => usbReset h u
        | none => if v = 15 then dfReset h d else h
      let h := setVport h d half v { p with enabled := vpEnables h d half v, suspended := false, change := p.change ||| 16 }
      if half = 0 then { h with usb := { h.usb with locs := tput h.usb.locs (d * 128) ⟨v, 0⟩ } } else h
    | 28 => setVport (match usbPhys h d v with
        | some u => usbReset h u
        | none => if v = 15 then dfReset h d else h) d half v
        { p with enabled := vpEnables h d half v, suspended := false, change := p.change ||| 48 }
    | 2 => if p.enabled then portLink (setVport h d half v { p with suspended := true }) d half v 4 else h
    | 5 =>
      if idx / 256 = 3 then portLink (setVport h d half v { p with suspended := true }) d half v 4
      else if idx / 256 = 0 then hostResume d v h
      else if idx / 256 = 4 then setVport h d half v { p with enabled := false }
      else h
    | 27 => setVport h d half v { p with wakeMask := idx / 256 % 8 }
    | _ => h
  else
    match f with
    | 1 => setVport h d half v { p with enabled := false }
    | 2 => hostResume d v h
    | 16 => setVport h d half v { p with change := p.change &&& (0xFFFF ^^^ 1) }
    | 17 => setVport h d half v { p with change := p.change &&& (0xFFFF ^^^ 2) }
    | 18 => setVport h d half v { p with change := p.change &&& (0xFFFF ^^^ 4) }
    | 19 => setVport h d half v { p with change := p.change &&& (0xFFFF ^^^ 8) }
    | 20 => setVport h d half v { p with change := p.change &&& (0xFFFF ^^^ 16) }
    | 25 => setVport h d half v { p with change := p.change &&& (0xFFFF ^^^ 64) }
    | 29 => setVport h d half v { p with change := p.change &&& (0xFFFF ^^^ 32) }
    | _ => h

/-- The status stage of a control transfer: its settings take effect (R370). -/
def ctlApply (h : Hub) (d half : Nat) : Hub :=
  let c := ctlAt h d half
  let s := c.setup
  let t := suType s
  let r := suReq s
  let h := setCtl h d half { c with setup := [], data := [] }
  let c := ctlAt h d half
  if t = 0 ∧ r = 5 then
    let h := setCtl h d half { c with addr := suValue s % 128 }
    if half = 0 then { h with usb := { h.usb with
      locs := tput (tdel h.usb.locs (d * 128)) (d * 128 + suValue s % 128) ⟨0, 0⟩ } } else h
  else if t = 0 ∧ r = 9 then setCtl h d half { c with config := suValue s % 256 }
  else if t = 0 ∧ (r = 3 ∨ r = 1) ∧ suValue s = 1 then setCtl h d half { c with wake := r = 3 }
  else if t = 1 ∧ (r = 3 ∨ r = 1) ∧ suValue s = 0 ∧ half = 2 then
    let susp := decide (r = 3) && bitOf (suIndex s / 256) 0
    let h := setCtl h d half { c with wake := decide (r = 3) && bitOf (suIndex s / 256) 1 }
    if c.suspended ∧ !susp then hostResume d 15 h else setCtl h d half { ctlAt h d half with suspended := susp }
  else if t = 0x23 ∧ (r = 1 ∨ r = 3) then portFeature h d half (suIndex s % 256) (suValue s) (r = 3) (suIndex s)
  else if t = 0x40 ∧ r = 3 ∧ half = 2 then doorbell d (suValue s) (leNat c.data) h
  else h

/-- A USB 2.0 request to the virtual USB 2.0 hub itself: the result comes at once. -/
def hub2Request (h : Hub) (d tag : Nat) (unit : BitVec 64) (data : List Byte) : Hub :=
  let v := unit.toNat
  let dir := bitOf v 52
  let len := bitsOf v 33 11
  let c := ctlAt h d 0
  if bitsOf v 53 4 = 1 then
    let m := changeMap h d 0
    if m = 0 then usbResult h d tag unit 1 false [] else usbResult h d tag unit 0 (bitOf v 32) (leBytes 2 m)
  else if bitOf v 49 then usbResult (setCtl h d 0 { c with setup := data.take 8, data := [] }) d tag unit 0 false []
  else if c.setup = [] then usbResult h d tag unit 2 false []
  else if dir ∧ bitOf (suType c.setup) 7 then
    match ctlData h d 0 c.setup with
    | (h, some bs) => usbResult h d tag unit 0 true ((bs.take (suLen c.setup)).take len)
    | (h, none) => usbResult h d tag unit 2 false []
  else if !dir ∧ !bitOf (suType c.setup) 7 ∧ 0 < len then
    usbResult (setCtl h d 0 { c with data := c.data ++ data }) d tag unit 0 false []
  else if ctlOk 0 c.setup ∨ bitOf (suType c.setup) 7 then usbResult (ctlApply h d 0) d tag unit 0 true []
  else usbResult (setCtl h d 0 { c with setup := [] }) d tag unit 2 false []

/-! ### USB 2.0 requests to devices (R358-R360) -/

def setupKey (d half route addr : Nat) : Nat := d * 2 ^ 28 + half * 2 ^ 27 + route * 128 + addr

/-- A USB 2.0 request that has reached the complex goes to its port's list, the hub, or is dropped (R359, R364). -/
def usbRequest (h : Hub) (d tag : Nat) (unit : BitVec 64) (data : List Byte) : Option Hub :=
  let v := unit.toNat
  if !vhPresent h then some (count h aUsbCntNoPort 1)
  else match usbLoc h d (bitsOf v 57 7) with
    | none => some (count h aUsbCntNoPort 1)
    | some l =>
      if l.vport = 0 then some (hub2Request h d tag unit data)
      else match usbPhys h d l.vport with
        | none => some (count h aUsbCntNoPort 1)
        | some u =>
          if usbLink h u = 0 ∨ usbLink h u = 4 ∨ (vport h d 0 l.vport).suspended then some (count h aUsbCntNoPort 1)
          else match takeBlock h d (reqKey tag) false with
            | none => none
            | some h =>
              let h := tally h 0x60 0x0601 1 (some (usbInfo h d))
              let q : UsbReq := ⟨d, unit, data, tag, h.tim.coreClk⟩
              let per := bitsOf v 50 2
              if per = 1 ∨ per = 3 then
                some { h with usb := { h.usb with periodic := tmod [] h.usb.periodic u (fun l => l ++ [q]) } }
              else some { h with usb := { h.usb with async := tmod [] h.usb.async u (fun l => l ++ [q]) } }

/-- What the complex learns from a control transfer to a device that passes (R360): places and addresses; and that a device or a hub
below an external hub is gone, when its host clears that hub's C_PORT_CONNECTION (R242; notes/assumptions/145.md). -/
def usbSnoop (h : Hub) (u : Nat) (q : UsbReq) (ok : Bool) : Hub :=
  let v := q.unit.toNat
  let addr := bitsOf v 57 7
  let d := q.dock
  let key := setupKey d 0 0 addr
  if !ok ∨ bitsOf v 53 4 ≠ 0 then h
  else if bitOf v 49 then { h with usb := { h.usb with setups := tput h.usb.setups key (q.data.take 8) } }
  else match tfind h.usb.setups key, usbLoc h d addr with
    | some s, some l =>
      if bitsOf v 33 11 ≠ 0 then h
      else
        let h := { h with usb := { h.usb with setups := tdel h.usb.setups key } }
        if suType s = 0 ∧ suReq s = 5 then
          let na := suValue s % 128
          let h := { h with usb := { h.usb with locs := tput (tdel h.usb.locs (d * 128 + addr)) (d * 128 + na) l } }
          usbAddressed h d u (l.vport + l.route * 16) na (bitsOf v 47 2)
        else if suType s = 0x23 ∧ suReq s = 3 ∧ suValue s = 4 then
          let r := l.route + suIndex s % 16 * 16 ^ routeDepth l.route
          { h with usb := { h.usb with locs := tput h.usb.locs (d * 128) ⟨l.vport, r⟩ } }
        else if suType s = 0x23 ∧ suReq s = 1 ∧ suValue s = 16 then
          usbDetachBelow h u d (l.vport + (l.route + suIndex s % 16 * 16 ^ routeDepth l.route) * 16) false
        else h
    | _, _ => h

/-- TT_SERVICE (R358, R359): one bus transaction of a port with its result: the periodic list first, then the other; none starts while
the dock's gates are closed (R386). -/
def ttServe (h : Hub) (r : TtResult) : Hub :=
  let u := r.port.val
  let due := fun (q : UsbReq) => decide (q.edge + 3200 ≤ h.tim.coreClk)
  let pick : Option (UsbReq × Bool) :=
    match tget [] h.usb.periodic u, tget [] h.usb.async u with
    | q :: _, a => if due q then some (q, true) else a.head?.map (fun q => (q, false))
    | [], a => a.head?.map (fun q => (q, false))
  match pick with
  | none => h
  | some (q, per) =>
    if gatesClosed h q.dock then h else
    let h := if per then { h with usb := { h.usb with periodic := tmod [] h.usb.periodic u (fun l => l.drop 1) } }
      else { h with usb := { h.usb with async := tmod [] h.usb.async u (fun l => l.drop 1) } }
    let h := usbSnoop (send h (.usb2 u q.unit q.data)) u q (r.result = 0)
    usbResult h q.dock q.tag q.unit r.result.toNat r.toggle (r.data.take (bitsOf q.unit.toNat 33 11))

/-- The frames and microframes of a tick edge (R357). -/
def usbFrames (h : Hub) : Hub :=
  (List.range 16).foldl (fun h u =>
    if !usbPresent h.part.res u ∨ usbLink h u = 0 then h
    else if 4 ≤ usbSpeed h u then send h (.usbFrame u (h.tim.edges % 16384))
    else if usbSpeed h u = 3 ∨ h.tim.edges % 8 = 0 then send h (.usbFrame u (h.tim.edges / 8 % 2048))
    else h) h

/-- The value that slot n reports at a tick edge, and whether its interval closes there (R63, R369). -/
def audSlot (h : Hub) (n : Nat) : Nat × Bool :=
  let m := 2 ^ fld h (aTimAudCfg n) 24 2
  let a := tget ⟨0, 0⟩ h.tim.aud n
  if !flag h (aTimAudCfg n) 31 then (0, false)
  else if m ≤ edgesSince h a.from_ then ((a.acc + fld h (aTimAudCfg n) 0 20 * (125000 * m) * 65536) / 1000000000, true)
  else ((rd h (aTimAudValue n)).toNat, false)

/-- EP2_PACKET: the clock feedback packet of every configured device function (R369). -/
def ep2Packets (h : Hub) : Hub :=
  let l := (List.range 8).map (audSlot h)
  let bits := maskOf 8 (fun n => ((l[n]?).map (·.2)).getD false)
  let data := leBytes 4 h.tim.edges ++ leBytes 1 bits ++ leBytes 3 0 ++ l.flatMap (fun x => leBytes 4 x.1)
  (createdDocks h).foldl (fun h d => if dfPresent h d ∧ (ctlAt h d 2).config ≠ 0 then send h (.usbData d 2 data) else h) h

/-- EP1 carries one queued event record a microframe, OVERFLOW after loss (R367). -/
def ep1Packets (h : Hub) : Hub :=
  (createdDocks h).foldl (fun h d =>
    match tget [] h.usb.ep1 d with
    | [] => h
    | e :: es =>
      if !dfPresent h d ∨ (ctlAt h d 2).config = 0 then h
      else
        let lost := tget 0 h.usb.ep1Lost d
        let rec_ := leBytes 4 e.1 ++ leBytes 4 e.2.1 ++ leBytes 8 e.2.2
        let es := if lost = 0 then es else es ++ [(0x0F, lost, tickNo h)]
        send { h with usb := { h.usb with ep1 := tset [] h.usb.ep1 d es, ep1Lost := tset 0 h.usb.ep1Lost d 0 } } (.usbData d 1 rec_)) h

/-! ### SuperSpeed packets (R361-R364) -/

/-- A transaction packet of a virtual SuperSpeed device of the hub to the host. -/
def ssReply (h : Hub) (d : Nat) (p : UsbPacket) (sub numP : Nat) : Hub :=
  let dw0 := 4 + ssRoute p * 32 + ssAddr p * 2 ^ 25
  let dw1 := sub + (if ssIn p then 128 else 0) + ssEp p * 256 + numP * 2 ^ 16
  usbUp h d 0 0 0 0 (leBytes 12 (dw0 + dw1 * 2 ^ 32))

/-- A data packet of a virtual SuperSpeed device of the hub to the host. -/
def ssReplyData (h : Hub) (d : Nat) (p : UsbPacket) (data : List Byte) : Hub :=
  let dw0 := 8 + ssRoute p * 32 + ssAddr p * 2 ^ 25
  let dw1 := 2 ^ 6 + 2 ^ 7 + ssEp p * 256 + data.length * 2 ^ 16
  usbUp h d 1 0 0 0 (leBytes 12 (dw0 + dw1 * 2 ^ 32) ++ data)

/-- A packet to the control endpoint of the SuperSpeed hub (half 1) or of the device function (half 2) (R367, R368, R370). -/
def ssControl (h : Hub) (d half : Nat) (p : UsbPacket) : Hub :=
  let c := ctlAt h d half
  if ssAddr p ≠ c.addr then count h aUsbCntNoPort 1
  else if ssSetup p then
    let s := p.data.take 8
    -- GET_HUB_TIME is latched at the setup stage (R368)
    ssReply (setCtl h d half { c with setup := s, data := if half = 2 ∧ suType s = 0xC0 ∧ suReq s = 1 then dfTime h else [] }) d p 1 1
  else if ssType p = 8 then ssReply (setCtl h d half { c with data := c.data ++ p.data }) d p 1 1
  else if ssSub p = 4 then
    if ctlOk half c.setup ∨ bitOf (suType c.setup) 7 then ssReply (ctlApply h d half) d p 1 0
    else ssReply (setCtl h d half { c with setup := [] }) d p 5 0
  else if ssSub p = 1 ∧ 0 < ssNumP p ∧ ssEp p = 0 then
    match ctlData h d half c.setup with
    | (h, some bs) => ssReplyData h d p (bs.take (suLen c.setup))
    | (h, none) => ssReply h d p 5 0
  else if ssSub p = 1 ∧ 0 < ssNumP p ∧ half = 1 then
    let m := changeMap h d 1
    if m = 0 then ssReply h d p 2 0 else ssReplyData h d p (leBytes 2 m)
  else h

/-- What the complex learns from a control transfer to a SuperSpeed device (R241). -/
def ssSnoop (h : Hub) (d u : Nat) (p : UsbPacket) : Hub :=
  let key := setupKey d 1 (ssRoute p % 2 ^ 20) (ssAddr p)
  if ssEp p ≠ 0 then h
  else if ssSetup p then { h with usb := { h.usb with setups := tput h.usb.setups key (p.data.take 8) } }
  else if ssType p = 4 ∧ ssSub p = 4 then
    match tfind h.usb.setups key with
    | some s =>
      let h := { h with usb := { h.usb with setups := tdel h.usb.setups key } }
      if suType s = 0 ∧ suReq s = 5 then usbAddressed h d u (ssRoute p) (suValue s % 128) 3
      else if suType s = 0x23 ∧ suReq s = 1 ∧ suValue s = 16 then
        usbDetachBelow h u d (ssRoute p + suIndex s % 16 * 16 ^ routeDepth (ssRoute p)) true
      else h
    | none => h
  else h

/-- Link management packets and isochronous timestamp packets are not carried (R230). -/
def ssLocal (p : UsbPacket) : Bool := ssType p = 0 || ssType p = 12

/-- A SuperSpeed packet of the host for a physical port, clamped or held (R361, R362); none = held. -/
def ssDown (h : Hub) (d : Nat) (p : UsbPacket) : Option Hub :=
  let v := ssRoute p % 16
  if ssLocal p then some h
  else if !vhPresent h then some (count h aUsbCntNoPort 1)
  else if ssRoute p = 0 then some (ssControl h d 1 p)
  else if v = 15 then some (if dfPresent h d then ssControl h d 2 p else count h aUsbCntNoPort 1)
  else match usbPhys h d v with
    | none => some (count h aUsbCntNoPort 1)
    | some u =>
      if usbLink h u = 0 ∨ usbLink h u = 4 ∨ usbSpeed h u < 4 ∨ usbNoSs h u then some (count h aUsbCntNoPort 1)
      else
        let out := fun (h : Hub) (p : UsbPacket) => some (send (ssSnoop h d u p) (.usb u p.header p.data))
        if ssType p = 8 then
          let k := epKey p false
          match useBlock h d k (outKey k) with
          | some h => out (tally h 0x60 0x0600 1 (some (usbInfo h d))) p
          | none =>
            let h := blocksEmpty h d
            if ssIso p then some (raise (count h aUsbCntIsoDrop 1) 0x0B 1 0 0) else none
        else if ssSub p = 1 ∧ ssIn p then
          match clampNumP h d p true with
          | (h, some p) => out h p
          | (_, none) => none
        else out h p

/-- A SuperSpeed packet of a device: the packet that goes on, clamped; none = held (R362, R363). -/
def ssUp (h : Hub) (u d : Nat) (p : UsbPacket) : Option Hub :=
  let kOut := epKey p false
  let kIn := epKey p true
  let dev := usbHandle h d (ssAddr p) true
  if ssLocal p then some h
  else if ssType p = 8 then
    let id := h.swc.nextPkt + (12 + p.data.length) / 513
    match useBlock h d kIn (pktKey id) with
    | some h =>
      let ends := ssLast p || decide (p.data.length < 1024)
      let h := if ends then freeBlocks h (fun k => decide (k.key = kIn) && k.unused) else h
      some (usbUp (tally h 0x60 0x0600 1 (some ⟨20, d, 0, none⟩)) d 1 0 dev 0 (ssBytes p))
    | none =>
      let h := blocksEmpty h d
      if ssIso p then some (raise (count h aUsbCntIsoDrop 1) 0x0B 1 0 0) else none
  else
    let sub := ssSub p
    let acked := sub = 1 && !ssIn p
    let h1 := if acked then
        (match h.usb.blocks.find? (fun k => decide (k.key = outKey kOut)) with
          | some b => freeBlocks h (fun k => decide (k = b))
          | none => h)
      else h
    let h1 := if sub = 2 ∨ sub = 5 then freeBlocks h1 (fun k => decide (k.key = epKey p (ssIn p)) && k.unused) else h1
    if (acked ∨ (sub = 3 ∧ !ssIn p)) then
      match clampNumP h1 d p false with
      | (h, some p) => some (usbUp h d 0 0 dev 0 (ssBytes p))
      | (_, none) => none
    else some (usbUp h1 d 0 0 dev 0 (ssBytes p))

/-- A packet that finds no block, or others held before it, is held in arrival order (R362). -/
def holdCount (h : Hub) (d : Nat) : Hub := count (if usbFree h d = 0 then blocksEmpty h d else h) aUsbCntHeld 1

/-- USB_DEVICE_PACKET: a SuperSpeed packet from the device on Un (R361, R386). -/
def usbDevicePacket (u : Nat) (p : UsbPacket) (h : Hub) : Hub :=
  match usbAssign h u with
  | none => h
  | some (d, v) =>
    if usbLink h u = 0 ∨ usbNoSs h u ∨ (portEndOf h 20 d).isNone then h
    else if gatesClosed h d ∧ !(ssType p = 8 ∧ h.usb.blocks.any (fun k => decide (k.key = epKey p true) && k.unused)) then h
    else
      let _ := v
      if tget [] h.usb.heldUp d ≠ [] ∧ !ssIso p then { holdCount h d with usb := { (holdCount h d).usb with
          heldUp := tmod [] h.usb.heldUp d (fun l => l ++ [(u, p)]) } }
      else match ssUp h u d p with
        | some h => h
        | none => { holdCount h d with usb := { (holdCount h d).usb with
            heldUp := tmod [] h.usb.heldUp d (fun l => l ++ [(u, p)]) } }

def execUsbDevicePacket (u : Fin 16) (p : UsbPacket) (s : State) : Ans := s.act (usbDevicePacket u.val p)

/-- A whole unit that SP20 has taken from the switch core (R364); none = it is held. -/
def usbUnit (h : Hub) (d kind tag : Nat) (bytes : List Byte) : Option Hub :=
  if kind = 4 then usbRequest h d tag (BitVec.ofNat 64 (beNat (toNats (bytes.take 8)))) (bytes.drop 8)
  else if kind = 5 then some h
  else ssDown h d ⟨BitVec.ofNat 96 (leNat (bytes.take 12)), bytes.drop 12⟩

/-- Bytes that a unit of USB needs by its header; none while the header is not whole. -/
def usbUnitLen (kind : Nat) (bs : List Byte) : Option Nat :=
  if kind = 4 then
    if bs.length < 8 then none
    else
      let v := beNat (toNats (bs.take 8))
      some (8 + (if bitOf v 52 then 0 else bitsOf v 33 11))
  else if bs.length < 12 then none
  else
    let p : UsbPacket := ⟨BitVec.ofNat 96 (leNat (bs.take 12)), []⟩
    some (12 + (if ssType p = 8 then bitsOf (ssDw p 1) 16 16 else 0))

/-- Hold a packet at the complex until a block frees. -/
def usbHold (h : Hub) (d : Nat) (p : Pkt) : Hub :=
  { holdCount h d with usb := { (holdCount h d).usb with heldDown := tmod [] h.usb.heldDown d (fun l => l ++ [p]) } }

/-- A whole unit in one packet record goes on or is held behind earlier ones; isochronous SuperSpeed packets are never held (R362). -/
def usbGive (h : Hub) (d : Nat) (p : Pkt) (bytes : List Byte) : Hub :=
  let whole := { p with payload := bytes }
  let iso := p.hdr.kind ≠ 4 && p.hdr.kind ≠ 5 && ssIso ⟨BitVec.ofNat 96 (leNat (bytes.take 12)), []⟩
  if tget [] h.usb.heldDown d ≠ [] ∧ !iso then usbHold h d whole
  else match usbUnit h d p.hdr.kind.toNat p.hdr.tag.toNat bytes with
    | some h => h
    | none => usbHold h d whole

/-- A packet of a dock's USB tunnel reaches SP20: units are put together (R228). The tunnel engine has counted a unit cut short;
its packets already under way are dropped here. -/
def usbDown (h : Hub) (p : Pkt) : Hub :=
  let key := endKey 20 p.hdr.tid.toNat * 8 + 4
  let seg := tfind h.tun.segOut key
  let cont := decide (p.hdr.kind = 0xF)
  let seg := if cont then seg else none
  if cont ∧ seg.isNone then h
  else
    let kind := (seg.map (·.kind)).getD p.hdr.kind.toNat
    let tag := (seg.map (·.tag)).getD p.hdr.tag.toNat
    let bytes := (seg.map (·.data)).getD [] ++ p.payload
    match usbUnitLen kind bytes with
    | none => count h aTunCntTypeErr 1
    | some n =>
      if bytes.length < n then
        { h with tun := { h.tun with segOut := tput h.tun.segOut key ⟨kind, 0, bytes, tag, 20, 0⟩ } }
      else
        let h := { h with tun := { h.tun with segOut := tdel h.tun.segOut key } }
        let hd := { p.hdr with kind := BitVec.ofNat 4 kind, tag := BitVec.ofNat 12 tag }
        usbGive h p.dock { p with hdr := hd } (bytes.take n)

/-- BLOCK_FREE: the first held packet of a dock goes on when a block is free (R362). -/
def blockFree (d : Nat) (h : Hub) : Hub :=
  if usbFree h d = 0 then h
  else match tget [] h.usb.heldDown d, tget [] h.usb.heldUp d with
    | p :: ps, _ =>
      match usbUnit { h with usb := { h.usb with heldDown := tset [] h.usb.heldDown d ps } } d p.hdr.kind.toNat p.hdr.tag.toNat p.payload with
      | some h => h
      | none => h
    | [], (u, p) :: ps =>
      match ssUp { h with usb := { h.usb with heldUp := tset [] h.usb.heldUp d ps } } u d p with
      | some h => h
      | none => h
    | [], [] => h

def execBlockFree (d : Fin 64) (s : State) : Ans := s.act (blockFree d.val)

/-- RESERVATION_EXPIRY: reservations of a dock unused for 2 tick edges (R363). -/
def reservationExpiry (d : Nat) (h : Hub) : Hub :=
  freeBlocks h (fun k => decide (k.dock = d) && k.unused && decide (2 ≤ edgesSince h k.edge))

def execReservationExpiry (d : Fin 64) (s : State) : Ans := s.act (reservationExpiry d.val)

/-- The blocks of data packets that have entered the switch core are free (R363). -/
def usbEntered (h : Hub) : Hub :=
  let waiting := (tget [] h.swc.entry 20).map (fun p => pktKey p.id)
  freeBlocks h (fun k => decide (2 ^ 41 ≤ k.key) && decide (k.key < 2 ^ 42) && !waiting.contains k.key)

/-! ### Connection, reassignment (R353, R356) -/

/-- USB_DEVICE_CONNECT: speeds 1 low to 5 Gen 2x1. -/
def usbConnect (u : Nat) (speed : Nat) (h : Hub) : Hub :=
  if !usbPresent h.part.res u ∨ speed = 0 ∨ 5 < speed ∨ (4 ≤ speed ∧ usbNoSs h u) ∨ usbSpeed h u ≠ 0 ∨ flag h (aUsbPortStatus u) 7 then h
  else
    let h := setFld h (aUsbPortStatus u) 0 3 speed
    let h := if (tfind h.usb.resetFrom u).isSome then h else usbLinkTo h u 1
    match usbAssign h u with
    | some (d, v) => if (tfind h.usb.resetFrom u).isSome then h else vpChange h d v 0
    | none => h

def execUsbDeviceConnect (u : Fin 16) (speed : BitVec 3) (s : State) : Ans := s.act (usbConnect u.val speed.toNat)

/-- What of a port's traffic ends when its device or its assignment goes: requests, reservations, places, handles. -/
def usbPortClear (h : Hub) (u d v code : Nat) : Hub :=
  let h := usbCancel h u code (code = 6) (some (d, v))
  let h := { h with usb := { h.usb with
    locs := h.usb.locs.filter (fun e => !(decide (e.1 / 128 = d) && decide (e.2.vport = v)))
    heldUp := tset [] h.usb.heldUp d ((tget [] h.usb.heldUp d).filter (fun e => decide (e.1 ≠ u)))
    heldDown := tset [] h.usb.heldDown d ((tget [] h.usb.heldDown d).filter (fun p =>
      decide (p.hdr.kind = 4) || decide (ssRoute ⟨BitVec.ofNat 96 (leNat (p.payload.take 12)), []⟩ % 16 ≠ v))) } }
  let route := fun (k : Nat) => k % 2 ^ 40 / 2 ^ 12 % 16
  let h := freeBlocks h (fun k => decide (k.dock = d) && (decide (k.key < 2 ^ 40) || decide (2 ^ 42 ≤ k.key)) && decide (route k.key = v))
  let h := usbDetach h u
  [0, 1].foldl (fun h k => setVport h d k v { vport h d k v with enabled := false, suspended := false }) h

/-- USB_DEVICE_DISCONNECT: a disconnect is reported and handles are freed (R242). -/
def usbDisconnect (u : Nat) (h : Hub) : Hub :=
  if usbSpeed h u = 0 then h
  else
    let h := usbLinkTo (setFld h (aUsbPortStatus u) 0 3 0) u 0
    match usbAssign h u with
    | some (d, v) => vpChange (usbPortClear h u d v 5) d v 0
    | none => h

def execUsbDeviceDisconnect (u : Fin 16) (s : State) : Ans := s.act (usbDisconnect u.val)

/-- The switch-over that takes port Un from a dock (R356): old is its former dock and virtual port. -/
def usbReassign (h : Hub) (u : Nat) (old : Nat × Nat) : Hub :=
  let h := vpChange (usbPortClear h u old.1 old.2 6) old.1 old.2 0
  let h := setFld (send h (.usbReset u)) (aUsbPortStatus u) 3 3 5
  { h with usb := { h.usb with resetFrom := tput h.usb.resetFrom u h.tim.edges } }

/-- REASSIGN_RESET_END: after REASSIGN_MS the new dock's virtual port reports a connection (R356). -/
def reassignEnd (u : Nat) (h : Hub) : Hub :=
  match tfind h.usb.resetFrom u with
  | none => h
  | some e =>
    if edgesSince h e < 8 * fld h aUsbCfg 0 8 then h
    else
      let h := { h with usb := { h.usb with resetFrom := tdel h.usb.resetFrom u } }
      let h := usbLinkTo h u (if usbSpeed h u = 0 then 0 else 1)
      match usbAssign h u with
      | some (d, v) => if usbSpeed h u = 0 then h else vpChange h d v 0
      | none => h

def execReassignResetEnd (u : Fin 16) (s : State) : Ans := s.act (reassignEnd u.val)

/-- A buffer disabled or moved while it holds blocks drains, and keeps its bytes of an offset and length until it has (R366). -/
def bufDrain (h : Hub) (b off len : Nat) : Hub :=
  if bufUse h b = 0 ∨ flag h (aUsbEpmUse b) 31 then h
  else setFlag { h with usb := { h.usb with drain := tset (0, 0) h.usb.drain b (off, len) } } (aUsbEpmUse b) 31 true

/-- The channel of a port trips: over-current is reported (R353). -/
def usbOverCurrent (h : Hub) (u : Nat) : Hub :=
  if flag h (aUsbPortStatus u) 7 then h
  else
    let h := setFlag h (aUsbPortStatus u) 7 true
    let h := match usbAssign h u with
      | some (d, v) =>
        [0, 1].foldl (fun h k => setVport h d k v { vport h d k v with enabled := false }) (vpChange h d v 3)
      | none => h
    raise h 0x0B 2 0 0

/-- The channel gives power-good again (R353). -/
def usbPowerGood (h : Hub) (u : Nat) : Hub :=
  if !flag h (aUsbPortStatus u) 7 then h
  else
    let h := setFlag h (aUsbPortStatus u) 7 false
    match usbAssign h u with
    | some (d, v) => vpChange h d v 3
    | none => h

/-! ### The device function and wakes (R367-R372) -/

/-- Can a host's request reach the device function of a dock? -/
def dfReachable (h : Hub) (d : Nat) : Bool := dfPresent h d && (trunkEnd h d 2).isSome && !gatesClosed h d

/-- GET_HUB_TIME (R368). -/
def execGetHubTime (d : Fin 64) (t : Nat) (s : State) : Ans :=
  s.act (fun h =>
    let h := atClk h t
    if dfReachable h d.val then send h (.usbData d.val 0 (dfTime h)) else h)

/-- GET_SLICE (R368). -/
def execGetSlice (d : Fin 64) (s : State) : Ans :=
  s.act (fun h => if dfReachable h d.val then send h (.usbData d.val 0 (dfSlice h d.val)) else h)

/-- DOORBELL of the device function (R368). -/
def execUsbDoorbell (d : Fin 64) (k : Fin 8) (value : Word) (s : State) : Ans :=
  s.act (fun h => if dfReachable h d.val then doorbell d.val k.val value.toNat h else h)

/-- GET_AUDIO_CFG (R368). -/
def execGetAudioCfg (d : Fin 64) (s : State) : Ans :=
  s.act (fun h => if dfReachable h d.val then send h (.usbData d.val 0 (dfAudio h)) else h)

/-- FUNCTION_RESET: a control transfer in progress is aborted, address and configuration return to default (R370). -/
def functionReset (d : Nat) (h : Hub) : Hub :=
  if !dfPresent h d then h
  else
    dfReset h d

def execFunctionReset (d : Fin 64) (s : State) : Ans := s.act (functionReset d.val)

/-- Has the host enabled a remote wake of a virtual port (R371)? -/
def wakeArmed (h : Hub) (d v : Nat) : Bool :=
  if v = 15 then (ctlAt h d 2).suspended && (ctlAt h d 2).wake
  else ((vport h d 0 v).suspended && (ctlAt h d 0).wake) || ((vport h d 1 v).suspended && decide ((vport h d 1 v).wakeMask ≠ 0))

/-- REMOTE_WAKE: the wake start; the port is driven to resume, or its link brought to U0 (R371). -/
def remoteWake (d v : Nat) (h : Hub) : Hub :=
  if !wakeArmed h d v ∨ (tfind h.usb.wakes (d * 16 + v)).isSome then h
  else
    let h := { h with usb := { h.usb with wakes := tput h.usb.wakes (d * 16 + v) ⟨h.tim.coreClk, false⟩ } }
    let h := wr (wr h (aUsbVhWake d) (W (2 ^ 31 + 2 ^ 28 + v))) (aUsbVhWakeTick d) (W (tickNo h))
    let h := if (vport h d 1 v).suspended then portLink h d 1 v 1 else h
    match usbPhys h d v with
    | some u => send h (.usbResume u)
    | none => h

def execRemoteWake (d : Fin 64) (v : Fin 16) (s : State) : Ans := s.act (remoteWake d.val v.val)

/-- WAKE_REPORT: 1 ms after the wake start the change bit or the Function Wake notification goes (R371). -/
def wakeReport (d v : Nat) (h : Hub) : Hub :=
  match tfind h.usb.wakes (d * 16 + v) with
  | none => h
  | some w =>
    if h.tim.coreClk < w.start + 1600000 then h
    else
      let h := { h with usb := { h.usb with wakes := tdel h.usb.wakes (d * 16 + v) } }
      if v = 15 then
        let h := setCtl h d 2 { ctlAt h d 2 with suspended := false }
        usbUp h d 0 0 0 0 (leBytes 12 (4 + 15 * 32 + (ctlAt h d 2).addr * 2 ^ 25 + (6 + 16) * 2 ^ 32))
      else
        let h0 := if (vport h d 0 v).suspended then portLink (setVport h d 0 v { vport h d 0 v with suspended := false, change := (vport h d 0 v).change ||| 4 }) d 0 v 1 else h
        if (vport h0 d 1 v).suspended then
          portLink (setVport h0 d 1 v { vport h0 d 1 v with suspended := false, change := (vport h0 d 1 v).change ||| 64 }) d 1 v 1 else h0

def execWakeReport (d : Fin 64) (v : Fin 16) (s : State) : Ans := s.act (wakeReport d.val v.val)

/-- HOST_RESUME (R372). -/
def execHostResume (d : Fin 64) (v : Fin 16) (s : State) : Ans := s.act (hostResume d.val v.val)

end Sys2Proof.Machine
end

