-- ==== Sys2Proof/Machine/Tunnels.lean ====
section
/-!
DEFINITION. The tunnel engine (chapter 7): opening, routing, closing and moving ends, control and time messages, packets that
enter a switch port, waiting requests, and Ethernet classification.
-/
namespace Sys2Proof.Machine

/-! ### Instructions that stage ends (R215, R221-R223) -/

/-- Open ends of a configuration, as pairs of switch port and tunnel ID. -/
def openPairs (regs : Tab Word) : List (Nat × Nat) := (endsIn regs).map (fun e => (e.sp, e.tid))

/-- Is a TID of a trunk free in a configuration: neither open there nor reserved by a group (R217, R221)? -/
def tidFree (h : Hub) (regs : Tab Word) (ends : List (Nat × Nat)) (sp tid : Nat) : Bool :=
  !builtIn sp tid && !ends.contains (sp, tid) &&
  (decide (8 ≤ sp) || (List.range 64).all (fun d =>
    let m := maskIn h regs d
    !bitOf (cfg h regs (aVdkCfg d)) 31 || !bitOf m sp || decide (lowest m = sp) || !ends.contains (lowest m, tid)))

/-- TUN.OPEN (R221): stages word 0 of an end. -/
def execTunOpen (th : Fin 4) (s : State) : Ans :=
  s.act (fun h => onInstr h th 0x20 (fun h c w =>
    let x := w.x 0
    let sp := w.o 0 5
    let d := w.o 16 6
    let regs := standing h c []
    let ends := openPairs regs
    if !onlyBits w.operand 0x073F0F1F || !onlyBits x 0x83FF || decide (24 ≤ sp) || !spPresent h.part.res sp ||
        decide (h.part.res.docks ≤ d) || decide (5 < w.o 8 4) then settle h c.id .invalid 0
    else
      let tid := if w.target = 0xF000 then (List.range 4096).find? (fun t => decide (1 ≤ t) && tidFree h regs ends sp t)
        else some w.target
      match tid with
      | none => settle h c.id .busy 0
      | some t =>
        if 4096 ≤ t ∨ builtIn sp t then settle h c.id .invalid 0
        else if 4096 ≤ ends.length ∧ !ends.contains (sp, t) then settle h c.id .busy 0
        else
          let v := 2 ^ 31 + w.o 24 3 * 2 ^ 28 + w.o 8 4 * 2 ^ 24 + d * 2 ^ 16 + x
          stageOpen h c w [(aTunT sp t, W v)] ((scDock d).union (scPort sp)) t [aTunT sp t] []))

/-- TUN.CLOSE (R223): stages both words of an open end back to reset. -/
def execTunClose (th : Fin 4) (s : State) : Ans :=
  s.act (fun h => onInstr h th 0x21 (fun h c w =>
    let sp := w.operand
    let tid := w.target
    if 24 ≤ sp ∨ !spPresent h.part.res sp ∨ 4096 ≤ tid ∨ builtIn sp tid ∨ (endIn h (standing h c []) sp tid).isNone then
      settle h c.id .invalid 0
    else stageS h c w [(aTunT sp tid, 0), (aTunR sp tid, 0)] (endScope h (standing h c []) sp tid) 0))

/-- TUN.ROUTE (R222): stages the route of an end. -/
def execTunRoute (th : Fin 4) (s : State) : Ans :=
  s.act (fun h => onInstr h th 0x22 (fun h c w =>
    let sp := w.o 0 5
    let esp := w.o 5 5
    let etid := w.o 16 12
    let tid := w.target
    let badEgress := if esp = 0x1F then decide (etid ≠ 0)
      else decide (24 ≤ esp) || !spPresent h.part.res esp || (decide (esp ≠ 23) && builtIn esp etid)
    if !onlyBits w.operand 0x0FFF03FF || decide (24 ≤ sp) || !spPresent h.part.res sp || decide (4096 ≤ tid) || builtIn sp tid ||
        badEgress then settle h c.id .invalid 0
    else
      let extra := (endScope h (standing h c []) sp tid).union (if esp < 24 then scPort esp else Scope.empty)
      stageS h c w [(aTunR sp tid, W (2 ^ 31 + esp * 2 ^ 24 + etid))] extra 0))

/-! ### Moves (R224, R225) -/

/-- A route word with every naming of an end replaced. -/
def renameRoute (r sp tid dst : Nat) : Nat :=
  if bitOf r 31 ∧ bitsOf r 24 5 = sp ∧ bitsOf r 0 12 = tid then putBits r 24 5 dst else r

/-- The records that move one end from a trunk to another in a configuration, with the routes that name it (R224 step 2). -/
def moveRecs (h : Hub) (regs : Tab Word) (from_ dst tid : Nat) : Recs :=
  let own := [(aTunT dst tid, W (cfg h regs (aTunT from_ tid))), (aTunR dst tid, W (renameRoute (cfg h regs (aTunR from_ tid)) from_ tid dst)),
    (aTunT from_ tid, 0), (aTunR from_ tid, 0)]
  own ++ regs.filterMap (fun e =>
    if 0x510000 ≤ e.1 ∧ e.1 < 0x5D0000 ∧ e.1 % 8 = 4 ∧ e.1 ≠ aTunR from_ tid ∧ renameRoute e.2.toNat from_ tid dst ≠ e.2.toNat then
      some (e.1, W (renameRoute e.2.toNat from_ tid dst)) else none)

/-- TUN.MOVE (R224): a trunk end of a dock of one trunk moves to that trunk by an internal transaction. -/
def execTunMove (th : Fin 4) (s : State) : Ans :=
  s.act (fun h => onLong h th 0x23 (fun h c w =>
    let a := w.o 0 5
    let b := w.o 5 5
    let tid := w.target
    let regs := projected h
    if 2 ^ 10 ≤ w.operand ∨ 8 ≤ a ∨ 8 ≤ b ∨ !spPresent h.part.res a ∨ !spPresent h.part.res b ∨ 4096 ≤ tid ∨ tid = 0 then
      settle h c.id .invalid 0
    else match endIn h regs a tid with
      | none => settle h c.id .invalid 0
      | some e =>
        let m := maskIn h regs e.dock
        if popcount 8 m ≠ 1 ∨ !bitOf m b ∨ (endIn h regs b tid).isSome then settle h c.id .invalid 0
        else if gatesClosed h e.dock then settle h c.id .denied 0
        else match oConflict h c (((scDock e.dock).union (scPort a)).union (scPort b)) with
          | some k => settle h c.id .conflict k
          | none =>
            let h := submit h (.internal (.move a b tid)) (cmdPort h c) (moveRecs h regs a b tid) (some c.id) [] []
            beginWait h c w .op))

/-- Is a packet one of a moved tunnel queued before its move? -/
def oldOfMove (m : Move) (p : Pkt) : Bool :=
  decide (p.egr = m.from_) && decide (p.hdr.tid.toNat = m.tid) && decide (p.id < m.upto)

/-- Do the staves of a trunk that wait for acknowledgement hold a packet of a tunnel? A stave whose first packet began in an
acknowledged one may. -/
def unackedHas (h : Hub) (n tid : Nat) : Bool :=
  let t := trk h n
  (List.range 8).any (fun vc =>
    let l := t.replay.filter (fun s => decide (s.vc = vc))
    let r := l.foldl (fun (x : List Word64 × Bool × Bool) s =>
      let us := if x.2.1 then s.body else s.body.drop s.fpo
      let p := parseBody 32 us x.1 vc
      (p.left, x.2.1 || decide (s.fpo ≠ 31), x.2.2 || p.packets.any (fun q => decide (q.hdr.tid.toNat = tid)))) ([], false, false)
    let cut := match r.1 with
      | u :: _ => decide (bitsOf u.toNat 48 12 = tid)
      | [] => false
    r.2.2 || cut)

/-- Has the last old packet of a move left and been acknowledged, or is the old trunk down (R224 step 5, R225)? -/
def moveDrained (h : Hub) (m : Move) : Bool :=
  let up := decide (7 ≤ trkState h m.from_) && decide (trkState h m.from_ ≤ 9)
  let t := trk h m.from_
  !up || (!(voqPackets h ++ queuedPackets h).any (oldOfMove m) && !t.txq.any (fun p => decide (p.hdr.tid.toNat = m.tid)) &&
    !unackedHas h m.from_ m.tid)

/-- A move ends: held packets enter in arrival order and the command completes (R224 step 6). -/
def moveEnd (h : Hub) (m : Move) (st : Status) : Hub :=
  let rest := h.tun.moves.filter (fun x => decide (x ≠ m))
  let keep := if m.graceOver then [] else [{ m with held := [], done := true }]
  let h := { h with tun := { h.tun with moves := rest ++ keep } }
  let h := m.held.foldl enterCore h
  settle h m.cmd st (if st = .ok then m.vint else 0)

/-- The move of a tunnel that left a trunk. -/
def findMove (h : Hub) (n tid : Nat) : Option Move :=
  h.tun.moves.find? (fun m => decide (m.from_ = n) && decide (m.tid = tid))

/-- MOVE_COMPLETE (R224 steps 5 and 6). -/
def moveComplete (n tid : Nat) (h : Hub) : Hub :=
  match findMove h n tid with
  | some m => if m.done ∨ !moveDrained h m then h else moveEnd h m .ok
  | none => h

def execMoveComplete (trunk : Fin 8) (tid : BitVec 12) (s : State) : Ans := s.act (moveComplete trunk.val tid.toNat)

/-- MOVE_TIMEOUT: 16 tick edges after step 2 (R225). -/
def moveTimeout (n tid : Nat) (h : Hub) : Hub :=
  match findMove h n tid with
  | some m =>
    if m.done ∨ edgesSince h m.edge < 16 then h
    else
      let r := purge h (oldOfMove m)
      let h := failLost (count r.1 aTunCntMoveDrop r.2.length) r.2
      moveEnd (raise h 0x06 5 0 0) m .timeout
  | none => h

def execMoveTimeout (trunk : Fin 8) (tid : BitVec 12) (s : State) : Ans := s.act (moveTimeout trunk.val tid.toNat)

/-- MOVE_GRACE_END: MOVE_GRACE edges after step 2 (R224 step 4). -/
def moveGraceEnd (n tid : Nat) (h : Hub) : Hub :=
  match findMove h n tid with
  | some m =>
    if m.graceOver ∨ edgesSince h m.edge < fld h aTunCfg 8 8 then h
    else
      let rest := h.tun.moves.filter (fun x => decide (x ≠ m))
      { h with tun := { h.tun with moves := if m.done then rest else rest ++ [{ m with graceOver := true }] } }
  | none => h

def execMoveGraceEnd (trunk : Fin 8) (tid : BitVec 12) (s : State) : Ans := s.act (moveGraceEnd trunk.val tid.toNat)

/-! ### Control messages (R234-R236) -/

/-- Does the control tunnel of a trunk carry messages: is its link up? -/
def controlUp (h : Hub) (n : Nat) : Bool := decide (7 ≤ trkState h n) && decide (trkState h n ≤ 9)

/-- NOTICE of an end on a trunk: 1 open, 2 close, 3 moved in, 4 moved out, 5 key change (R226, R234). -/
def notice (h : Hub) (n op : Nat) (e : EndInfo) : Hub :=
  if !controlUp h n then h
  else
    let no := tget 0 h.tun.notices n
    let u0 := op * 2 ^ 56 + e.tid * 2 ^ 44 + e.type * 2 ^ 40 + e.dock * 2 ^ 32 + (if e.keyEn then 2 ^ 31 else 0) + e.kslot * 2 ^ 16 +
      dockMask h e.dock * 2 ^ 8
    let h := { h with tun := { h.tun with notices := tset 0 h.tun.notices n ((no + 1) % 65536) } }
    sendControl h n 1 64 [u0, no * 2 ^ 48]

/-- DOCK_STATE on a trunk (R234). -/
def dockStateMsg (h : Hub) (n d st : Nat) : Hub :=
  if !controlUp h n then h else sendControl h n 5 64 [d * 2 ^ 40 + st * 2 ^ 32]

/-- DOCK_STATE on every trunk of a mask. -/
def dockStateAll (h : Hub) (mask d st : Nat) : Hub := (bitsSet 8 mask).foldl (fun h n => dockStateMsg h n d st) h

/-- The state that DOCK_STATE reports for a dock. -/
def reportedState (h : Hub) (d : Nat) : Nat :=
  let st := dockState h d
  if st = 5 ∨ st = 0 then 4 else if 2 ≤ st then 2 else 1

/-- HELLO of a host end (R235, R354): answered with HELLO, an open NOTICE for each end on the trunk and a DOCK_STATE for each dock
that has one; the docks' virtual USB hubs return to the default state. -/
def hello (n u0 : Nat) (h : Hub) : Hub :=
  if !controlUp h n then h
  else
    let h := wr h (aTunHello n) (W (bitsOf u0 56 8 * 2 ^ 24 + bitsOf u0 40 16))
    let h := sendControl h n 0 64 [2 ^ 56 + n * 2 ^ 53 + fld h aTimHubTag 0 16 * 2 ^ 24]
    let ends := (endsIn h.regs).filter (fun e => decide (e.sp = n))
    let h := ends.foldl (fun h e => notice h n 1 e) h
    let docks := (List.range 64).filter (fun d => ends.any (fun e => decide (e.dock = d)))
    let h := docks.foldl (fun h d => dockStateMsg h n d (reportedState h d)) h
    (docks.filter (fun d => ends.any (fun e => decide (e.dock = d) && decide (e.type = 2)))).foldl usbDefault h

def execHello (trunk : Fin 8) (u0 : BitVec 64) (s : State) : Ans := s.act (hello trunk.val u0.toNat)

/-! ### Time messages (R232) -/

/-- Send a time message on a trunk for an end; a frozen dock receives none (R386). -/
def sendTime (h : Hub) (n kind : Nat) (e : EndInfo) (units : List Nat) : Hub :=
  if gatesClosed h e.dock then count h (aVdkCntFrozenDrop e.dock) 1
  else
    let r := newPkt h 22 n (plainHdr 4 e.tid kind 0 0 0) (units.flatMap (fun u => toBytes (beBytes 8 u))) kind e.dock e.cls 64 0
    enter r.1 r.2

/-- The trunk on which the hub sends time messages of an end: for a group, the member of its flow. -/
def timeTrunk (h : Hub) (e : EndInfo) : Nat :=
  if isGroup h e.dock then
    let n := mapTrunk h e.dock (flowBucket e.tid 0)
    if n < 8 then n else e.sp
  else e.sp

/-- The reply to a query (R232): it goes out where the end is now, whichever trunk brought the query (R217, R224). -/
def timeReply (h : Hub) (e : EndInfo) (cookie : Nat) : Hub :=
  sendTime h (timeTrunk h e) 1 e [cookie, hubNs h, hubFx h % 65536 * 2 ^ 48 + fld h aTimDiscStatus 0 3 * 2 ^ 40]

/-- TIME_QUERY on an open time tunnel of a trunk. -/
def timeQuery (n tid cookie : Nat) (h : Hub) : Hub :=
  match resolveEnd h n tid with
  | some e => if e.type ≠ 4 then h
    else if gatesClosed h e.dock then count h (aVdkCntFrozenDrop e.dock) 1
    else timeReply h e cookie
  | none => h

def execTimeQuery (trunk : Fin 8) (tid : BitVec 12) (cookie : BitVec 64) (t : Nat) (s : State) : Ans :=
  s.act (fun h => timeQuery trunk.val tid.toNat cookie.toNat (atClk h t))

/-! ### Packets that enter (R218, R220, R228) -/

/-- The header that goes on to an egress end. -/
def onwardHdr (x : Hdr) (tid : Nat) : Hdr := { x with tid := BitVec.ofNat 12 tid, keyEn := false, kslot := 0, pn := 0, dev := 0 }

def segKey (sp : Nat) (x : Hdr) : Nat := endKey sp x.tid.toNat * 8 + x.vc.toNat

def setSeg (h : Hub) (k : Nat) (x : Option Seg) : Hub :=
  { h with tun := { h.tun with segIn := match x with
    | some s => tput h.tun.segIn k s
    | none => tdel h.tun.segIn k } }

/-- A segment or type error (R220, R228). -/
def typeErr (h : Hub) : Hub := tally (count h aTunCntTypeErr 1) 0x20 0x0204 1 none

/-- Pass a packet of a unit to an end. -/
def passTo (h : Hub) (sp : Nat) (src : Nat) (unitKind : Nat) (x : Hdr) (payload : List Byte) (egr tid dock cls : Nat) : Hub :=
  let r := newPkt h sp egr (onwardHdr x tid) payload unitKind dock cls src 0
  enter r.1 { r.2 with itid := x.tid.toNat }

/-- Does a USB packet wait at an ingress port, so that later ones of its VC wait too (R240)? -/
def usbBlocked (h : Hub) (ing : Nat) : Bool :=
  (h.tun.waitTag ++ h.tun.waitPool).any (fun e => decide (e.1 = ing) && decide (e.2.hdr.type = 2))

/-- Pass a USB packet of a host to SP20: a USB 2.0 request takes a tag with its device's handle and 11 cells (R238, R264). `retry` puts a request that
still finds none back at the front. -/
def usbPass (h : Hub) (ing : Nat) (e : EndInfo) (unitKind : Nat) (p : TunPacket) (retry : Bool) : Hub :=
  match routeEnd h e.sp e.tid with
  | none => noRoute h ing e.dock
  | some dst =>
    let go := fun (h : Hub) (tag : Nat) =>
      passTo h ing e.dock unitKind { p.hdr with tag := BitVec.ofNat 12 tag } p.payload dst.sp dst.tid dst.dock dst.cls
    if usbBlocked h ing ∧ !retry then
      let pool := !h.tun.waitTag.any (fun x => decide (x.1 = ing) && decide (x.2.hdr.type = 2))
      if p.hdr.kind = 4 then waitFor h ing p pool
      else { h with tun := if pool then { h.tun with waitPool := h.tun.waitPool ++ [(ing, p)] }
                           else { h.tun with waitTag := h.tun.waitTag ++ [(ing, p)] } }
    else if p.hdr.kind ≠ 4 then go h p.hdr.tag.toNat
    else
      let dev := usbHandle h e.dock (bitsOf (beNat (toNats (p.payload.take 8))) 57 7) false
      let g : Tag := ⟨2, false, e.dock, e.sp, e.tid, dev, 0, p.hdr.tag.toNat, 0, 11, 0, none, tlpZero, none⟩
      match takeTag h g with
      | (h, .ok n) => go h n
      | (h, .error pool) =>
        if retry then { h with tun := if pool then { h.tun with waitPool := (ing, p) :: h.tun.waitPool }
                                      else { h.tun with waitTag := (ing, p) :: h.tun.waitTag } }
        else waitFor h ing p pool

/-- A USB packet of a host: units are followed by the length in their header (R228, R230). -/
def usbIn (h : Hub) (ing : Nat) (e : EndInfo) (p : TunPacket) : Hub :=
  let k := segKey e.sp p.hdr
  let kind := p.hdr.kind.toNat
  if (routeEnd h e.sp e.tid).isNone then noRoute h ing e.dock
  else if kind = 0xF then
    match tfind h.tun.segIn k with
    | none => typeErr h
    | some s =>
      let data := s.data ++ p.payload
      let excess := match usbUnitLen s.kind data with
        | some n => decide (n ≤ data.length)
        | none => true
      usbPass (setSeg h k (if excess then none else some { s with data := data })) ing e s.kind p false
  else if kind ≠ 0 ∧ kind ≠ 1 ∧ kind ≠ 4 ∧ kind ≠ 5 then typeErr h
  else
    let h := if (tfind h.tun.segIn k).isSome then typeErr (setSeg h k none) else h
    match usbUnitLen kind p.payload with
    | none => typeErr h
    | some n =>
      let s : Option Seg := if p.payload.length < n then some ⟨kind, 0, p.payload, p.hdr.tag.toNat, 20, 0⟩ else none
      usbPass (setSeg h k s) ing e kind p false

/-! ### Ethernet (R231, R243-R245) -/

/-- The address in six bytes, the first one most significant. -/
def macAt (bs : List Byte) (i : Nat) : Nat := beNat (toNats ((bs.drop i).take 6))

/-- VLAN ID of a frame; 0 when untagged. -/
def frameVlan (bs : List Byte) : Nat :=
  if beNat (toNats ((bs.drop 12).take 2)) = 0x8100 then beNat (toNats ((bs.drop 14).take 2)) % 4096 else 0

/-- FLOW of a frame (R231). -/
def frameFlow (bs : List Byte) : Nat := crc16Of 112 (beNat (toNats (bs.take 14)))

/-- The MAC of classifier entry k of a dock. -/
def ethcMac (h : Hub) (d k : Nat) : Nat := (rd h (aTunEthcMacLo d k)).toNat + fld h (aTunEthcMacHi d k) 0 16 * 2 ^ 32

/-- Is an entry enabled for port n and a VLAN? -/
def ethcFor (h : Hub) (d k n vlan : Nat) : Bool :=
  let c := (rd h (aTunEthcCtl d k)).toNat
  bitOf c 31 && bitOf c n && (!bitOf c 8 || decide (fld h (aTunEthcMacHi d k) 16 12 = vlan))

/-- The docks of a frame from En, by the first rule of R243 that applies. -/
def classify (h : Hub) (n : Nat) (frame : List Byte) : List Nat :=
  let mac := macAt frame 0
  let vlan := frameVlan frame
  let any := fun (d : Nat) (f : Nat → Bool) => (List.range 4).any (fun k => ethcFor h d k n vlan && f k)
  let cast := fun bit => (List.range 64).filter (fun d => any d (fun k => flag h (aTunEthcCtl d k) bit))
  if mac = 2 ^ 48 - 1 then cast 9
  else if bitOf mac 40 then cast 10
  else
    match (List.range 64).find? (fun d => any d (fun k => decide (ethcMac h d k = mac))) with
    | some d => [d]
    | none => if flag h (aTunEthPort n) 8 then [fld h (aTunEthPort n) 0 6] else []

/-- The handle of a station of a dock. -/
def station (h : Hub) (d mac vlan : Nat) : Option Nat :=
  (h.tun.devs.find? (fun e => decide (e.2.kind = 3) && decide (e.2.dock = d) && decide (e.2.detail = mac % 2 ^ 32) &&
    decide (e.2.detail2 = vlan * 2 ^ 16 + mac / 2 ^ 32))).map (·.1)

/-- A dock learns a station on En (R244). -/
def learn (h : Hub) (d n mac vlan : Nat) : Hub :=
  match station h d mac vlan with
  | some k =>
    match tfind h.tun.devs k with
    | some v =>
      let v := { v with sp := 16 + n, port := n, seen := tickNo h % 2 ^ 32, edge := h.tim.edges }
      { h with tun := { h.tun with devs := tput h.tun.devs k v } }
    | none => h
  | none => (attachNew h ⟨3, d, 16 + n, n, mac % 2 ^ 32, vlan * 2 ^ 16 + mac / 2 ^ 32, 0, 0⟩).1

/-- A frame for one dock (R243, R244, R386). -/
def frameTo (h : Hub) (n : Nat) (frame : List Byte) (d : Nat) : Hub :=
  match portEndOf h (16 + n) d with
  | none => h
  | some e =>
    if gatesClosed h d then count h (aVdkCntFrozenDrop d) 1
    else
      let h := if flag h (aTunEthPort n) 9 then learn h d n (macAt frame 6) (frameVlan frame) else h
      match routeEnd h e.sp e.tid with
      | some dst => sendUnit h (16 + n) dst 0 0 (frameFlow frame) 0 d 0 frame
      | none => noRoute h (16 + n) d

/-- ETHERNET_FRAME: a frame from En (R231, R243, R281). -/
def ethernetFrame (n : Nat) (frame : List Byte) (fcsOk : Bool) (h : Hub) : Hub :=
  if h.part.res.eth ≤ n ∨ !bitOf h.tun.ethUp.toNat n ∨ retired h 7 n then h
  else
  let i : PInfo := ⟨16 + n, 64, 0, none⟩
  let h := tally (tally h (0xD0 + n) 0x0D01 1 (some i)) (0xD0 + n) 0x0D02 frame.length (some i)
  if !fcsOk ∨ 9216 < frame.length ∨ frame.length < 14 then (if fcsOk then h else tally h (0xD0 + n) 0x0D03 1 none)
  else if ingressFull h (16 + n) then count h (aSwcCntIndrop (16 + n)) 1
  else
    let docks := (classify h n frame).filter (fun d => (portEndOf h (16 + n) d).isSome)
    let h := if docks = [] then count h aTunCntEthNoclass 1 else h
    let h := if 8 < docks.length then count h aTunCntEthReplDrop 1 else h
    (docks.take 8).foldl (fun h d => frameTo h n frame d) h

def execEthernetFrame (eth : Fin 4) (frame : List Byte) (fcsOk : Bool) (s : State) : Ans := s.act (ethernetFrame eth.val frame fcsOk)

/-- STATION_AGE: a station not seen for ETH_AGE times 8,000 edges is freed (R244). -/
def stationAge (k : Nat) (h : Hub) : Hub :=
  match tfind h.tun.devs k with
  | some v =>
    let age := fld h aTunCfg 24 8
    if v.kind = 3 ∧ age ≠ 0 ∧ age * 8000 ≤ edgesSince h v.edge then detach h k else h
  | none => h

def execStationAge (k : Fin 1024) (s : State) : Ans := s.act (stationAge k.val)

/-- Where a host's frame goes out: the port of a station that its dock learned, else the uplink (R245). -/
def frameEgress (h : Hub) (e : EndInfo) (bs : List Byte) : Option EndInfo :=
  let mac := macAt bs 0
  let st := if bitOf mac 40 then none else (station h e.dock mac (frameVlan bs)).bind (fun k => tfind h.tun.devs k)
  match st.bind (fun v => portEndOf h v.sp e.dock) with
  | some x => some x
  | none => routeEnd h e.sp e.tid

/-- Does the source check drop a host's frame (R245)? -/
def srcBad (h : Hub) (d : Nat) (bs : List Byte) : Bool :=
  flag h aTunCfg 16 && !(List.range 4).any (fun k => flag h (aTunEthcCtl d k) 31 && decide (ethcMac h d k = macAt bs 6))

/-- An Ethernet packet of a host: the egress follows the first packet of the frame; a packet short of 512 bytes ends it. Of a frame
longer than 9,216 bytes what comes past that length is dropped here, and the rest at its egress (R231). -/
def ethIn (h : Hub) (ing : Nat) (e : EndInfo) (p : TunPacket) : Hub :=
  let k := segKey e.sp p.hdr
  let open_ := decide (p.payload.length = 512)
  if (routeOf h e.sp e.tid).isNone then noRoute h ing e.dock
  else if p.hdr.kind = 0xF then
    match tfind h.tun.segIn k with
    | none => typeErr h
    | some s =>
      let n := s.tag + p.payload.length
      let long := decide (9216 < s.tag)
      let h := setSeg h k (if open_ then some { s with tag := n } else none)
      if s.egr = 31 ∨ long then h
      else match endAt h s.egr s.etid with
        | some dst => passTo h ing e.dock 0 p.hdr p.payload dst.sp dst.tid dst.dock dst.cls
        | none => noRoute h ing e.dock
  else if p.hdr.kind ≠ 0 then typeErr h
  else
    let opens := fun (h : Hub) (egr tid : Nat) => setSeg h k (if open_ then some ⟨0, 0, [], 512, egr, tid⟩ else none)
    if srcBad h e.dock p.payload then count (opens h 31 0) aTunCntEthSrcDrop 1
    else match frameEgress h e p.payload with
      | some dst => passTo (opens h dst.sp dst.tid) ing e.dock 0 p.hdr p.payload dst.sp dst.tid dst.dock dst.cls
      | none => noRoute (opens h 31 0) ing e.dock

/-! ### Peer, time and PCIe packets of a trunk -/

/-- A peer packet of a host goes to a trunk or to a fan-out group (R219, R233). -/
def peerIn (h : Hub) (ing : Nat) (e : EndInfo) (p : TunPacket) : Hub :=
  match routeOf h e.sp e.tid with
  | some (23, g) => passTo h ing e.dock 0 p.hdr p.payload 23 g 64 0
  | some (esp, etid) => match resolveEnd h esp etid with
    | some dst => passTo h ing e.dock 0 p.hdr p.payload dst.sp dst.tid dst.dock dst.cls
    | none => noRoute h ing e.dock
  | none => noRoute h ing e.dock

/-- A time packet of a host goes by its implicit route to the trunk's time adapter (R215, R219). -/
def timeIn (h : Hub) (ing : Nat) (e : EndInfo) (p : TunPacket) : Hub :=
  if 4 ≤ p.hdr.kind.toNat then typeErr h
  else passTo h ing e.dock p.hdr.kind.toNat p.hdr p.payload 22 (0x200 + ing) 64 0

/-- The time adapter takes a packet off SP22: a query is answered; messages that only the hub sends have no effect (R22, R232). -/
def timeAdapter (h : Hub) (p : Pkt) : Hub × Bool :=
  match resolveEnd h p.ing p.itid with
  | none => (noRoute h 22 64, false)
  | some e =>
    if gatesClosed h e.dock then (count h (aVdkCntFrozenDrop e.dock) 1, false)
    else if p.hdr.kind = 0 then (timeReply h e (beNat (toNats (p.payload.take 8))), true)
    else (h, true)

/-- A PCIe packet of a host, decoded by the virtual switch (R218, R227, R229). -/
def pcieIn (h : Hub) (ing : Nat) (e : EndInfo) (p : TunPacket) : Hub :=
  if routeOf h e.sp e.tid ≠ some (31, 0) then noRoute h ing e.dock
  else match bytesTlp p.payload with
    | none => typeErr h
    | some t =>
      if tlpClass t ≠ p.hdr.kind.toNat then typeErr h
      else match p.hdr.kind.toNat with
        | 0 => hostPosted h ing e t
        | 1 => hostNp h ing e p.hdr t false
        | _ => hostCpl h ing e p.hdr.tag.toNat t

/-- A control packet of a host goes by the built-in route to the hub's control endpoint for the trunk (R22, R215). A FENCE_ACK counts
from its arrival on the trunk (R300, R301). -/
def controlIn (h : Hub) (n : Nat) (p : TunPacket) : Hub :=
  if p.hdr.type ≠ 0 then typeErr h
  else if p.hdr.keyEn then count h (aTrkCntDrop n) 1
  else
    let h := if p.hdr.kind = 4 then fenceAck n (beNat (toNats (p.payload.take 8))) h else h
    passTo h n 64 p.hdr.kind.toNat p.hdr p.payload 22 (0x100 + n) 64 0

/-- The control endpoint of a trunk takes a packet off SP22: HELLO and FENCE_ACK; every other is dropped (R234, R235). -/
def controlEndpoint (h : Hub) (n : Nat) (p : Pkt) : Hub × Bool :=
  if p.hdr.kind = 0 then (hello n (beNat (toNats (p.payload.take 8))) h, true)
  else if p.hdr.kind = 4 then (h, true)
  else (typeErr h, false)

/-- A packet from a trunk (R179-R181, R218, R220, R386): the checks of R181 take its header as sent; from there on MARK is 0. -/
def trunkIn (h : Hub) (n : Nat) (p : TunPacket) : Hub :=
  if p.hdr.tid = 0 then controlIn h n p
  else match resolveEnd h n p.hdr.tid.toNat with
    | none => noRoute h n 64
    | some e =>
      match openIn h n e p with
        | (h, none) => h
        | (h, some p) =>
          let p := { p with hdr := { p.hdr with mark := false } }
          if p.hdr.type.toNat ≠ e.type then typeErr h
          else if gatesClosed h e.dock ∧ !(e.type = 1 ∧ p.hdr.kind = 2) then count h (aVdkCntFrozenDrop e.dock) 1
          else match e.type with
            | 1 => pcieIn h n e p
            | 2 => usbIn h n e p
            | 3 => ethIn h n e p
            | 4 => timeIn h n e p
            | _ => peerIn h n e p

/-- A copy of a peer packet for each member of a fan-out group (R233). -/
def fanOut (h : Hub) (g : Nat) (x : Hdr) (payload : List Byte) (src : Nat) : Hub :=
  (List.range 8).foldl (fun h m =>
    let w := (rd h (aTunFan g m)).toNat
    let sp := bitsOf w 24 5
    if !bitOf w 31 then h
    else match resolveEnd h sp (bitsOf w 0 12) with
      | none => h
      | some e =>
        if gatesClosed h e.dock then count h (aVdkCntFrozenDrop e.dock) 1
        else if e.type ≠ 5 ∨ !(controlUp h sp || isGroup h e.dock) then h
        else
          let first := x.mark && !(List.range m).any (fun k => flag h (aTunFan g k) 31)
          passTo h 23 src 0 { x with mark := first } payload e.sp e.tid e.dock e.cls) h

/-- A packet that a port other than a trunk builds (R218). -/
def portIn (h : Hub) (sp : Nat) (p : TunPacket) : Hub :=
  let tid := p.hdr.tid.toNat
  if sp = 23 then (if 64 ≤ tid then noRoute h sp 64 else fanOut h tid p.hdr p.payload 64)
  else if 21 ≤ sp then
    if tid < 64 then
      match bytesTlp p.payload with
      | some t => if (trunkEnd h tid 1).isSome then pcieUpward h sp tid (tlpClass t) t p.hdr.tag.toNat 0 0 0
        else noRoute h sp 64
      | none => typeErr h
    else if sp = 22 ∧ 0x100 ≤ tid ∧ tid < 0x108 then passTo h 22 64 p.hdr.kind.toNat p.hdr p.payload (tid - 0x100) 0 64 0
    else if sp = 22 ∧ 0x200 ≤ tid ∧ tid < 0x208 then
      ((endsIn h.regs).filter (fun e => decide (e.sp = tid - 0x200) && decide (e.type = 4))).foldl (fun h e =>
        passTo h 22 64 p.hdr.kind.toNat p.hdr p.payload e.sp e.tid e.dock e.cls) h
    else noRoute h sp 64
  else match endAt h sp tid with
    | none => noRoute h sp 64
    | some e =>
      if p.hdr.type.toNat ≠ e.type then typeErr h
      else if sp < 16 then
        match bytesTlp p.payload with
        | some t => deviceTlp (sp - 8) t h
        | none => typeErr h
      else if gatesClosed h e.dock then count h (aVdkCntFrozenDrop e.dock) 1
      else match routeEnd h sp tid with
        | some dst => passTo h sp e.dock p.hdr.kind.toNat p.hdr p.payload dst.sp dst.tid dst.dock dst.cls
        | none => noRoute h sp 64

/-- Does the trunk layer drop a packet: a reserved TYPE, a VC that is not its type's (R155, R156)? -/
def trunkDrops (p : TunPacket) : Bool :=
  decide (6 ≤ p.hdr.type.toNat) || !vcOk p.hdr.type.toNat p.hdr.kind.toNat p.hdr.vc.toNat

/-- TUNNEL_PACKET: a packet enters a switch port (R218). One that has come off the port's link is taken from there; otherwise a
link that is not up brings none, and the trunk layer judges it first (R155, R156). -/
def tunnelPacket (sp : Nat) (p : TunPacket) (h : Hub) : Hub :=
  let off := h.arrived.contains (sp, p)
  if sp < 8 ∧ !off ∧ !controlUp h sp then h
  else
    let h := { h with arrived := dropFirst (fun e => decide (e = (sp, p))) h.arrived }
    if sp < 8 ∧ trunkDrops p then count h (aTrkCntDrop sp) 1
    else
      let e := resolveEnd h sp p.hdr.tid.toNat
      let i : PInfo := ⟨sp, (e.map (·.dock)).getD 64, (e.map (·.cls)).getD 0, memAddr p.hdr.type.toNat p.payload⟩
      let h := tally h 0x20 0x0200 1 (some i)
      if sp < 8 then trunkIn h sp p else portIn h sp { p with hdr := { p.hdr with mark := false } }

def execTunnelPacket (sp : Fin 24) (p : TunPacket) (s : State) : Ans := s.act (tunnelPacket sp.val p)

/-! ### Requests that wait (R240, R265) -/

/-- The dock of a waiting request. -/
def waitDock (h : Hub) (e : Nat × TunPacket) : Nat := ((resolveEnd h e.1 e.2.hdr.tid.toNat).map (·.dock)).getD 64

/-- May a waiting request go: those of the ports of a frozen dock stay (R386). -/
def waitReady (h : Hub) (e : Nat × TunPacket) : Bool := decide (e.1 < 8) || !gatesClosed h (waitDock h e)

/-- A waiting request tries again. -/
def retryWait (h : Hub) (x : Nat × TunPacket) : Hub :=
  match resolveEnd h x.1 x.2.hdr.tid.toNat with
  | none => noRoute h x.1 64
  | some e =>
    if x.1 < 8 ∧ gatesClosed h e.dock then count h (aVdkCntFrozenDrop e.dock) 1
    else if x.2.hdr.type = 2 then usbPass h x.1 e (if x.2.hdr.kind = 0xF then 4 else x.2.hdr.kind.toNat) x.2 true
    else match bytesTlp x.2.payload with
      | none => h
      | some t => if x.1 < 8 then hostNp h x.1 e x.2.hdr t true else devNp h (x.1 - 8) e t true

/-- TAG_WAIT_END: the first request that waits for a tag takes one (R240). -/
def tagWaitEnd (h : Hub) : Hub :=
  match h.tun.waitTag.find? (waitReady h) with
  | some x =>
    if 4096 ≤ h.tun.tags.length ∧ x.2.hdr.kind ≠ 0xF then h
    else retryWait { h with tun := { h.tun with waitTag := dropFirst (fun e => decide (e = x)) h.tun.waitTag } } x
  | none => h

def execTagWaitEnd (s : State) : Ans := s.act tagWaitEnd

/-- POOL_WAIT_END: the first request that waits for completion space takes it (R265). -/
def poolWaitEnd (h : Hub) : Hub :=
  match h.tun.waitPool.find? (waitReady h) with
  | some x => retryWait { h with tun := { h.tun with waitPool := dropFirst (fun e => decide (e = x)) h.tun.waitPool } } x
  | none => h

def execPoolWaitEnd (s : State) : Ans := s.act poolWaitEnd

end Sys2Proof.Machine
end

