-- ==== Sys2Proof/Machine/Egress.lean ====
section
/-!
DEFINITION. What takes packets at the egress of each switch port: trunks, PCIe ports with the split of R263, Ethernet ports, the
surface aperture (R333), the hub function's page (R246-R248, R262, R272) and the fan-out.
-/
namespace Sys2Proof.Machine

/-! ### PCIe (R263) -/

/-- Max_Payload_Size of a downstream port in bytes. -/
def maxPayload (h : Hub) (d n : Nat) : Nat := 128 * 2 ^ min 5 (bitsOf (cfgStored h d (2 + n) 18) 5 3)

/-- Cut data at boundaries aligned to a size: start and bytes of each piece. -/
def cutAligned (m : Nat) : Nat → Nat → List Byte → List (Nat × List Byte)
  | 0, _, _ => []
  | n + 1, a, bs =>
    if bs = [] then [] else
      let k := m - a % m
      (a, bs.take k) :: cutAligned m n (a + k) (bs.drop k)

/-- The pieces of a posted write or completion that exceeds a size (R263); their enables and counts follow the bytes. -/
def splitTlp (m : Nat) (t : Tlp) : List Tlp :=
  if t.data.length ≤ m ∨ (t.kind ≠ .memWr ∧ !isCpl t) then [t]
  else
    let ps := cutAligned m (t.data.length + 1) t.addr.toNat t.data
    (ps.foldl (fun (x : List Tlp × Nat) p =>
      let first := decide (x.2 = 0)
      let last := decide (x.2 + p.2.length = t.data.length)
      let fb := if first then t.firstBe else if last && decide (p.2.length ≤ 4) then t.lastBe else 15
      let lb := if decide (p.2.length ≤ 4) && t.kind = .memWr then 0 else if last then t.lastBe else 15
      let a := if isCpl t then p.1 % 128 else p.1
      (x.1 ++ [{ t with addr := BitVec.ofNat 64 a, len := p.2.length, data := p.2, byteCount := t.byteCount - x.2,
                        firstBe := fb, lastBe := lb }], x.2 + p.2.length)) ([], 0)).1

/-- A packet leaves for the device on Pn. -/
def toPcie (h : Hub) (n : Nat) (p : Pkt) : Hub :=
  let h := releaseCells h p
  match bytesTlp p.payload with
  | none => h
  | some t =>
    let l := splitTlp (maxPayload h p.dock n) t
    let h := if 1 < l.length then count h aTunCntSplit 1 else h
    l.foldl (fun h t => tally (send h (.tlp n t)) (0xC0 + n) 0x0C00 1 (some (pktInfo p))) h

/-! ### Ethernet (R228, R231) -/

/-- A frame as En sends it: padded to 60 bytes, with its FCS, least significant byte first (R231). -/
def wireFrame (bs : List Byte) : List Byte :=
  let f := bs ++ List.replicate (60 - bs.length) 0
  f ++ leBytes 4 (crc32 (toNats f))

/-- Send a whole frame on En; one longer than 9,216 bytes is dropped (R231). -/
def frameOut (h : Hub) (n : Nat) (p : Pkt) (bs : List Byte) : Hub :=
  if 9216 < bs.length then h else tally (send h (.frame n (wireFrame bs))) (0xD0 + n) 0x0D00 1 (some (pktInfo p))

/-- A new unit comes while one is open. A frame has no length of its own, and its last packet may hold 512 bytes: whether the open unit
was whole, and goes out, or is in error, discarded and counted, is free (R228; notes/assumptions/146.md). -/
def frameEnds (h : Hub) (n : Nat) (p : Pkt) (bs : List Byte) : Hub :=
  let whole := bitOf (drawFree h).2.toNat 0
  let h := (drawFree h).1
  if 9216 < bs.length then h else if whole then frameOut h n p bs else typeErr h

/-- A packet leaves for the MAC of En. -/
def toEthernet (h : Hub) (n : Nat) (p : Pkt) : Hub :=
  let key := endKey (16 + n) p.hdr.tid.toNat * 8 + 5
  let keep := fun (h : Hub) (x : Option Seg) => { h with tun := { h.tun with segOut := match x with
    | some s => tput h.tun.segOut key s
    | none => tdel h.tun.segOut key } }
  let full := decide (p.payload.length = 512)
  match tfind h.tun.segOut key with
  | some s =>
    if p.hdr.kind = 0xF then
      let data := s.data ++ p.payload
      if full then keep h (some { s with data := data }) else frameOut (keep h none) n p data
    else
      let h := frameEnds (keep h none) n p s.data
      if full then keep h (some ⟨0, 0, p.payload, 0, 16 + n, 0⟩) else frameOut h n p p.payload
  | none =>
    if p.hdr.kind = 0xF then typeErr h
    else if full then keep h (some ⟨0, 0, p.payload, 0, 16 + n, 0⟩)
    else frameOut h n p p.payload

/-! ### Trunks (R159, R169, R460) -/

/-- A packet leaves for a trunk: a link in IDLE starts its burst, MARK goes as 0 and RED as the descriptor has it. -/
def toTrunk (h : Hub) (n : Nat) (p : Pkt) : Hub :=
  let h := leaveIdle (releaseCells h p) n
  let q : TunPacket := ⟨{ p.hdr with mark := false, red := p.red, rsv := 0 }, p.payload, []⟩
  let h := tally h (0x10 + n) 0x0102 1 (some (pktInfo p))
  let h := tally h (0x10 + n) 0x0104 p.payload.length (some (pktInfo p))
  modTrk h n (fun t => { t with txq := t.txq ++ [q] })

/-! ### Answers of the hub to a host's reads -/

/-- A read that holds a tag of the tag pool is answered: the tag ends, its space leaves with the last completion (R239, R264). -/
def answerTag (h : Hub) (n : Nat) (f : Hub → Nat → Hub) : Hub :=
  match tfind h.tun.tags n with
  | none => h
  | some g =>
    if g.discard.isSome then count h aTunCntCplDiscard 1
    else
      let i : PInfo := ⟨g.retSp, g.dock, 0, memAddr 1 (tlpBytes g.tlp)⟩
      f (tally (freeTag h n true) 0x20 0x0202 1 (some i)) g.cells

/-- Is a tag the hub's own, of a prefetch read (R260)? -/
def ownRead (h : Hub) (n : Nat) : Option Nat := (tfind h.tun.tags n).bind (·.prefetch)

/-- Answer a read without data; a prefetch read that fails is dropped (R261). -/
def answerBad (h : Hub) (ing d n : Nat) (t : Tlp) (status : Nat) : Hub :=
  if (ownRead h n).isSome then freeTag h n false
  else answerTag h n (fun h cells => pcieUpward h ing d 2 (tlpCpl t status []) 0 0 0 cells)

/-- Answer a read with data; the data of a prefetch read of BAR2 fills an entry (R261). -/
def answerData (h : Hub) (ing d n : Nat) (t : Tlp) (data : List Byte) : Hub :=
  match ownRead h n with
  | some a => fillPf (freeTag h n false) (pfAper d) true a data
  | none => answerTag h n (fun h cells => cplRead h ing d t t.addr.toNat data cells)

/-! ### The surface aperture (R332-R334) -/

/-- The cellar address of a range of BAR2 that lies in one window of a dock. -/
def apertureAt (h : Hub) (d off len : Nat) : Option Nat :=
  ((List.range 16).find? (fun w =>
    let o := fld h (aDspApOffset d w) 0 20 * 65536
    let s := fld h (aDspApSize d w) 0 21 * 65536
    decide (s ≠ 0) && decide (o ≤ off) && decide (off + len ≤ o + s))).map (fun w =>
      fld h (aDspApBase d w) 0 20 * 65536 + (off - fld h (aDspApOffset d w) 0 20 * 65536))

/-- Bytes of a write with its byte enables: position and value. -/
def enabledBytes (t : Tlp) : List (Nat × Byte) :=
  let n := t.data.length
  ((List.range n).zip t.data).filter (fun e =>
    let dw := e.1 / 4
    let be := if dw = 0 then t.firstBe else if dw = (n - 1) / 4 then t.lastBe else 15
    bitOf be.toNat (e.1 % 4))

/-- A packet reaches the surface aperture (R333): the flag says whether a write was accepted. -/
def toAperture (m : Mem) (h : Hub) (p : Pkt) : Mem × Hub × Bool :=
  match bytesTlp p.payload with
  | none => (m, h, false)
  | some t =>
    let d := p.hdr.tid.toNat
    let off := t.addr.toNat - bar2 h d
    match apertureAt h d off (max 1 t.len) with
    | none =>
      if t.kind = .memWr then (m, postedFail h d 0x06 1 false true 0 t, false)
      else (m, answerBad h 21 d p.hdr.tag.toNat t 1, true)
    | some a =>
      if t.kind = .memWr then
        let m := (enabledBytes t).foldl (fun m e => writeCellar m h (a + e.1) [e.2]) m
        let h := if (enabledBytes t).length = t.data.length then unpoison h a t.data.length else h
        (m, moved h 3 true (linesOf a (max 1 t.len)).length, true)
      else
        let h := moved (countPoison h a t.len) 3 false (linesOf a (max 1 t.len)).length
        if rangeBad h a (max 1 t.len) then (m, answerBad h 21 d p.hdr.tag.toNat t 4, true)
        else (m, answerData h 21 d p.hdr.tag.toNat t (cellarBytes m a t.len), true)

/-! ### The hub function's page (R246-R251, R262, R272) -/

/-- Addresses of a host's latches of the control page: word offsets above the register map. -/
def pageLatch (off : Nat) : Nat := 0xFE0000 + off

/-- A word of a latched group as a dock's host reads it: the latched value, or the live one where the latch is clear (R20). -/
def latched (h : Hub) (d off live : Nat) : Nat :=
  match tfind h.latch ((6 + d) * 2 ^ 24 + pageLatch off) with
  | some v => v.toNat
  | none => live

/-- Load a dock's host latch of one word of its page. -/
def latchPage (h : Hub) (d off v : Nat) : Hub := { h with latch := tput h.latch ((6 + d) * 2 ^ 24 + pageLatch off) (W v) }

/-- A read of HF_SLICE_VINTAGE_LO latches the rest of the slice (R247). -/
def latchSlice (h : Hub) (d : Nat) : Hub :=
  let v := (tget 0 h.txs.sliceVintage d).toNat
  let g := (tget 0 h.txs.sliceDigest d).toNat
  (List.range 4).foldl (fun h k => latchPage h d (0x210 + 4 * k) (g / 2 ^ (32 * k))) (latchPage h d 0x204 (v / 2 ^ 32))

/-- A word of a dock's posted-error log as its host reads it (R272): a read of the low word of ADDRESS latches the high one (R20). -/
def pelRead (h : Hub) (d off : Nat) : Hub × Nat :=
  let word := fun k => (rd h (aTunPel d ((off - 0x1400) / 16) k)).toNat
  match off % 16 / 4 with
  | 0 => (latchPage h d (off + 4) (word 1), word 0)
  | 1 => (h, latched h d off (word 1))
  | k => (h, word k)

/-- A word of BAR0 of dock d as its host reads it. -/
def pageRead (h : Hub) (d off : Nat) : Hub × Nat :=
  let e := evrAt h d
  if off = 0x0 then (h, 0x00010000)
  else if off = 0x10 then (latchPage h d 0x14 (bitsOf e.base 32 32), bitsOf e.base 0 32)
  else if off = 0x14 then (h, latched h d 0x14 (bitsOf e.base 32 32))
  else if off = 0x18 then (h, e.ctl)
  else if off = 0x1C then (h, e.head)
  else if off = 0x20 then (h, e.tail + (if e.phase then 2 ^ 31 else 0))
  else if off = 0x24 then (h, e.lost)
  else if off = 0x200 then (latchSlice h d, (tget 0 h.txs.sliceVintage d).toNat % 2 ^ 32)
  else if off = 0x204 then (h, latched h d off ((tget 0 h.txs.sliceVintage d).toNat / 2 ^ 32))
  else if off = 0x210 ∨ off = 0x214 ∨ off = 0x218 ∨ off = 0x21C then
    (h, latched h d off ((tget 0 h.txs.sliceDigest d).toNat / 2 ^ (32 * ((off - 0x210) / 4)) % 2 ^ 32))
  else if off = 0x1000 then (h, (rd h (aTunPelCount d)).toNat)
  else if off = 0x1004 then (h, (rd h (aTunPelOverflow d)).toNat)
  else if 0x1400 ≤ off ∧ off < 0x1800 then pelRead h d off
  else (h, 0)

/-- A host's write of a word of BAR0; none where the word is read-only or unassigned (R262, R270 code 0x04). -/
def pageWrite (h : Hub) (d off v : Nat) : Option Hub :=
  if off = 0x10 then some (evrBase d false v h)
  else if off = 0x14 then some (evrBase d true v h)
  else if off = 0x18 then some (evrCtl d v h)
  else if off = 0x1C then some (evrHead d v h)
  else if 0x100 ≤ off ∧ off < 0x120 then some (doorbell d ((off - 0x100) / 4) v h)
  else none

/-- A word of BAR4: the vector table, and the pending bits (R246). -/
def tableRead (h : Hub) (d off : Nat) : Nat :=
  if off < 0x100 ∨ off = 0x800 then bar4Word h d (off / 4) else 0

def tableWrite (h : Hub) (d off v : Nat) : Option Hub :=
  if 0x100 ≤ off then none
  else
    let m := match off / 4 % 4 with
      | 0 => 0xFFFFFFFC
      | 3 => 1
      | _ => 0xFFFFFFFF
    some (msixFlush (setBar4 h d (off / 4) (v &&& m)) d)

/-- One word of a host's write to BAR0 or BAR4: partial enables and words that take none fail with code 0x04 (R262). -/
def pageWord (h : Hub) (d off : Nat) (inTable : Bool) (be v : Nat) (t : Tlp) : Hub :=
  if be ≠ 15 then postedFail h d 0x04 1 false true 0 t
  else match (if inTable then tableWrite h d off v else pageWrite h d off v) with
    | some h => h
    | none => postedFail h d 0x04 1 false true 0 t

/-- A packet reaches the hub function: reads of one or two words, writes of as many (R262). -/
def toPage (h : Hub) (p : Pkt) : Hub × Bool :=
  match bytesTlp p.payload with
  | none => (h, false)
  | some t =>
    let d := p.hdr.tid.toNat
    let a := t.addr.toNat
    let inTable := inWindow (bar4 h d, bar4 h d + 0xFFF) a 1 && !inWindow (bar0 h d, bar0 h d + 0x1FFF) a 1
    let off := (a - (if inTable then bar4 h d else bar0 h d)) / 4 * 4
    let read := fun (h : Hub) (o : Nat) => if inTable then (h, tableRead h d o) else pageRead h d o
    if t.kind = .memWr then
      if 8 < t.data.length then (postedFail h d 0x04 1 false true 0 t, false)
      else
        let w := fun (i : Nat) => leNat ((t.data.drop (4 * i)).take 4)
        let h := pageWord h d off inTable t.firstBe.toNat (w 0) t
        (if 4 < t.data.length then pageWord h d (off + 4) inTable t.lastBe.toNat (w 1) t else h, true)
    else if 8 < t.len then (answerBad h 22 d p.hdr.tag.toNat t 4, true)
    else
      let r0 := read h off
      let r1 := if 4 < t.len then read r0.1 (off + 4) else (r0.1, 0)
      (answerData r1.1 22 d p.hdr.tag.toNat t (leBytes 4 r0.2 ++ (if 4 < t.len then leBytes 4 r1.2 else [])), true)

/-! ### All ports -/

/-- A packet that has left its queue reaches its sink; with whether its fate is final and good (R458). -/
def deliver (m : Mem) (h : Hub) (p : Pkt) : Mem × Hub × Option Bool :=
  let j := p.egr
  if j < 8 then (m, toTrunk h j p, none)
  else if j < 16 then (m, toPcie h (j - 8) p, some true)
  else if j < 20 then (m, toEthernet h (j - 16) p, some true)
  else if j = 20 then
    let before := (rd h aUsbCntNoPort).toNat
    let h := usbDown h p
    (m, h, some (decide ((rd h aUsbCntNoPort).toNat = before)))
  else if j = 21 then
    let r := toAperture m h p
    (r.1, r.2.1, some r.2.2)
  else if j = 22 then
    let tid := p.hdr.tid.toNat
    let r := if tid < 64 then toPage h p else if tid < 0x200 then controlEndpoint h (tid - 0x100) p else timeAdapter h p
    (m, r.1, some r.2)
  else
    let id := h.swc.nextPkt
    let h := fanOut h p.hdr.tid.toNat p.hdr p.payload p.src
    (m, markSet h p.id (fun _ x => { x with pkt := id }), some true)

end Sys2Proof.Machine
end

