-- ==== Sys2Proof/Machine/Traffic.lean ====
section
/-!
DEFINITION. The traffic manager (chapter 10): weights, shapers, policers and queue maps as instructions stage them, eligibility,
virtual-time fair queueing, departures and their slots (R457), and pauses.
-/
namespace Sys2Proof.Machine

/-! ### Instructions (R304, R320, R321, R541) -/

/-- BW.ALLOT: stages a weight. -/
def execBwAllot (th : Fin 4) (s : State) : Ans :=
  s.act (fun h => onInstr h th 0x28 (fun h c w =>
    let d := w.target
    let sp := w.o 0 5
    let v := w.o 16 16
    if !onlyBits w.operand 0xFFFF0F1F ∨ 64 ≤ d ∨ h.part.res.docks ≤ d ∨ 20 < sp ∨ !spPresent h.part.res sp ∨ v = 0 then
      settle h c.id .invalid 0
    else
      let a := if w.o 8 1 = 1 then aTmgCw d sp (w.o 9 3) else aTmgDw d sp
      stageS h c w [(a, W v)] ((scDock d).union (scPort sp)) 0))

/-- Do slopes and limits lie in their ranges (R541)? -/
def slopesOk (e0 e1 : Nat) : Bool :=
  !(decide (bitsOf e0 0 32 = 0) && decide (bitsOf e0 32 32 ≠ 0)) && !bitOf e1 31 && decide (signed (bitsOf e1 32 32) 32 ≤ 0)

/-- The five words of a shaper or policer (R325). -/
def fiveWords (a e0 e1 ctl : Nat) : Recs :=
  [(a, W e0), (a + 4, W (e0 / 2 ^ 32)), (a + 8, W e1), (a + 12, W (e1 / 2 ^ 32)), (a + 16, W ctl)]

/-- SHP.SET: stages the shaper of a queue or of a dock at a port. -/
def execShpSet (th : Fin 4) (s : State) : Ans :=
  s.act (fun h => onInstr h th 0x29 (fun h c w =>
    let t := w.target
    let sp := w.o 0 5
    let scope := w.o 30 1 = 1
    if !onlyBits w.operand (if scope then 0x7000001F else 0x30000000) ∨ w.o 28 2 = 3 ∨ !slopesOk (w.x 0) (w.x 1) then
      settle h c.id .invalid 0
    else if scope then
      if 64 ≤ t ∨ h.part.res.docks ≤ t ∨ 20 < sp ∨ !spPresent h.part.res sp then settle h c.id .invalid 0
      else stageS h c w (fiveWords (aTmgDsIdle t sp) (w.x 0) (w.x 1) (w.o 28 2)) ((scDock t).union (scPort sp)) 0
    else if h.part.res.queues ≤ t then settle h c.id .invalid 0
    else stageS h c w (fiveWords (aTmgQsIdle t) (w.x 0) (w.x 1) (w.o 28 2)) (queueScope h (standing h c []) t) 0))

/-- POL.SET: stages a policer (R321). -/
def execPolSet (th : Fin 4) (s : State) : Ans :=
  s.act (fun h => onInstr h th 0x2A (fun h c w =>
    let p := w.target
    let sp := w.o 0 5
    if !onlyBits w.operand 0x31F ∨ 1024 ≤ p ∨ 8 < p % 16 ∨ h.part.res.docks ≤ p / 16 ∨ 24 ≤ sp ∨ !spPresent h.part.res sp ∨
        !slopesOk (w.x 0) (w.x 1) then settle h c.id .invalid 0
    else stageS h c w (fiveWords (aTmgPlIdle p) (w.x 0) (w.x 1) w.operand) (scPort sp) 0))

/-- Q.MAP: stages the mapping of a queue; ports that no queue may have fail at validation (R308). -/
def execQMap (th : Fin 4) (s : State) : Ans :=
  s.act (fun h => onInstr h th 0x2B (fun h c w =>
    let q := w.target
    let sp := w.o 0 5
    let d := w.o 8 6
    if !onlyBits w.operand 0x80073F1F ∨ h.part.res.queues ≤ q ∨ h.part.res.docks ≤ d then settle h c.id .invalid 0
    else
      let before := projected h
      let old := if queueMapped h before q then queueScope h before q else Scope.empty
      let new_ := if sp < 24 ∧ spPresent h.part.res sp then scPort sp else Scope.empty
      stageS h c w [(aTmgQmap q, W w.operand)] (((scDock d).union new_).union old) 0))

/-! ### Heads and eligibility (R305-R313) -/

/-- a is later than b (R315). -/
def later (a b : BitVec 64) : Bool := decide (1 ≤ (a - b).toNat) && decide ((a - b).toNat < 2 ^ 63)

/-- a comes before b in admission order, modulo 2^32 (R312). -/
def admittedBefore (a b : Nat) : Bool :=
  let d := (b + 2 ^ 32 - a) % 2 ^ 32
  decide (1 ≤ d) && decide (d < 2 ^ 31)

/-- The packet a queue can send; none while it is empty or drain-waiting (R293, R294). -/
def queueHead (h : Hub) (q : Nat) : Option Pkt :=
  let x := queueAt h q
  match x.cask, x.spill with
  | p :: _, _ => some p
  | [], p :: _ => if pktCells p ≤ x.drained.length then some p else none
  | [], [] => none

/-- The earliest-admitted packet of a queue. -/
def queueFirst (h : Hub) (q : Nat) : Option Pkt := ((queueAt h q).cask ++ (queueAt h q).spill).head?

/-- Is a dock's queued traffic held: frozen (R388)? -/
def dockHeld (h : Hub) (d : Nat) : Bool := decide (d < 64) && (decide (dockState h d = 3) || decide (dockState h d = 4))

def queueDock (h : Hub) (q : Nat) : Nat := fld h (aTmgQmap q) 8 6
def queueClass (h : Hub) (q : Nat) : Nat := fld h (aTmgQmap q) 16 3

/-- Do R307 and R312 let the head of a queue go? -/
def flowOk (h : Hub) (q : Nat) (p : Pkt) : Bool :=
  let set := queueSet h h.regs (queuePort h q) (queueDock h q) (queueClass h q)
  let same := set.filter (fun e => decide (e.1 % 4 = q % 4))
  let first := fun (r : Nat) => queueFirst h r
  let ahead := fun (l : List (Nat × Bool)) => l.any (fun e => match first e.1 with
    | some o => decide (e.1 ≠ q) && admittedBefore o.order p.order
    | none => false)
  !(same.any (fun e => !e.2) && ahead same) &&
  !((q % 4 = 1 || q % 4 = 2) && ahead (set.filter (fun e => decide (e.1 % 4 = 0))))

/-- Units of packets released to a trunk and not yet in a stave. -/
def releasedUnits (h : Hub) (n : Nat) : Nat :=
  (trk h n).txq.foldl (fun a p => a + packetUnits p.payload.length true) 0

/-- The pause quanta that remain at an Ethernet switch port: 512 bit times each at the port's rate of 10, 25 or 100 Gbit/s (R26, R311). -/
def pauseLeft (h : Hub) (j : Nat) : Nat :=
  let baud := fld h (aLaneStatus (64 + j)) 0 16
  let gbps := if baud < 20000 then 10 else if baud < 40000 then 25 else 100
  fld h (aTmgPortStatus j) 0 16 - (h.tim.coreClk - tget 0 h.tmg.pauseAt (j - 16)) * gbps * 5 / 4096

/-- Is an Ethernet switch port paused (R311)? -/
def pausedNow (h : Hub) (j : Nat) : Bool := flag h (aTmgPortStatus j) 31 && decide (pauseLeft h j ≠ 0)

/-- Can the sink of a port take a packet (R311)? Flow-control credit of a PCIe link is taken as given; a trunk takes the next
packet while less than a stave body waits to be sent. -/
def sinkOk (h : Hub) (j : Nat) (p : Pkt) : Bool :=
  if j < 8 then
    (decide (trkState h j = 7) || decide (trkState h j = 9)) && mayData h j p.hdr.vc.toNat && decide (releasedUnits h j < 31)
  else if j < 16 then portUp h j
  else if j < 20 then portUp h j && !pausedNow h j
  else if j = 20 then tget [] h.usb.heldDown p.dock = []
  else true

/-- A queue with a head at a port: what of R311 holds. -/
structure Head where
  q : Nat
  d : Nat
  c : Nat
  p : Pkt
  flow : Bool
  shape : Bool
  sink : Bool
deriving DecidableEq, Repr

/-- The heads at a port, by queue number. -/
def heads (h : Hub) (j : Nat) : List Head :=
  h.swc.queues.filterMap (fun e =>
    if queuePort h e.1 ≠ j then none
    else (queueHead h e.1).map (fun p =>
      let d := queueDock h e.1
      let open_ := fun k => shaperOpen (shSet h (shAddr k)) (shaper h k)
      { q := e.1, d := d, c := queueClass h e.1, p := p, flow := !dockHeld h d && flowOk h e.1 p,
        shape := open_ (shKeyQueue e.1) && open_ (shKeyDock d j), sink := sinkOk h j p }))

def Head.ok (x : Head) : Bool := x.flow && x.shape && x.sink

/-! ### Virtual time (R313-R316) -/

def kPortV (j : Nat) : Nat := j
def kDockV (j d : Nat) : Nat := 256 + 64 * j + d
def kClassV (j d c : Nat) : Nat := 65536 + 8 * (64 * j + d) + c
def kDock (j d : Nat) : Nat := 65536 + 64 * j + d
def kClass (j d c : Nat) : Nat := 131072 + 8 * (64 * j + d) + c

/-- Port of a child. -/
def childPort (h : Hub) (k : Nat) : Nat :=
  if k < 65536 then queuePort h k else if k < 131072 then (k - 65536) / 64 else (k - 131072) / 512

/-- Key of the parent's virtual time of a child. -/
def parentOf (h : Hub) (k : Nat) : Nat :=
  if k < 65536 then kClassV (queuePort h k) (queueDock h k) (queueClass h k)
  else if k < 131072 then kPortV ((k - 65536) / 64)
  else kDockV ((k - 131072) / 512) ((k - 131072) / 8 % 64)

def vtime (h : Hub) (k : Nat) : BitVec 64 := tget 0 h.tmg.vtime k

def setVtime (h : Hub) (k : Nat) (v : BitVec 64) : Hub := { h with tmg := { h.tmg with vtime := tset 0 h.tmg.vtime k v } }

def node (h : Hub) (k : Nat) : Node := tget ⟨0, 0, false⟩ h.tmg.nodes k

def setNode (h : Hub) (k : Nat) (n : Node) : Hub := { h with tmg := { h.tmg with nodes := tset ⟨0, 0, false⟩ h.tmg.nodes k n } }

/-- The children of a port that are eligible now. -/
def eligibleKeys (j : Nat) (l : List Head) : List Nat :=
  (l.flatMap (fun x => [x.q, kClass j x.d x.c, kDock j x.d])).eraseDups

/-- Children that turn eligible wake, those that turn ineligible are noted (R313, R315). -/
def refresh (h : Hub) (j : Nat) : Hub :=
  let el := eligibleKeys j ((heads h j).filter Head.ok)
  let gone := (h.tmg.nodes.filter (fun e => e.2.eligible && decide (childPort h e.1 = j) && !el.contains e.1)).map (·.1)
  let h := gone.foldl (fun h k => setNode h k { node h k with eligible := false }) h
  el.foldl (fun h k =>
    let n := node h k
    let v := vtime h (parentOf h k)
    if n.eligible then h else setNode h k ⟨if later v n.f then v else n.f, n.f, true⟩) h

/-- The reciprocal of a weight (R314). -/
def reciprocal (w : Nat) : Nat := 2 ^ 32 / max 1 w

/-- Weight of a child. -/
def weightOf (h : Hub) (k : Nat) : Nat :=
  if k < 65536 then 1
  else if k < 131072 then fld h (aTmgDw ((k - 65536) % 64) ((k - 65536) / 64)) 0 16
  else fld h (aTmgCw ((k - 131072) / 8 % 64) ((k - 131072) / 512) (k % 8)) 0 16

/-- The child with the earliest start tag; ties go to the first, lowest-numbered one (R315). -/
def earliest (h : Hub) : List Nat → Option Nat
  | [] => none
  | k :: ks =>
    some (ks.foldl (fun b x => if later (node h b).s (node h x).s then x else b) k)

/-- Charge a child that is selected (R315). -/
def charge (h : Hub) (k len : Nat) : Hub :=
  let n := node h k
  let f := n.s + BitVec.ofNat 64 (len * reciprocal (weightOf h k))
  setNode (setVtime h (parentOf h k) n.s) k { n with s := f, f := f }

/-- The head that a port's tree selects (R315). -/
def selectHead (h : Hub) (j : Nat) (l : List Head) : Option Head :=
  let docks := (List.range 64).filter (fun d => l.any (fun x => decide (x.d = d)))
  match earliest h (docks.map (kDock j)) with
  | none => none
  | some kd =>
    let d := (kd - 65536) % 64
    let classes := (List.range 8).filter (fun c => l.any (fun x => decide (x.d = d) && decide (x.c = c)))
    match earliest h (classes.map (kClass j d)) with
    | none => none
    | some kc =>
      let here := l.filter (fun x => decide (x.d = d) && decide (x.c = kc % 8))
      match earliest h (here.map (·.q)) with
      | none => none
      | some q => here.find? (fun x => decide (x.q = q))

/-! ### Departures -/

/-- Cells of the oldest barrels leave the drain reserve (R294). -/
def takeReserve : List Nat → Nat → List Nat
  | [], _ => []
  | r :: rs, n => if n < r then (r - n) :: rs else takeReserve rs (n - r)

/-- The head leaves its queue. -/
def removeHead (h : Hub) (q : Nat) : Hub :=
  let x := queueAt h q
  match x.cask, x.spill with
  | _ :: ps, _ => unspill (setQueue h q { x with cask := ps }) q
  | [], p :: ps =>
    let n := pktCells p
    unspill (setQueue h q { x with spill := ps, drained := x.drained.drop n, reserve := takeReserve x.reserve n }) q
  | [], [] => h

/-- The casks of the cells of a queue's head: its own, or those of the drained barrels (R293). -/
def headCasks (h : Hub) (q : Nat) (p : Pkt) : List Nat :=
  let x := queueAt h q
  if x.cask = [] then (x.drained.take (pktCells p)).map (·.2) else p.casks

/-- A packet starts to leave its attachment: its cells, its counters, its sink (R453, R458, R461). -/
def depart (m : Mem) (h : Hub) (p : Pkt) : Mem × Hub :=
  let j := p.egr
  let n := pktCells p
  let h := readCells h 1 p.casks
  let h := { h with tel := { h.tel with
    busy := tset 0 h.tel.busy j n, fates := h.tel.fates ++ [⟨j, p.id, p.hdr.vc.toNat, n, 0, none, none⟩] } }
  let h := markSet h p.id (fun h x => { x with firstOut := some (sinceMark h x), lastOut := some (sinceMark h x + 4 * (n - 1)) })
  let i := some (pktInfo p)
  let h := tally (tally h 0x40 0x0400 1 i) 0x40 0x0401 (pktBytes p) i
  let h := if p.red then tally (if j ≤ 20 then count h (aTmgCntRed j) 1 else h) 0x40 0x0402 1 i else h
  let r := deliver m h p
  let h := match r.2.2 with
    | some good => fatesFinal r.2.1 (fun f => decide (f.port = j) && decide (f.id = p.id)) good
    | none => r.2.1
  (r.1, h)

/-- A packet with a cell in a retired cask is discarded when it reaches the head (R288). -/
def isLost (h : Hub) (p : Pkt) : Bool := tget false h.swc.lost p.id

/-- Discard the lost heads of a port's lists. -/
def dropLost (h : Hub) (j : Nat) : Hub :=
  let hs := (heads h j).filter (fun x => isLost h x.p)
  let h1 := hs.foldl (fun h x => removeHead h x.q) h
  let sys := ((tget [] h.swc.sysq j).head?.toList).filter (isLost h)
  let h2 := { h1 with swc := { h1.swc with sysq := tset [] h1.swc.sysq j (if sys = [] then tget [] h1.swc.sysq j else (tget [] h1.swc.sysq j).drop 1) } }
  let dir := (List.range 4).filterMap (fun k => match tget [] h.swc.direct (j * 4 + k) with
    | p :: _ => if isLost h p then some (k, p) else none
    | [] => none)
  let h3 := dir.foldl (fun h e => { h with swc := { h.swc with direct := tmod [] h.swc.direct (j * 4 + e.1) (fun l => l.drop 1) } }) h2
  let gone := hs.map (·.p) ++ sys ++ dir.map (·.2)
  if gone = [] then h
  else
    let h4 := { h3 with swc := { h3.swc with lost := gone.foldl (fun t p => tset false t p.id false) h3.swc.lost } }
    failLost (marksClose (count (gone.foldl releaseCells h4) (aSwcCntLost j) gone.length) gone 4) gone

/-- The next packet of a system queue: packets of frozen docks are passed over (R305). -/
def sysNext (h : Hub) (j : Nat) : Option Pkt := (tget [] h.swc.sysq j).find? (fun p => !dockHeld h p.dock)

/-- Is there a BAR2 write of a dock that must reach the cellar before its packets to the hub function (R334)? -/
def apertureFirst (h : Hub) (p : Pkt) : Bool :=
  decide (p.egr = 22) && decide (p.pass = 2) &&
    (h.swc.entry.flatMap (·.2) ++ voqPackets h ++ h.swc.direct.flatMap (·.2)).any (fun x =>
      decide (x.egr = 21) && decide (x.pass = 2) && decide (x.src = p.src) && decide (x.id < p.id))

/-- The packet that a direct port chooses by the selection of R283 with every packet ready (R310). -/
def directNext (h : Hub) (j : Nat) : Option Pkt :=
  let hd := fun k => (tget [] h.swc.direct (j * 4 + k)).head?
  match hd 0 with
  | some p => some p
  | none =>
    let hd2 := match hd 2 with
      | some p => if apertureFirst h p then none else some p
      | none => none
    let ok := fun (p : Pkt) => match hd 2 with
      | some o => !admittedBefore o.order p.order
      | none => true
    let l := hd2.toList ++ ([hd 1, hd 3].filterMap id).filter ok
    l.foldl (fun (b : Option Pkt) p => match b with
      | some o => if admittedBefore p.order o.order then some p else b
      | none => some p) none

/-- PACKET_SELECT: a port with no packet under way chooses its next one (R305, R310-R317). -/
def packetSelect (j : Nat) (m : Mem) (h : Hub) : Mem × Hub :=
  if tget 0 h.tel.busy j ≠ 0 ∨ !portUp h j then (m, h)
  else
    let h := dropLost h j
    if 21 ≤ j then
      match directNext h j with
      | none => (m, h)
      | some p =>
        depart m { h with swc := { h.swc with direct := tmod [] h.swc.direct (j * 4 + p.pass) (fun l => l.drop 1) } } p
    else
      let h := refresh h j
      let sys := match sysNext h j with
        | some p => if sinkOk h j p then some p else none
        | none => none
      match sys with
      | some p =>
        let h := { h with swc := { h.swc with sysq := tmod [] h.swc.sysq j (fun l => l.erase p) } }
        depart m (count h (aTmgCntSysq j) 1) p
      | none =>
        match selectHead h j ((heads h j).filter Head.ok) with
        | none => (m, h)
        | some x =>
          let len := pktLength h j x.p
          let h := charge (charge (charge h (kDock j x.d) len) (kClass j x.d x.c) len) x.q len
          let start := fun (h : Hub) k => setShaper h k (shaperStart (shSet h (shAddr k)) (shaper h k) len)
          let h := start (start h (shKeyQueue x.q)) (shKeyDock x.d j)
          let r := depart m (removeHead h x.q) { x.p with casks := headCasks h x.q x.p }
          (r.1, refresh r.2 j)

def execPacketSelect (sp : Fin 24) (s : State) : Ans := s.actMem (packetSelect sp.val)

/-- PACKET_ENTRY: a packet's last cell is written at an ingress port (R279); blocks of USB packets are freed (R363). -/
def execPacketEntry (sp : Fin 24) (s : State) : Ans :=
  s.act (fun h =>
    let h := packetEntry sp.val h
    if sp.val = 20 then usbEntered h else h)

/-- BARREL_READ (R294, R296). -/
def execBarrelRead (sp : Fin 24) (uncorr : Bool) (s : State) : Ans :=
  s.act (fun h =>
    let r := barrelRead sp.val uncorr s.mem h
    failLost r.1 r.2)

/-! ### Slots (R457) -/

/-- A cell of the packet under way leaves: its slot is pending, or counts at once where the fate is final. -/
def cellLeaves (h : Hub) (j : Nat) : Hub :=
  let h := { h with tel := { h.tel with busy := tmod 0 h.tel.busy j (· - 1) } }
  match (h.tel.fates.filter (fun f => decide (f.port = j))).getLast? with
  | none => h
  | some f =>
    match f.final with
    | none =>
      let fs := h.tel.fates.map (fun x => if x = f then { f with started := f.started + 1 } else x)
      addSlot { h with tel := { h.tel with fates := fs } } (aTelSlotPendingLo j) 1
    | some good =>
      let rest := h.tel.fates.filter (fun x => decide (x ≠ f))
      let fs := if f.cells ≤ 1 then rest else rest ++ [{ f with cells := f.cells - 1 }]
      addSlot { h with tel := { h.tel with fates := fs } } (if good then aTelSlotRetiredLo j else aTelSlotWastedLo j) 1

/-- Is some head held by its sink alone (R457 rule 3)? -/
def backStarved (h : Hub) (j : Nat) : Bool :=
  portUp h j && decide (j ≤ 20) &&
    ((heads h j).any (fun x => x.flow && x.shape && !x.sink) ||
      (match sysNext h j with
        | some p => !sinkOk h j p
        | none => false))

/-- A cell slot of a port's attachment (R457), and the slot events of R453. -/
def portSlot (h : Hub) (j : Nat) : Hub :=
  if !spPresent h.part.res j then h
  else
    let hs := if j ≤ 20 then heads h j else []
    let h := if hs.any (fun x => x.flow && x.sink && !x.shape) then tally h 0x40 0x0403 1 none else h
    let h := if j < 8 ∧ portUp h j ∧ hs.any (fun x => x.flow && x.shape && !mayData h j x.p.hdr.vc.toNat) then
      tally h (0x10 + j) 0x0107 1 none else h
    if tget 0 h.tel.busy j ≠ 0 then cellLeaves h j
    else if j < 8 ∧ 0 < (trk h j).resend then addSlot h (aTelSlotWastedLo j) 1
    else if backStarved h j then addSlot h (aTelSlotBackLo j) 1
    else addSlot h (aTelSlotFrontLo j) 1

/-- SPINDLE_MATCH: one cell slot, 4 core clocks (R24, R284): slots are classified, shapers and policers move (R319), nodes wake
(R313) and Spindle computes its matching. -/
def spindleMatch (h : Hub) : Hub :=
  let h := runTo h (h.tim.coreClk + 4)
  let h := (List.range 24).foldl portSlot h
  let h := (List.range 21).foldl refresh (shaperSlots h)
  spindle h

def execSpindleMatch (s : State) : Ans := s.act spindleMatch

/-! ### P1 and pauses -/

/-- The work of phase P1: ineligible children whose finish tag is not later than their parent's time take it, and TMG_SLOTS takes
the slots of the tick just ended (R316). -/
def allot (h : Hub) : Hub :=
  let ks := (h.tmg.nodes.filter (fun e => !e.2.eligible)).map (·.1)
  let parents := h.tmg.vtime.map (·.1)
  let known := (List.range 21).flatMap (fun j => (heads h j).flatMap (fun x => [x.q, kClass j x.d x.c, kDock j x.d]))
  let all := (ks ++ (known.filter (fun k => !(node h k).eligible && parents.contains (parentOf h k)))).eraseDups
  let h := all.foldl (fun h k =>
    let n := node h k
    let v := vtime h (parentOf h k)
    if later n.f v then h else setNode h k { n with f := v }) h
  setFld h aTmgSlots 0 16 (h.tim.tickLen / 4)

/-- P1_ALLOT, once a tick after P0; suspended work of the tick before comes first (R45, R47, R316). -/
def p1Allot (h : Hub) : Hub :=
  if !phaseOpen h 0 then h
  else
    let h := enterPhase h 1
    allot (if phaseSuspended h 1 then allot (resumed h 1) else h)

def execP1Allot (s : State) : Ans := s.act p1Allot

/-- PAUSE_FRAME: En received PAUSE; honoured with PAUSE_EN (R311). -/
def pauseFrame (n quanta : Nat) (h : Hub) : Hub :=
  let j := 16 + n
  if !portUp h j then h
  else
    let h := raise (count h (aTmgCntPause j) 1) 0x09 1 0 0
    if !flag h (aTmgPortCfg j) 16 then h
    else
      let h := { h with tmg := { h.tmg with pauseAt := tset 0 h.tmg.pauseAt n h.tim.coreClk } }
      wr h (aTmgPortStatus j) (if quanta = 0 then 0 else W (2 ^ 31 + quanta))

def execPauseFrame (eth : Fin 4) (quanta : BitVec 16) (s : State) : Ans := s.act (pauseFrame eth.val quanta.toNat)

/-- PAUSE_END: the time of the received quanta is over. -/
def execPauseEnd (eth : Fin 4) (s : State) : Ans := s.act (fun h => wr h (aTmgPortStatus (16 + eth.val)) 0)

end Sys2Proof.Machine
end

