-- ==== Sys2Proof/Machine/Telemetry.lean ====
section
/-!
DEFINITION. Telemetry (chapter 16): selections and arming, the Harvester's latch with the queue samples (R324), its records and
ring, and the ageing of marks.
-/
namespace Sys2Proof.Machine

/-! ### Events of the banks (R453) -/

/-- The events that a bank kind counts, with whether they are packet events. -/
def bankEvents (b : Nat) : List (Nat × Bool) :=
  match b / 16 with
  | 1 => [(0x100, false), (0x101, false), (0x102, true), (0x103, true), (0x104, true), (0x105, false), (0x106, false), (0x107, false)]
  | 2 => [(0x200, true), (0x201, true), (0x202, true), (0x203, true), (0x204, true)]
  | 3 => [(0x300, true), (0x301, true), (0x302, false), (0x303, true), (0x304, false), (0x305, false), (0x306, true)]
  | 4 => [(0x400, true), (0x401, true), (0x402, true), (0x403, false), (0x404, true), (0x405, true)]
  | 5 => [(0x500, false), (0x501, false), (0x502, false), (0x503, false)]
  | 6 => [(0x600, true), (0x601, true), (0x602, false), (0x603, false)]
  | 7 => [(0x700, false), (0x701, false), (0x702, false), (0x703, false)]
  | 8 => [(0x800, true), (0x801, true), (0x802, true), (0x803, false)]
  | 9 => [(0x900, false), (0x901, false), (0x902, false), (0x903, false)]
  | 10 => [(0xA00, false), (0xA01, false), (0xA02, false)]
  | 11 => [(0xB00, false), (0xB01, false)]
  | 12 => [(0xC00, true), (0xC01, true), (0xC02, false), (0xC03, false)]
  | 13 => [(0xD00, true), (0xD01, true), (0xD02, true), (0xD03, false)]
  | _ => []

/-- Is an event known to a bank, and is it a packet event? -/
def eventKind (b ev : Nat) : Option Bool :=
  if ev ≤ 2 ∨ ev = 0xFFFF then some false
  else ((bankEvents b).find? (fun e => decide (e.1 = ev))).map (·.2)

/-- The bits of a filter word that R454 lists. -/
def filterBits : Nat := 0xFFBFF80F00000000

/-- Block reason code of a selection by its event, FILTER and filter word; 0 for none (R467). -/
def selectCode (b k ev : Nat) (filter : Bool) (f : Nat) : Nat :=
  match eventKind b ev with
  | none => 1
  | some p => if filter && (!p || !onlyBits f filterBits) then 2 else if ev = 0xFFFF ∧ k = 0 then 3 else 0

/-- CNT.SELECT: stages the selection of a counter (R453, R541); event 0xFFFF on counter 0 is left to validation. -/
def execCntSelect (th : Fin 4) (s : State) : Ans :=
  s.act (fun h => onInstr h th 0x58 (fun h c w =>
    let b := w.target / 256
    let k := w.target % 256
    let f := w.o 31 1 = 1
    if bankSize h.part.res b ≤ k ∨ !onlyBits w.operand 0x8000FFFF ∨ (!f ∧ w.x 0 ≠ 0) ∨
        selectCode b k (w.o 0 16) f (w.x 0) = 1 ∨ selectCode b k (w.o 0 16) f (w.x 0) = 2 then settle h c.id .invalid 0
    else stageS h c w [(aTelSelSel b k, W w.operand), (aTelSelFltLo b k, W (w.x 0)), (aTelSelFltHi b k, W (w.x 0 / 2 ^ 32))] scGlobal 0))

/-- Set the arm state of a counter and clear it on demand (R456). -/
def armOne (arm clear : Bool) (b : Nat) (h : Hub) (k : Nat) : Hub :=
  let h := if clear then wr (wr h (aTelCntLo b k) 0) (aTelCntHi b k) (W ((rd h (aTelCntHi b k)).toNat / 2 ^ 31 * 2 ^ 31)) else h
  setFlag h (aTelCntHi b k) 31 arm

/-- The counters chained above a counter. -/
def chainAbove (h : Hub) (b : Nat) : Nat → Nat → List Nat
  | 0, _ => []
  | n + 1, k => if k + 1 < bankSize h.part.res b && chained h b (k + 1) then (k + 1) :: chainAbove h b n (k + 1) else []

/-- CNT.ARM: acts in the core clock after, so its result is the count before it (R456). -/
def execCntArm (th : Fin 4) (s : State) : Ans :=
  s.act (fun h => onInstr h th 0x59 (fun h c w =>
    let b := w.target / 256
    let k := w.target % 256
    let n := bankSize h.part.res b
    if n = 0 ∨ (n ≤ k ∧ k ≠ 255) ∨ 4 ≤ w.operand then settle h c.id .invalid 0
    else
      let ks := if k = 255 then List.range n else k :: chainAbove h b 32 k
      let was := if k = 255 then 0 else telValue h b k
      settle (ks.foldl (armOne (w.o 0 1 = 1) (w.o 1 1 = 1) b) h) c.id .ok was))

/-- Does a mark rate lie in the table's range? -/
def markRateOk (k : Nat) : Bool := k = 0 || (decide (4 ≤ k) && decide (k ≤ 24))

/-- MARK.SET: stages the mark rate of an ingress switch port (R459). -/
def execMarkSet (th : Fin 4) (s : State) : Ans :=
  s.act (fun h => onInstr h th 0x5A (fun h c w =>
    let sp := w.target
    if 24 ≤ sp ∨ !spPresent h.part.res sp ∨ !onlyBits w.operand 0x1F ∨ !markRateOk w.operand then settle h c.id .invalid 0
    else stageS h c w [(aTelMarkCfg sp, W w.operand)] (scPort sp) 0))

/-! ### Queue samples (R324) -/

/-- Depth, spill state and head delay of a queue. -/
def sampleQueue (h : Hub) (q : Nat) (x : Queue) : Hub :=
  let depth := cellsOf x.cask + x.drained.length + x.written.foldl (fun n b => n + b.cells) 0 + x.openCells.length
  let sp := if x.spilled then 2 ^ 30 else 0
  let hi := match (x.cask ++ x.spill).head? with
    | some p => 2 ^ 31 + min 0xFFFFFF ((h.tim.coreClk - p.since) / 16)
    | none => 0
  wr (wr h (aTmgSmpLo q) (W (depth % 2 ^ 26))) (aTmgSmpHi q) (W (hi + sp))

/-- Every present queue is sampled; the alarm looks at the delays. -/
def sampleQueues (h : Hub) : Hub :=
  let h := { h with regs := h.regs.filter (fun e => !(decide (0x7A0000 ≤ e.1) && decide (e.1 < 0x7A8000))) }
  let h := h.swc.queues.foldl (fun h e => sampleQueue h e.1 e.2) h
  let h := wr64 h aTmgSampleTickLo (tickNo h)
  let a := fld h aTmgCfg 0 24
  match (if a = 0 then none else h.swc.queues.find? (fun e => flag h (aTmgSmpHi e.1) 31 && decide (a ≤ fld h (aTmgSmpHi e.1) 0 24))) with
  | some _ => raise h 0x09 2 0 0
  | none => h

/-! ### Records (R461-R465) -/

/-- A stage field of a mark record; 0xFFFF_FFFF where the stage was not reached. -/
def stageField (x : Option Nat) : List Byte := leBytes 4 (match x with
  | some v => v
  | none => 0xFFFFFFFF)

/-- The 64 bytes of a mark record. -/
def markBytes (m : Mark) : List Byte :=
  leBytes 8 m.t0 ++ leBytes 1 m.ing ++ leBytes 1 m.egr ++ leBytes 2 m.tid ++ leBytes 2 m.queue ++ leBytes 1 m.dock ++
  leBytes 1 m.fate ++ leBytes 2 m.len ++
  leBytes 1 (m.cls * 32 + m.pass * 8 + (if m.lossy then 4 else 0) + (if m.red then 2 else 0) + (if m.spilled then 1 else 0)) ++ [0] ++
  leBytes 4 m.lookup ++ stageField m.relink ++ stageField m.spill ++ stageField m.drain ++ stageField m.firstOut ++
  stageField m.lastOut ++ stageField m.fateAt ++ leBytes 4 m.vint ++ leBytes 4 m.no ++ List.replicate 8 0

/-- Present banks in ascending code. -/
def presentBanks (v : Variant) : List Nat := (List.range 256).filter (fun b => decide (bankSize v b ≠ 0))

/-- Counters, switch ports and length of a record (R463). -/
def counterCount (v : Variant) : Nat := (presentBanks v).foldl (fun n b => n + bankSize v b) 0
def portCount (v : Variant) : Nat := ((List.range 24).filter (spPresent v)).length
def recordLen (v : Variant) (marks : Nat) : Nat :=
  (64 + 8 * counterCount v + 40 * portCount v + 8 * v.queues + 64 * marks + 8 + 63) / 64 * 64

/-- The header line of a record with a given SEQ. -/
def recordHeader (h : Hub) (seq : Nat) (invalid : Bool) (filled : Nat) : List Byte :=
  let v := h.part.res
  let m := fld h aTelRingCfg 16 10
  leBytes 4 0x48565231 ++ leBytes 2 1 ++ leBytes 2 ((if v.queues = 4096 then 1 else 0) + (if invalid then 2 else 0)) ++ leBytes 8 seq ++
  leBytes 8 (tickNo h) ++ leBytes 8 (hubNs h) ++ leBytes 8 h.txs.vintage.toNat ++ leBytes 4 (recordLen v m) ++ leBytes 2 (counterCount v) ++
  leBytes 1 (portCount v) ++ [0] ++ leBytes 2 v.queues ++ leBytes 2 m ++ leBytes 2 filled ++ leBytes 2 (min 0xFFFF h.tel.skipped) ++
  List.replicate 8 0

/-- The body of a record after its header line. -/
def recordBody (h : Hub) (seq : Nat) : List Byte :=
  let v := h.part.res
  let m := fld h aTelRingCfg 16 10
  let cnt := (presentBanks v).flatMap (fun b => (List.range (bankSize v b)).flatMap (fun k => leBytes 6 (telValue h b k) ++ leBytes 1 b ++ leBytes 1 k))
  let slots := ((List.range 24).filter (spPresent v)).flatMap (fun j => (List.range 5).flatMap (fun i =>
    leBytes 8 ((rd h (aTelSlotRetiredLo j + 8 * i)).toNat + fld h (aTelSlotRetiredLo j + 8 * i + 4) 0 16 * 2 ^ 32)))
  let smp := (List.range v.queues).flatMap (fun q => leBytes 4 (rd h (aTmgSmpLo q)).toNat ++ leBytes 4 (rd h (aTmgSmpHi q)).toNat)
  let marks := (h.tel.closed.take m).flatMap markBytes
  let body := cnt ++ slots ++ smp ++ marks ++ List.replicate (64 * m - marks.length) 0 ++ leBytes 8 seq
  body ++ List.replicate (recordLen v m - 64 - body.length) 0

/-- Write whole lines to the ring: lines in holes are discarded and counted (R465). -/
def ringLines (m : Mem) (h : Hub) : Nat → Nat → List Byte → Mem × Hub
  | 0, _, _ => (m, h)
  | n + 1, a, bs =>
    if bs = [] then (m, h)
    else
      let line := bs.take 64
      let h := if isHole h a then raise (count h aTelCntRingLost 1) 0x0F 1 0 0
        else moved (unpoison h a 64) 0 true 1
      ringLines (writeCellar m h a line) h n (a + 64) (bs.drop 64)

/-- A record goes to its ring slot: the header line with SEQ all ones, every later line, the header line again (R465). -/
def ringRecord (m : Mem) (h : Hub) (a : Nat) (opening rec_ : List Byte) : Mem × Hub :=
  let w := ringLines m h 1 a opening
  let w := ringLines w.1 w.2 (rec_.length / 64) (a + 64) (rec_.drop 64)
  ringLines w.1 w.2 1 a (rec_.take 64)

/-- Address of a ring slot. -/
def ringSlot (h : Hub) (i : Nat) : Nat := rd64 h aTelRingBaseLo + i * recordLen h.part.res (fld h aTelRingCfg 16 10)

def ringOn (h : Hub) : Bool := flag h aTelRingCfg 31 && cellarReady h

/-- A record takes the next slot of the ring, when it is on (R462). -/
def ringPut (m : Mem) (h : Hub) (opening rec_ : List Byte) : Mem × Hub :=
  if ringOn h then
    let at_ := fld h aTelRingWr 0 16
    let w := ringRecord m h (ringSlot h at_) opening rec_
    (w.1, setFld w.2 aTelRingWr 0 16 ((at_ + 1) % max 1 (fld h aTelRingCfg 0 16)))
  else (m, h)

/-- The record of this latch goes to the snapshot buffer and to the ring (R462, R465); the marks copied leave bank 14. -/
def writeRecord_ (m : Mem) (h : Hub) (invalid : Bool) : Mem × Hub :=
  let seq := rd64 h aTelSeqLo + 1
  let marks := fld h aTelRingCfg 16 10
  let filled := min marks h.tel.closed.length
  let rec_ := recordHeader h seq invalid filled ++ recordBody h seq
  let opening := recordHeader h (2 ^ 64 - 1) invalid filled
  let h := wr64 h aTelSeqLo seq
  let h := if invalid then raise h 0x0F 3 0 0 else h
  let h := { h with tel := { h.tel with snap := rec_, closed := h.tel.closed.drop filled, skipped := 0 } }
  ringPut m h opening rec_

/-- The copy of the last record ran past this P2: its header says so (R463 FLAGS [2]). -/
def markLate (m : Mem) (h : Hub) : Mem × Hub :=
  if h.tel.snap = [] then (m, h)
  else
    let late := fun (b : Byte) => b ||| 4
    let snap := h.tel.snap.set 6 (late ((h.tel.snap[6]?).getD 0))
    let h := { h with tel := { h.tel with snap := snap } }
    if ringOn h then
      let n := max 1 (fld h aTelRingCfg 0 16)
      let a := ringSlot h ((fld h aTelRingWr 0 16 + n - 1) % n) + 6
      (writeCellar m h a [late (cellarByte m a)], h)
    else (m, h)

/-- Every counter is latched in one clock, or the tick is skipped while the previous copy runs (R50, R462-R464). -/
def latchCounters (copyRunning badWord : Bool) (m : Mem) (h : Hub) : Mem × Hub :=
  if copyRunning || bitOf h.mst.dpLost 12 || bitOf h.mst.dpLost 13 then
    let r := if copyRunning then markLate m h else (m, h)
    let h := { r.2 with tel := { r.2.tel with skipped := r.2.tel.skipped + 1 } }
    (r.1, raise (count h aTelCntSkipped 1) 0x0F 0 0 0)
  else writeRecord_ m (sampleQueues h) badWord

/-- HARVESTER_LATCH, at the start of P2, once a tick after P0. A copy suspended at the edge resumes first, so it still runs
(R45, R47, R50). -/
def harvesterLatch (copyRunning badWord : Bool) (m : Mem) (h : Hub) : Mem × Hub :=
  if !phaseOpen h 1 then (m, h)
  else
    let h := enterPhase h 2
    latchCounters (copyRunning || phaseSuspended h 2) badWord m (resumed h 2)

def execHarvesterLatch (copyRunning badWord : Bool) (s : State) : Ans := s.actMem (harvesterLatch copyRunning badWord)

/-- MARK_AGE: records open for 8,000 tick edges close with FATE 0xFF (R461). -/
def markAge (h : Hub) : Hub :=
  let old := h.tel.open_.filter (fun m => decide (8000 ≤ edgesSince h m.edge))
  { h with tel := { h.tel with
    open_ := h.tel.open_.filter (fun m => decide (edgesSince h m.edge < 8000))
    closed := h.tel.closed ++ old.map (fun m => { m with fate := 0xFF }) } }

def execMarkAge (s : State) : Ans := s.act markAge

end Sys2Proof.Machine
end

