-- ==== Sys2Proof/Machine/Docks.lean ====
section
/-!
DEFINITION. USB ports and buffers as instructions stage them (R355, R365), and virtual docks (chapter 13): creation, resizing,
destruction, freezing, images, restoring and thawing.
-/
namespace Sys2Proof.Machine

/-! ### USB ports and endpoint buffers (R112, R355, R365, R541) -/

/-- USB.ASSIGN: stages the dock and virtual port of a port. -/
def execUsbAssign (th : Fin 4) (s : State) : Ans :=
  s.act (fun h => onInstr h th 0x38 (fun h c w =>
    let u := w.target
    let v := w.o 8 4
    if !onlyBits w.operand 0x80000F3F ∨ 16 ≤ u ∨ !usbPresent h.part.res u ∨ h.part.res.docks ≤ w.o 0 6 ∨
        (w.o 31 1 = 1 ∧ (v = 0 ∨ v = 15)) then settle h c.id .invalid 0
    else
      let old := cfg h (standing h c []) (aUsbPortAssign u)
      let prev := if bitOf old 31 then scDock (bitsOf old 0 6) else Scope.empty
      stageS h c w [(aUsbPortAssign u, W w.operand)] (((scPort 20).union (scDock (w.o 0 6))).union prev) 0))

/-- EPM.CARVE: stages a buffer of endpoint memory. -/
def execEpmCarve (th : Fin 4) (s : State) : Ans :=
  s.act (fun h => onInstr h th 0x39 (fun h c w =>
    let b := w.target
    let x := w.x 0
    let off := bitsOf x 0 19
    let len := bitsOf x 32 19
    let on := w.o 31 1 = 1
    if !onlyBits w.operand 0x8000003F ∨ !onlyBits x 0x0007FFFF0007FFFF ∨ 256 ≤ b ∨ h.part.res.docks ≤ w.o 0 6 ∨ off % 64 ≠ 0 ∨
        len % 64 ≠ 0 ∨ (on ∧ (len < 1088 ∨ 262144 < len ∨ 524288 < off + len)) then settle h c.id .invalid 0
    else
      let old := cfg h (standing h c []) (aUsbEpmCtl b)
      let prev := if bitOf old 31 then scDock (bitsOf old 0 6) else Scope.empty
      stageS h c w [(aUsbEpmCtl b, W w.operand), (aUsbEpmOffset b, W off), (aUsbEpmLength b, W len)]
        (((scPort 20).union (scDock (w.o 0 6))).union prev) 0))

/-! ### Creating and resizing (R376-R380) -/

/-- Do the allowances of an extension word lie in their ranges (R398)? -/
def allowOk (x : Nat) : Bool :=
  onlyBits x 0x07FF07FF1FFF1FFF && decide (bitsOf x 0 13 ≤ 4096) && decide (bitsOf x 16 13 ≤ 4096) &&
    decide (bitsOf x 32 11 ≤ 1024) && decide (bitsOf x 48 11 ≤ 1016)

/-- The allowance records of an extension word. -/
def allowRecs (d x : Nat) : Recs := [(aVdkAllow0 d, W x), (aVdkAllow1 d, W (x / 2 ^ 32))]

/-- VDK.CREATE (R376). -/
def execVdkCreate (th : Fin 4) (s : State) : Ans :=
  s.act (fun h => onInstr h th 0x40 (fun h c w =>
    let d := w.target
    if 256 ≤ w.operand ∨ !allowOk (w.x 0) ∨ h.part.res.docks ≤ d then settle h c.id .invalid 0
    else if dockState h d = 5 then settle h c.id .busy 0
    else
      let old := maskIn h (standing h c []) d
      stageOpen h c w ((aVdkCfg d, W (2 ^ 31 + w.operand)) :: allowRecs d (w.x 0))
        ((scDock d).union (scTrunks (old ||| w.operand))) 0 [aVdkCfg d] []))

/-- Does a TUN.MOVE of an end of a dock run (R380, R385)? -/
def moveRuns (h : Hub) (d : Nat) : Bool :=
  (h.txs.submitted ++ h.txs.queue ++ h.txs.delivering.toList).any (fun s =>
    match s.src with
    | .internal (.move from_ _ tid) => decide ((endAt h from_ tid).map (·.dock) = some d)
    | _ => false) ||
  h.tun.moves.any (fun m => !m.done && decide ((endAt h m.dst m.tid).map (·.dock) = some d))

/-- The records that re-home every trunk end of a dock (R380). -/
def rehome (h : Hub) (regs : Tab Word) (d a b : Nat) : Recs :=
  let ends := (endsIn regs).filter (fun e => decide (e.sp = a) && decide (e.dock = d))
  ends.foldl (fun r e => stageRecs r (moveRecs h (lay h.part regs r) a b e.tid)) []

/-- VDK.RESIZE (R380). -/
def execVdkResize (th : Fin 4) (s : State) : Ans :=
  s.act (fun h => onInstr h th 0x42 (fun h c w =>
    let d := w.target
    let regs := standing h c []
    let old := maskIn h regs d
    let new_ := if w.operand = 0 then old else w.operand
    if 256 ≤ w.operand ∨ !allowOk (w.x 0) ∨ h.part.res.docks ≤ d then settle h c.id .invalid 0
    else if dockState h d = 5 then settle h c.id .denied 0x0603
    else if !bitOf (cfg h regs (aVdkCfg d)) 31 then settle h c.id .invalid 0
    else if moveRuns h d then settle h c.id .busy 0
    else
      let mask : Recs := if w.operand = 0 then [] else [(aVdkCfg d, W (2 ^ 31 + new_))]
      let ends := if lowest old < 8 ∧ lowest new_ < 8 ∧ lowest old ≠ lowest new_ then rehome h regs d (lowest old) (lowest new_) else []
      stageS h c w (mask ++ allowRecs d (w.x 0) ++ ends) ((scDock d).union (scTrunks (old ||| new_))) 0))

/-! ### Host state (R382) -/

/-- A dock's host state takes its defaults (R382). -/
def hostDefault (h : Hub) (d : Nat) : Hub :=
  let h := { h with tun := { h.tun with
    config := h.tun.config.filter (fun e => decide (e.1 / 16384 ≠ d))
    bar4 := h.tun.bar4.filter (fun e => decide (e.1 / 1024 ≠ d))
    evr := tdel h.tun.evr d
    broken := h.tun.broken.filter (fun o => decide (o.1 ≠ d)) } }
  let h := { h with usb := { h.usb with ep1 := tdel h.usb.ep1 d, ep1Lost := tdel h.usb.ep1Lost d } }
  (List.range 8).foldl (fun h k => wr h (aTunDb d k) 0) (wr h (aTunDbPending d) 0)

/-- The posted-error log of a dock is cleared (R272). -/
def clearPel (h : Hub) (d : Nat) : Hub :=
  let h := { h with regs := h.regs.filter (fun e => !(decide (aTunPel d 0 0 ≤ e.1) && decide (e.1 < aTunPel d 0 0 + 0x400))) }
  wr (wr h (aTunPelCount d) 0) (aTunPelOverflow d) 0

/-- Which end of a dock do waiting requests belong to? -/
def dropWaits (h : Hub) (d : Nat) : Hub × Nat :=
  let keep := fun (l : List (Nat × TunPacket)) => l.filter (fun e => decide (waitDock h e ≠ d))
  let t := keep h.tun.waitTag
  let p := keep h.tun.waitPool
  ({ h with tun := { h.tun with waitTag := t, waitPool := p } },
   h.tun.waitTag.length + h.tun.waitPool.length - t.length - p.length)

/-- Every packet queued for or from a dock is discarded, its tags enter discard state, its bridge semaphores are released
(R384 step 2, R516); the count of packets. -/
def dockFlush (h : Hub) (d : Nat) : Hub × Nat :=
  let mine := fun (p : Pkt) => decide (p.dock = d) || decide (p.src = d)
  let r := purge h mine
  let w := dropWaits r.1 d
  let h := w.1
  let fence := match tfind h.swc.fences d with
    | some f => f.hold.length
    | none => 0
  let usb := (tget [] h.usb.heldDown d).length + (tget [] h.usb.heldUp d).length
  let held := (tget [] h.swc.hold d).length
  let locks := h.tun.lockHeld.foldl (fun n e => n + (e.2.filter mine).length) 0
  let moves := h.tun.moves.foldl (fun n m => n + (m.held.filter mine).length) 0
  let h := { h with
    swc := { h.swc with
      hold := tset [] h.swc.hold d []
      fences := h.swc.fences.map (fun e => if e.1 = d then (e.1, { e.2 with hold := [] }) else e) }
    usb := { h.usb with heldDown := tset [] h.usb.heldDown d [], heldUp := tset [] h.usb.heldUp d [] }
    tun := { h.tun with
      lockHeld := (h.tun.lockHeld.map (fun e => (e.1, e.2.filter (fun p => !mine p)))).filter (fun e => e.2 != [])
      moves := h.tun.moves.map (fun m => { m with held := m.held.filter (fun p => !mine p) }) } }
  let h := freeBlocks h (fun k => decide (k.dock = d))
  let h := discardTags h (fun g => decide (g.dock = d))
  let h := (List.range 8).foldl (fun h n => if (lockOwner h n).map (·.1) = some d then lockRelease h n else h) h
  (h, r.2.length + w.2 + fence + usb + held + locks + moves)

/-- The flush, counted in VDK_CNT_DISCARDd. -/
def dockDiscard (h : Hub) (d : Nat) : Hub :=
  let r := dockFlush h d
  count r.1 (aVdkCntDiscard d) r.2

/-! ### Slices and their dock-0 form (R133, R392) -/

/-- Give the indices of one kind in an address other values. -/
def shiftIx (a : Nat) (k : IndexKind) (f : Nat → Nat) : Nat :=
  match regRow a with
  | some (r, ix) => (r.dims.zip ix).foldl (fun a e =>
      if e.2.2 = k then a + f e.2.1 * e.1.2.1 - e.2.1 * e.1.2.1 else a) a
  | none => a

/-- Is an address a policer's record? Policers belong to docks by sixteens (R321). -/
def policerAt (a : Nat) : Bool := decide (0x780000 ≤ a) && decide (a < 0x788000)

/-- The address of a record of one dock as a record of another. -/
def dockAddr (a from_ dst : Nat) : Nat :=
  if policerAt a then a + 512 * dst - 512 * from_ else shiftIx a .dock (fun _ => dst)

/-- A record in dock-0 form: every DOCK field of its value is 0; only queue maps have one. -/
def dockZero (d : Nat) (e : Nat × Word) : Nat × Word :=
  (dockAddr e.1 d 0, if 0x770000 ≤ e.1 ∧ e.1 < 0x774000 then W (putBits e.2.toNat 8 6 0) else e.2)

/-- The value of a record: the SH bits of its register. -/
def recVal (p : Part) (e : Nat × Word) : Word := e.2 &&& shMask p e.1

/-- The records of a dock's slice that differ from their reset values, in a configuration (R133). -/
def slice (h : Hub) (regs : Tab Word) (d : Nat) : Recs :=
  regs.filterMap (fun e =>
    if recScope h regs e.1 = scDock d ∧ recVal h.part e ≠ recVal h.part (e.1, resetVal h.part e.1) then
      some (e.1, recVal h.part e) else none)

/-- The trunk ends of a dock in a configuration. -/
def dockTrunkEnds (regs : Tab Word) (d : Nat) : List EndInfo :=
  (endsIn regs).filter (fun e => decide (e.sp < 8) && decide (e.dock = d))

/-- The records of a destroy (R384 step 3): the slice at reset, and with FORCE the dock's ends closed, its USB ports unassigned,
its buffers and owned layers disabled. -/
def destroyRecs (h : Hub) (d : Nat) (force : Bool) : Recs :=
  let regs := projected h
  let own := (slice h regs d).map (fun e => (e.1, resetVal h.part e.1))
  let ends := ((endsIn regs).filter (fun e => decide (e.dock = d))).flatMap (fun e => [(aTunT e.sp e.tid, 0), (aTunR e.sp e.tid, 0)])
  let ports := (List.range 16).filterMap (fun u =>
    if cfld h regs (aUsbPortAssign u) 31 1 = 1 ∧ cfld h regs (aUsbPortAssign u) 0 6 = d then some (aUsbPortAssign u, (0 : Word)) else none)
  let bufs := (List.range 256).filterMap (fun b =>
    if cfld h regs (aUsbEpmCtl b) 31 1 = 1 ∧ cfld h regs (aUsbEpmCtl b) 0 6 = d then
      some (aUsbEpmCtl b, W (cfld h regs (aUsbEpmCtl b) 0 6)) else none)
  let layers := (List.range 8).flatMap (fun o => (List.range 8).filterMap (fun k =>
    let v := cfg h regs (aDspLayerCtl o k)
    if bitOf v 31 ∧ bitOf v 0 ∧ bitsOf v 24 6 = d ∧ o < h.part.res.outputs then some (aDspLayerCtl o k, W (v - 1)) else none))
  stageRecs [] (own ++ (if force then ends ++ ports ++ bufs ++ layers else []))

/-- Does a dock hold what a destroy without FORCE refuses (R383)? -/
def dockHolds (h : Hub) (d : Nat) : Bool :=
  (endsIn h.regs).any (fun e => decide (e.dock = d)) ||
  (List.range 4096).any (fun q => queueMapped h h.regs q && decide (fld h (aTmgQmap q) 8 6 = d)) ||
  (List.range 16).any (fun u => decide ((usbAssign h u).map (·.1) = some d)) || 
  (List.range 256).any (fun b => flag h (aUsbEpmCtl b) 31 && decide (fld h (aUsbEpmCtl b) 0 6 = d)) ||
  (List.range 16).any (fun w => decide (fld h (aDspApSize d w) 0 21 ≠ 0)) ||
  (List.range 8).any (fun o => (List.range 8).any (fun k =>
    flag h (aDspLayerCtl o k) 31 && flag h (aDspLayerCtl o k) 0 && decide (fld h (aDspLayerCtl o k) 24 6 = d)))

/-- Does a save or a restore of a dock run? -/
def rackRuns (h : Hub) (d : Nat) (save : Bool) : Bool := h.dck.ops.any (fun o => decide (o.dock = d) && decide (o.save = save))

/-- A freeze that waits ends: its dock is no longer freezing. -/
def endFreeze (h : Hub) (d : Nat) : Hub :=
  match tfind h.dck.freezeCmd d with
  | some id => settle { h with dck := { h.dck with freezeCmd := tdel h.dck.freezeCmd d, freezeEdge := tdel h.dck.freezeEdge d } } id .denied 0x0611
  | none => h

/-- VDK.DESTROY (R383, R384): steps 1 and 2 at once, step 3 by its internal transaction. -/
def execVdkDestroy (th : Fin 4) (s : State) : Ans :=
  s.act (fun h => onLong h th 0x41 (fun h c w =>
    let d := w.target
    let force := w.operand = 1
    if 2 ≤ w.operand ∨ h.part.res.docks ≤ d ∨ (dockState h d = 0 ∧ !rackRuns h d false) then settle h c.id .invalid 0
    else if !force ∧ dockHolds h d then settle h c.id .denied 0x0601
    else if rackRuns h d true ∨ rackRuns h d false then settle h c.id .denied 0x0602
    else if dockState h d = 5 then settle h c.id .denied 0
    else match oConflict h c (scDock d) with
      | some m => settle h c.id .conflict m
      | none =>
        let h := endFreeze h d
        let h := dockDiscard (setDockState h d 5) d
        beginWait (submit h (.internal (.destroy d force)) (cmdPort h c) (destroyRecs h d force) (some c.id) [] []) c w .op))

/-! ### Freezing (R385-R388) -/

/-- RACK.FREEZE (R385). -/
def execRackFreeze (th : Fin 4) (s : State) : Ans :=
  s.act (fun h => onLong h th 0x44 (fun h c w =>
    let d := w.target
    if w.operand ≠ 0 ∨ h.part.res.docks ≤ d then settle h c.id .invalid 0
    else if dockState h d ≠ 1 then settle h c.id .denied 0x0611
    else if moveRuns h d ∨ (tfind h.swc.fences d).isSome ∨ h.swc.waiting.contains d then settle h c.id .denied 0x0612
    else match oConflict h c (scDock d) with
      | some m => settle h c.id .conflict m
      | none =>
        let h := wr64 (setFlag (setDockState h d 2) (aVdkStatus d) 9 false) (aVdkFreezeTickLo d) (tickNo h)
        let h := { h with dck := { h.dck with
          freezeCmd := tput h.dck.freezeCmd d c.id, freezeEdge := tput h.dck.freezeEdge d h.tim.edges } }
        beginWait (dockStateAll h (dockMask h d) d 2) c w .op))

/-- Tags of a dock, in order of issue. -/
def dockTags (h : Hub) (d : Nat) : List (Nat × Tag) :=
  sortBy (fun a b => decide (a.2.issued ≤ b.2.issued)) (h.tun.tags.filter (fun e => decide (e.2.dock = d)))

/-- The grace of a freeze ends (R387): every item of the dock is settled; the freeze record. -/
def settleDock (h : Hub) (d : Nat) : Hub × List Frozen :=
  let tags := dockTags h d
  let live := tags.filter (fun e => e.2.discard.isNone && decide (e.2.type = 1) && e.2.prefetch.isNone)
  let recs := live.map (fun e => (⟨e.2, e.1, e.2.tlp.kind = .memRd || e.2.tlp.kind = .cfgRd, false⟩ : Frozen))
  let usb := (tags.filter (fun e => decide (e.2.type = 2) && e.2.discard.isNone)).length
  -- tags in discard state and of USB are freed; those recorded and of prefetch enter it
  let h := (tags.filter (fun e => e.2.discard.isSome || decide (e.2.type = 2))).foldl (fun h e => freeTag h e.1 false) h
  let h := discardTags h (fun g => decide (g.dock = d))
  let notMine := fun (l : List UsbReq) => l.filter (fun q => decide (q.dock ≠ d))
  let h := { h with usb := { h.usb with
    periodic := (h.usb.periodic.map (fun e => (e.1, notMine e.2))).filter (fun e => e.2 != [])
    async := (h.usb.async.map (fun e => (e.1, notMine e.2))).filter (fun e => e.2 != [])
    heldDown := tset [] h.usb.heldDown d []
    heldUp := tset [] h.usb.heldUp d [] } }
  let h := freeBlocks h (fun k => decide (k.dock = d))
  let h := count h (aVdkCntAbandoned d) usb
  let mine := fun (p : Pkt) => (decide (p.dock = d) || decide (p.src = d)) && !(decide (p.hdr.type = 1) && (p.pass = 1 || p.pass = 2))
  let h := { h with tun := { h.tun with
    lockHeld := (h.tun.lockHeld.map (fun e => (e.1, e.2.filter (fun p => !mine p)))).filter (fun e => e.2 != []) } }
  let r := purge h mine
  let h := count r.1 (aVdkCntDiscard d) (r.2.filter (fun p => decide (p.hdr.type ≠ 1) && decide (p.hdr.type ≠ 2))).length
  let h := (List.range 8).foldl (fun h n => if (lockOwner h n).map (·.1) = some d then lockBroken h n else h) h
  let h := (dockPorts h d).foldl (fun h n => dropPf h n (fun _ => true)) h
  let ev := (evrAt h d).held.length
  let h := (List.replicate ev d).foldl evrLose (setEvr h d { evrAt h d with held := [] })
  (h, recs)

/-- GRACE_END: the second edge after freeze start (R387). -/
def graceEnd (d : Nat) (h : Hub) : Hub :=
  match tfind h.dck.freezeEdge d with
  | none => h
  | some e =>
    if dockState h d ≠ 2 ∨ edgesSince h e < 2 then h
    else
      let r := settleDock h d
      let n := r.2.length
      let cmd := tfind h.dck.freezeCmd d
      let h := r.1
      let h := { h with dck := { h.dck with
        freeze := tset [] h.dck.freeze d r.2, freezeEdge := tdel h.dck.freezeEdge d, freezeCmd := tdel h.dck.freezeCmd d } }
      let h := raise (wr (setDockState h d 3) (aVdkRackStatus d) (W n)) 0x0C 0 d 0
      match cmd with
      | some id => settle h id .ok n
      | none => h

def execGraceEnd (d : Fin 64) (s : State) : Ans := s.act (graceEnd d.val)

/-! ### Images (R391, R392)

The places of fields within sections 1 to 4 that the manual leaves to the hub are the model's (notes/assumptions/40.md). -/

/-- The hub's instance number (R399). -/
def vdkInstance (h : Hub) : Nat :=
  (Config.analogue 399 h.dck.boots).toNat + (Config.analogue 400 h.dck.boots).toNat * 2 ^ 32

/-- Fill with zeros to a multiple. -/
def padTo (n : Nat) (bs : List Byte) : List Byte := bs ++ List.replicate ((n - bs.length % n) % n) 0

/-- Section 1 (R382, R392): event ring, doorbells, virtual hubs, posted-error log, configuration space. -/
def hostState (h : Hub) (d : Nat) : List Byte :=
  let e := evrAt h d
  let ring := leBytes 8 e.base ++ leBytes 4 e.ctl ++ leBytes 4 e.head ++ leBytes 4 e.tail ++ leBytes 4 (if e.phase then 1 else 0) ++
    leBytes 8 e.lost ++ leBytes 8 e.since
  let bells := (List.range 8).flatMap (fun k => leBytes 4 (rd h (aTunDb d k)).toNat) ++ leBytes 4 (rd h (aTunDbPending d)).toNat
  let ctl := [0, 1, 2].flatMap (fun k =>
    let c := ctlAt h d k
    leBytes 4 (c.addr % 256 + c.config % 256 * 256 + (if c.wake then 2 ^ 16 else 0) + (if c.suspended then 2 ^ 24 else 0)))
  let ports := [0, 1].flatMap (fun k => (List.range 16).flatMap (fun v =>
    let p := vport h d k v
    leBytes 8 ((if p.enabled then 1 else 0) + (if p.suspended then 256 else 0) + p.change % 65536 * 2 ^ 16 + p.wakeMask % 2 ^ 16 * 2 ^ 32)))
  let pel := leBytes 4 (rd h (aTunPelCount d)).toNat ++ leBytes 4 (rd h (aTunPelOverflow d)).toNat ++
    (List.range 64).flatMap (fun j => (List.range 4).flatMap (fun k => leBytes 4 (rd h (aTunPel d j k)).toNat))
  let words := (h.tun.config.filter (fun x => decide (x.1 / 16384 = d))).map (fun x => (x.1 % 16384, x.2)) ++
    (h.tun.bar4.filter (fun x => decide (x.1 / 1024 = d))).map (fun x => (2 ^ 16 + x.1 % 1024, x.2))
  let tail := leBytes 4 words.length ++ words.flatMap (fun x => leBytes 4 x.1 ++ leBytes 4 x.2.toNat)
  let all := ring ++ bells ++ ctl ++ ports ++ pel ++ tail
  (all ++ List.replicate (16384 - all.length) 0).take 16384

/-- A number in an image. -/
def imageNat (bs : List Byte) (at_ n : Nat) : Nat := leNat ((bs.drop at_).take n)

/-- Load section 1 into a dock. -/
def loadHost (h : Hub) (d : Nat) (bs : List Byte) : Hub :=
  let n := imageNat bs
  let h := hostDefault h d
  let h := setEvr h d ⟨n 0 8, n 8 4, n 12 4, n 16 4, decide (n 20 4 = 1), n 24 8, n 32 8, []⟩
  let h := (List.range 8).foldl (fun h k => wr h (aTunDb d k) (W (n (40 + 4 * k) 4))) (wr h (aTunDbPending d) (W (n 72 4)))
  let h := [0, 1, 2].foldl (fun h k =>
    let v := n (76 + 4 * k) 4
    setCtl h d k { Ctl.idle with addr := bitsOf v 0 8, config := bitsOf v 8 8, wake := bitOf v 16, suspended := bitOf v 24 }) h
  let h := [0, 1].foldl (fun h k => (List.range 16).foldl (fun h v =>
    let x := n (88 + 8 * (16 * k + v)) 8
    setVport h d k v ⟨bitOf x 0, bitOf x 8, bitsOf x 16 16, bitsOf x 32 16⟩) h) h
  let h := wr (wr h (aTunPelCount d) (W (n 344 4))) (aTunPelOverflow d) (W (n 348 4))
  let h := (List.range 64).foldl (fun h j => (List.range 4).foldl (fun h k => wr h (aTunPel d j k) (W (n (352 + 16 * j + 4 * k) 4))) h) h
  (List.range (min 2048 (n 1376 4))).foldl (fun h i =>
    let key := n (1380 + 8 * i) 4
    let v := n (1384 + 8 * i) 4
    if key < 2 ^ 16 then cfgStore h d (key / 1024) (key % 1024) v else setBar4 h d (key % 1024) v) h

/-- Section 2: an entry of 32 bytes for each trunk end. -/
def tunnelState (h : Hub) (d : Nat) : List Byte :=
  (dockTrunkEnds h.regs d).flatMap (fun e =>
    let k := endKey e.sp e.tid
    let top := match tfind h.keys.windows (k * 1024 + e.kslot) with
      | some w => w.top
      | none => 0
    leBytes 2 e.tid ++ leBytes 2 e.kslot ++ leBytes 4 (rd h (aTunT e.sp e.tid)).toNat ++ leBytes 8 (tget 1 h.keys.pn k) ++ leBytes 8 top ++
      leBytes 4 (rd h (aTunR e.sp e.tid)).toNat ++ leBytes 4 e.sp)

/-- An entry of section 3: 16 bytes of direction, port, handle and tag data, then the TLP header. -/
def frozenBytes (f : Frozen) : List Byte :=
  let g := f.tag
  let hdr := (tlpBytes { g.tlp with data := [] }).take 48
  leBytes 1 ((if g.toHost then 1 else 0) + (if f.read then 2 else 0) + (if f.lost then 4 else 0)) ++ leBytes 1 g.retSp ++ leBytes 2 g.retTid ++
    leBytes 2 g.dev ++ leBytes 2 g.reqId ++ leBytes 2 g.reqTag ++ leBytes 2 f.num ++ leBytes 2 g.left ++ leBytes 2 hdr.length ++
    hdr ++ List.replicate (48 - hdr.length) 0

/-- The entry of 64 bytes as a request of dock d; trunks go through a map. -/
def bytesFrozen (d : Nat) (f : Nat → Nat) (bs : List Byte) : Frozen :=
  let n := imageNat bs
  let t := (bytesTlp ((bs.drop 16).take (min 48 (n 14 2)))).getD tlpZero
  ⟨⟨1, bitOf (n 0 1) 0, d, f (n 1 1), n 2 2, n 4 2, n 6 2, n 8 2, 0, 0, n 12 2, none, { t with data := [] }, none⟩, n 10 2,
   bitOf (n 0 1) 1, bitOf (n 0 1) 2⟩

/-- The queued packets that an image carries (R392): posted requests and completions of PCIe, by queue in admission order. -/
def savedPackets (h : Hub) (d : Nat) : List Pkt :=
  let all := h.swc.queues.flatMap (fun e => e.2.cask ++ e.2.spill) ++ h.swc.direct.flatMap (·.2) ++ voqPackets h
  all.filter (fun p => decide (p.dock = d) || decide (p.src = d))

/-- A packet of section 4: its length, its header with the packet's place in the PN field, its payload. -/
def packetBytes (p : Pkt) : List Byte :=
  let place := p.egr + p.ing * 2 ^ 5 + p.pass * 2 ^ 10 + (if p.lossy then 2 ^ 12 else 0) + (if p.red then 2 ^ 13 else 0) + p.cls * 2 ^ 14 +
    p.queue * 2 ^ 17 + (if p.src < 64 then 2 ^ 30 else 0) + (if p.dock < 64 then 2 ^ 31 else 0)
  let x := { p.hdr with pn := BitVec.ofNat 40 place }
  padTo 8 (leBytes 8 (16 + p.payload.length) ++ toBytes (hdrBytes x p.payload.length) ++ p.payload)

/-- Read section 4. -/
def bytesPackets : Nat → List Byte → List (Hdr × List Byte)
  | 0, _ => []
  | n + 1, bs =>
    let len := imageNat bs 0 8
    if bs.length < 24 ∨ len < 16 ∨ bs.length < 8 + len then []
    else
      let u := fun i => BitVec.ofNat 64 (beNat (toNats ((bs.drop (8 + 8 * i)).take 8)))
      (parseHdr (u 0) (u 1), (bs.drop 24).take (len - 16)) :: bytesPackets n (bs.drop ((8 + len + 7) / 8 * 8))

/-- A restored packet joins its queue (R394). -/
def joinRestored (d : Nat) (f : Nat → Nat) (h : Hub) (x : Hdr × List Byte) : Hub :=
  let n := x.1.pn.toNat
  let r := newPkt h (bitsOf n 5 5) (f (bitsOf n 0 5)) { x.1 with pn := 0 } x.2 x.1.kind.toNat (if bitOf n 31 then d else 64) (bitsOf n 14 3)
    (if bitOf n 30 then d else 64) 0
  let p := r.2
  let o := tget 0 h.swc.orders p.egr
  let h := { r.1 with swc := { r.1.swc with orders := tset 0 r.1.swc.orders p.egr ((o + 1) % 2 ^ 32) } }
  joinCask h { p with pass := bitsOf n 10 2, lossy := bitOf n 12, red := bitOf n 13, queue := bitsOf n 17 13, order := o }

/-- The enabled aperture windows of a dock in a configuration: cellar address and bytes. -/
def windowsOf (h : Hub) (regs : Tab Word) (d : Nat) : List (Nat × Nat) :=
  ((List.range 16).filter (fun w => decide (cfld h regs (aDspApSize d w) 0 21 ≠ 0))).map (fun w =>
    (cfld h regs (aDspApBase d w) 0 20 * 65536, cfld h regs (aDspApSize d w) 0 21 * 65536))

/-- The sections of an image of a dock (R392). -/
def imageSections (m : Mem) (h : Hub) (d : Nat) : List (List Byte) :=
  [(slice h h.regs d).flatMap (fun e => leBytes 8 ((dockZero d e).1 * 2 ^ 32 + (dockZero d e).2.toNat)), hostState h d, tunnelState h d,
   (tget [] h.dck.freeze d).flatMap frozenBytes, (savedPackets h d).flatMap packetBytes,
   if flag h (aVdkRackCfg d) 0 then (windowsOf h h.regs d).flatMap (fun w => cellarBytes m w.1 w.2) else []]

/-- Offset and length of each section. -/
def sectionPlaces : List (List Byte) → Nat → List (Nat × Nat)
  | [], _ => []
  | s :: ss, at_ => (at_, s.length) :: sectionPlaces ss (at_ + (s.length + 63) / 64 * 64)

/-- The header of an image (R391). -/
def imageHeader (h : Hub) (op : RackOp) (secs : List (List Byte)) : List Byte :=
  let d := op.dock
  let body := secs.foldl (fun n s => n + (s.length + 63) / 64 * 64) 0
  let flags := (if flag h (aVdkRackCfg d) 0 then 1 else 0) + (if flag h aTopResourcesMem 15 then 2 else 0)
  leBytes 4 0x4B524131 ++ leBytes 2 1 ++ leBytes 2 flags ++ leBytes 8 (256 + body + 16) ++ leBytes 8 (vdkInstance h) ++ leBytes 1 d ++
    leBytes 1 (dockMask h d) ++ leBytes 1 h.part.variant ++ leBytes 1 0 ++ leBytes 4 (tget [] h.dck.freeze d).length ++ leBytes 8 op.tick ++
    leBytes 8 (tget 0 h.txs.sliceVintage d).toNat ++ leBytes 16 (tget 0 h.txs.sliceDigest d).toNat ++ leBytes 2 op.slot ++ leBytes 2 0 ++
    leBytes 8 (rd64 h aVdkSaveCountLo) ++ leBytes 4 (vdkInstance h) ++ leBytes 4 (rd h (aVdkAllow0 d)).toNat ++
    leBytes 4 (rd h (aVdkAllow1 d)).toNat ++ leBytes 8 0 ++ (sectionPlaces secs 256).flatMap (fun e => leBytes 8 e.1 ++ leBytes 8 e.2) ++
    List.replicate 64 0

/-- The whole image, encrypted (R392). -/
def imageOf (m : Mem) (h : Hub) (op : RackOp) : List Byte :=
  let secs := imageSections m h op.dock
  let hdr := imageHeader h op secs
  let r := gcmSeal (slot h op.slot).key.toNat (beNat (toNats ((hdr.drop 68).take 12))) (toNats hdr) (toNats (secs.flatMap (padTo 64)))
  hdr ++ toBytes r.1 ++ toBytes (beBytes 16 r.2)

/-! ### Saving (R389, R390) -/

/-- Does a command hold one of the 16 copy channels (R88)? -/
def channelHeld (h : Hub) (cmd : Nat) : Bool := (h.mst.chan.take 16).contains cmd

def takeChannel (h : Hub) (cmd : Nat) : Hub := { h with mst := { h.mst with chan := h.mst.chan ++ [cmd] } }

def freeChannel (h : Hub) (cmd : Nat) : Hub := { h with mst := { h.mst with chan := h.mst.chan.filter (· ≠ cmd) } }

/-- Does an accepted transaction that is not applied touch a dock (R389)? -/
def dockPending (h : Hub) (d : Nat) : Bool :=
  (h.txs.queue ++ h.txs.delivering.toList).any (fun s => (touches h (projected h) s.recs).meets (scDock d))

/-- A racking operation starts. -/
def rackStart (h : Hub) (c : Cmd) (w : IW) (op : RackOp) : Hub :=
  beginWait (takeChannel { h with dck := { h.dck with ops := h.dck.ops ++ [op] } } c.id) c w .op

/-- A racking operation ends. -/
def rackEnd (h : Hub) (op : RackOp) : Hub :=
  let h := freeChannel { h with dck := { h.dck with ops := h.dck.ops.filter (fun o => decide (o.cmd ≠ op.cmd)) } } op.cmd
  if op.save then setFlag h (aVdkStatus op.dock) 8 (rackRuns h op.dock true) else h

/-- RACK.SAVE (R80, R389, R420). -/
def execRackSave (th : Fin 4) (s : State) : Ans :=
  s.actMem (fun m h => (m, onLong h th 0x45 (fun h c w =>
    let d := w.target
    let op : RackOp := ⟨c.id, d, true, w.x 0, w.operand, 0, tickNo h⟩
    if 1024 ≤ w.operand ∨ h.part.res.docks ≤ d ∨ !hubRangeOk h (w.x 0) (imageOf m h op).length then settle h c.id .invalid 0
    else if busDenied h (cmdPort h c) (w.x 0) then settle h c.id .denied 0
    else if dockState h d ≠ 3 then settle h c.id .denied 0
    else if !keyOk h w.operand 3 then settle h c.id .denied 0x0702
    else if 16 ≤ h.dck.ops.length then settle h c.id .busy 0
    else match oConflict h c (scDock d) with
      | some k => settle h c.id .conflict k
      | none => rackStart (setFlag h (aVdkStatus d) 8 true) c w op)))

/-- A save that fails has written some of the image, 4 KiB of it at a time (R389, R420). -/
def partialImage (m : Mem) (h : Hub) (p : Port) (addr : Nat) (image : List Byte) : Mem × Hub :=
  let n := (drawFree h).2.toNat % (image.length / 4096 + 1)
  writeHub m (drawFree h).1 p addr (image.take (4096 * n))

/-- SAVE_COMPLETE (R389, R420): the copy waits for its channel, for accepted transactions of the dock and for hold to end. -/
def saveComplete (d : Nat) (uncorr : Bool) (m : Mem) (h : Hub) : Mem × Hub :=
  match h.dck.ops.find? (fun o => decide (o.dock = d) && o.save) with
  | none => (m, h)
  | some op =>
    if !channelHeld h op.cmd || dockPending h d || (inHold h && !onBus op.addr) || (!cellarReady h && !onBus op.addr) then (m, h)
    else if !keyOk h op.slot 3 then
      -- what was written is under a key that is gone
      let bs := freeBytes (imageOf m h op).length h
      let r := partialImage m bs.1 (idPort h op.cmd) op.addr bs.2
      (r.1, settle (raise (rackEnd r.2 op) 0x0D 5 0 0) op.cmd .fault 0x0706)
    else
      let wins := if flag h (aVdkRackCfg d) 0 then windowsOf h h.regs d else []
      let port := idPort h op.cmd
      let h := wr64 h aVdkSaveCountLo (rd64 h aVdkSaveCountLo + 1)
      if uncorr ∨ wins.any (fun x => rangeBad h x.1 x.2) then
        let r := partialImage m h port op.addr (imageOf m h op)
        (r.1, settle (rackEnd r.2 op) op.cmd .fault 0)
      else
        let image := imageOf m h op
        if !hubRangeOk h op.addr image.length then (m, settle (rackEnd h op) op.cmd .invalid 0)
        else
          let h := moved h 4 false (wins.foldl (fun n x => n + x.2 / 64) 0)
          let r := writeHub m h port op.addr image
          let h := wr64 r.2 (aVdkImageLenLo d) image.length
          (r.1, settle (raise (rackEnd h op) 0x0C 1 d 0) op.cmd .ok image.length)

def execSaveComplete (d : Fin 64) (uncorr : Bool) (s : State) : Ans := s.actMem (saveComplete d.val uncorr)

/-! ### Restoring (R393-R395) -/

/-- RACK.RESTORE (R393, R420): the dock is restoring from now on. -/
def execRackRestore (th : Fin 4) (s : State) : Ans :=
  s.act (fun h => onLong h th 0x46 (fun h c w =>
    let d := w.target
    let st := dockState h d
    if !onlyBits w.operand 0x00FF03FF ∨ h.part.res.docks ≤ d ∨ !hubRangeOk h (w.x 0) 256 then settle h c.id .invalid 0
    else if busDenied h (cmdPort h c) (w.x 0) then settle h c.id .denied 0
    else if st ≠ 0 ∧ st ≠ 3 then settle h c.id .denied 0
    else if !keyOk h (w.o 0 10) 3 then settle h c.id .denied 0x0702
    else if 16 ≤ h.dck.ops.length then settle h c.id .busy 0
    else match oConflict h c (scDock d) with
      | some k => settle h c.id .conflict k
      | none => rackStart (setDockState h d 4) c w ⟨c.id, d, false, w.x 0, w.o 0 10, w.o 16 8, tickNo h⟩))

/-- Where a restore that fails leaves its dock: as it was. -/
def restoreFail (h : Hub) (op : RackOp) (st : Status) (detail : Nat) : Hub :=
  let h := { rackEnd h op with dck := { (rackEnd h op).dck with image := tdel h.dck.image op.dock } }
  settle (setDockState h op.dock (if dockCreated h op.dock then 3 else 0)) op.cmd st detail

/-- The sections of a plain image, by its header. -/
def imageSection (img : List Byte) (k : Nat) : List Byte := (img.drop (imageNat img (96 + 16 * k) 8)).take (imageNat img (104 + 16 * k) 8)

/-- The layout of an image (R391, R392): sections at 64-byte boundaries in their order, with their entry sizes. -/
def imageLayout (hdr : List Byte) : Bool :=
  let off := fun k => imageNat hdr (96 + 16 * k) 8
  let len := fun k => imageNat hdr (104 + 16 * k) 8
  let next := fun k => off k + (len k + 63) / 64 * 64
  decide (imageNat hdr 0 4 = 0x4B524131) && decide (imageNat hdr 4 2 = 1) && decide (off 0 = 256) &&
    (List.range 5).all (fun k => decide (off (k + 1) = next k)) && decide (imageNat hdr 8 8 = next 5 + 16) && decide (len 0 % 8 = 0) &&
    decide (len 1 = 16384) && decide (len 2 % 32 = 0) && decide (len 3 = 64 * imageNat hdr 28 4) && decide (len 4 % 8 = 0)

/-- Member k of one mask is member k of another. -/
def mapMember (old new_ n : Nat) : Nat :=
  if 8 ≤ n then n
  else match ((members old).zip (members new_)).find? (fun e => decide (e.1 = n)) with
    | some e => e.2
    | none => n

/-- A record of section 0 as a record of dock d under a new mask (R394). -/
def restoreRec (d old new_ : Nat) (x : Nat) : Nat × Word :=
  let a := shiftIx (dockAddr (x / 2 ^ 32) 0 d) .sp (mapMember old new_)
  let v := x % 2 ^ 32
  if a = aVdkCfg d then (a, W (putBits v 0 8 new_))
  else if 0x770000 ≤ a ∧ a < 0x774000 then (a, W (putBits (putBits v 8 6 d) 0 5 (mapMember old new_ (bitsOf v 0 5))))
  else (a, W v)

/-- The trunk mask of a restore. -/
def restoreMask (op : RackOp) (img : List Byte) : Nat := if op.mask = 0 then imageNat img 25 1 else op.mask

/-- The records of a restore (R394): a frozen dock's own return to reset, then those of the image, its ends, and routes that
name ends that change their trunk. -/
def restoreRecs (h : Hub) (op : RackOp) (img : List Byte) : Recs :=
  let d := op.dock
  let old := imageNat img 25 1
  let new_ := restoreMask op img
  let regs := projected h
  let mine := dockTrunkEnds regs d
  let own := if dockCreated h d then
      (slice h regs d).map (fun e => (e.1, resetVal h.part e.1)) ++ mine.flatMap (fun e => [(aTunT e.sp e.tid, 0), (aTunR e.sp e.tid, 0)])
    else []
  let s0 := imageSection img 0
  let recs := (List.range (s0.length / 8)).map (fun i => restoreRec d old new_ (imageNat s0 (8 * i) 8))
  let s2 := imageSection img 2
  let ends := (List.range (s2.length / 32)).flatMap (fun i =>
    let n := fun a k => imageNat s2 (32 * i + a) k
    let sp := mapMember old new_ (n 28 4)
    [(aTunT sp (n 0 2), W (putBits (n 4 4) 16 6 d)), (aTunR sp (n 0 2), W (n 24 4))])
  let routes := regs.filterMap (fun e =>
    if 0x510000 ≤ e.1 ∧ e.1 < 0x5D0000 ∧ e.1 % 8 = 4 then
      match mine.find? (fun x => decide (renameRoute e.2.toNat x.sp x.tid 31 ≠ e.2.toNat)) with
      | some x =>
        let r := renameRoute e.2.toNat x.sp x.tid (mapMember (dockMask h d) new_ x.sp)
        if r = e.2.toNat ∨ mine.any (fun y => decide (aTunR y.sp y.tid = e.1)) then none else some (e.1, W r)
      | none => none
    else none)
  stageRecs [] (own ++ routes ++ recs ++ ends)

/-- IMAGE_CHECKED (R393, R420): an image that passes its checks becomes an internal transaction. -/
def imageChecked (d : Nat) (uncorr : Bool) (m : Mem) (h : Hub) : Hub :=
  match h.dck.ops.find? (fun o => decide (o.dock = d) && !o.save) with
  | none => h
  | some op =>
    if !channelHeld h op.cmd || (tfind h.dck.image d).isSome || (!cellarReady h && !onBus op.addr) then h
    else
      let bad := fun (h : Hub) st detail => raise (restoreFail h op st detail) 0x0C 4 d 0
      let r0 := readHub m h op.addr 256
      let hdr := r0.2.1
      let len := imageNat hdr 8 8
      if uncorr ∨ !r0.2.2 then bad r0.1 .fault 0
      else if !imageLayout hdr ∨ !hubRangeOk h op.addr len then bad r0.1 .invalid 0x0621
      else if !keyOk h op.slot 3 then restoreFail (raise r0.1 0x0D 5 0 0) op .fault 0x0706
      else
        let r := readHub m r0.1 (op.addr + 256) (len - 256)
        let h := r.1
        let body := r.2.1.take (len - 272)
        if !r.2.2 then bad h .fault 0
        else match gcmOpen (slot h op.slot).key.toNat (beNat (toNats ((hdr.drop 68).take 12))) (toNats hdr) (toNats body)
            (beNat (toNats (r.2.1.drop (len - 272)))) with
          | none => bad h .invalid 0x0622
          | some plain =>
            let img := hdr ++ toBytes plain
            if bitOf (imageNat hdr 6 2) 1 ≠ flag h aTopResourcesMem 15 then bad h .invalid 0x0623
            else if op.mask ≠ 0 ∧ popcount 8 op.mask ≠ popcount 8 (imageNat hdr 25 1) then bad h .invalid 0x0624
            else
              let recs := restoreRecs h op img
              let wins := windowsOf h (lay h.part (projected h) recs) d
              if bitOf (imageNat hdr 6 2) 0 ∧ (imageSection img 5).length ≠ wins.foldl (fun n x => n + x.2) 0 then bad h .invalid 0x0621
              else
                let h := { h with dck := { h.dck with image := tput h.dck.image d img } }
                submit h (.internal (.restore d)) (idPort h op.cmd) recs (some op.cmd) [] []

def execImageChecked (d : Fin 64) (uncorr : Bool) (s : State) : Ans :=
  s.actMem (fun m h => (m, imageChecked d.val uncorr m h))

/-- Write the surfaces of an image into a dock's windows, in window order. -/
def writeSurfaces (m : Mem) (h : Hub) : List (Nat × Nat) → List Byte → Mem × Hub
  | [], _ => (m, h)
  | w :: ws, bs => writeSurfaces (writeCellar m h w.1 (bs.take w.2)) (unpoison (moved h 4 true (w.2 / 64)) w.1 w.2) ws (bs.drop w.2)

/-- The switch-over of a restore (R134, R394), after its records have been applied. -/
def restored (m : Mem) (h : Hub) (d : Nat) : Mem × Hub :=
  match tfind h.dck.image d, h.dck.ops.find? (fun o => decide (o.dock = d) && !o.save) with
  | some img, some op =>
    let old := imageNat img 25 1
    let f := mapMember old (restoreMask op img)
    let h := (dockFlush h d).1
    let h := loadHost (setFlag (setDockState h d 3) (aVdkStatus d) 9 true) d (imageSection img 1)
    let s2 := imageSection img 2
    let h := (List.range (s2.length / 32)).foldl (fun h i =>
      let n := fun a k => imageNat s2 (32 * i + a) k
      let k := endKey (f (n 28 4)) (n 0 2)
      { h with keys := { h.keys with
        pn := tset 1 h.keys.pn k (n 8 8)
        windows := tput h.keys.windows (k * 1024 + n 2 2) ⟨n 16 8, 2 ^ 64 - 1⟩ } }) h
    let s3 := imageSection img 3
    let reqs := (List.range (s3.length / 64)).map (fun i => bytesFrozen d f ((s3.drop (64 * i)).take 64))
    let h := { h with
      dck := { h.dck with
        freeze := tset [] h.dck.freeze d reqs
        image := tdel h.dck.image d
        foreign := tset false h.dck.foreign d (decide (imageNat img 16 8 ≠ vdkInstance h)) }
      txs := { h.txs with sliceVintage := tset 0 h.txs.sliceVintage d (BitVec.ofNat 64 (imageNat img 40 8 + 1)) } }
    let s4 := imageSection img 4
    let h := (bytesPackets (s4.length / 24 + 1) s4).foldl (joinRestored d f) h
    let h := wr64 (wr h (aVdkRackStatus d) (W reqs.length)) (aVdkImageLenLo d) (imageNat img 8 8)
    let r := if bitOf (imageNat img 6 2) 0 then writeSurfaces m h (windowsOf h h.regs d) (imageSection img 5) else (m, h)
    (r.1, raise (rackEnd r.2 op) 0x0C 2 d 0)
  | _, _ => (m, h)

/-! ### Thawing and the other switch-overs (R377, R384, R395, R397) -/

/-- RACK.THAW (R397). -/
def execRackThaw (th : Fin 4) (s : State) : Ans :=
  s.act (fun h => onLong h th 0x47 (fun h c w =>
    let d := w.target
    if w.operand ≠ 0 ∨ h.part.res.docks ≤ d then settle h c.id .invalid 0
    else if dockState h d ≠ 3 ∨ rackRuns h d true then settle h c.id .denied 0
    else match oConflict h c (scDock d) with
      | some k => settle h c.id .conflict k
      | none => beginWait (submit h (.internal (.thaw d)) (cmdPort h c) [] (some c.id) [] []) c w .op))

/-- A recorded request goes on at thaw (R388, R395, R397): a read anew, what is no read with Completer Abort, one whose port has
left L0 or whose device is another hub's with Unsupported Request. -/
def reissue (foreign : Bool) (h : Hub) (f : Frozen) : Hub :=
  let g := f.tag
  if !f.read then cplTag h g 4
  else if f.lost ∨ (foreign ∧ !g.toHost) then cplTag h g 1
  else if 8 ≤ g.retSp then
    match portEnd h g.retSp with
    | some e => devNp h (g.retSp - 8) e g.tlp false
    | none => h
  else match resolveEnd h g.retSp g.retTid with
    | some e => hostNp h e.sp e (plainHdr 1 e.tid 1 0 0 0) g.tlp false
    | none => h

/-- The switch-over of a thaw (R397). -/
def thawed (h : Hub) (d : Nat) : Hub :=
  let foreign := tget false h.dck.foreign d
  let l := tget [] h.dck.freeze d
  let h := setFlag (setDockState h d 1) (aVdkStatus d) 9 false
  let h := { h with dck := { h.dck with freeze := tset [] h.dck.freeze d [], foreign := tset false h.dck.foreign d false } }
  let h := l.foldl (reissue foreign) h
  let h := if foreign then
      (List.range 16).foldl (fun h u => match usbAssign h u with
        | some (e, v) => if e = d then usbAnew h u d v else h
        | none => h) h
    else h
  let h := dockStateAll h (dockMask h d) d 3
  let h := hfEvent h d 0x08 ((tget 0 h.txs.sliceVintage d).toNat % 2 ^ 32)
  let devs := h.tun.devs.filter (fun e => decide (e.2.dock = d) && decide (e.2.kind ≠ 3))
  let h := devs.foldl (fun h e => hfEvent h d 0x03 (e.1 + e.2.kind * 1024)) h
  raise h 0x0C 3 d 0

/-- The switch-over that creates a dock (R377). -/
def created (h : Hub) (d : Nat) : Hub :=
  let h := usbDefault (hostDefault (clearPel (setDockState h d 1) d) d) d
  dockStateAll h (dockMask h d) d 1

/-- The switch-over that destroys a dock with the given old mask (R384): stations are forgotten. -/
def destroyed (h : Hub) (d mask : Nat) : Hub :=
  let h := { h with
    dck := { h.dck with freeze := tset [] h.dck.freeze d [], foreign := tset false h.dck.foreign d false }
    tun := { h.tun with devs := h.tun.devs.filter (fun e => !(decide (e.2.kind = 3) && decide (e.2.dock = d))) } }
  let h := hostDefault (wr h (aVdkStatus d) 0) d
  raise (dockStateAll h mask d 4) 0x0C 5 d 0

end Sys2Proof.Machine
end

