-- ==== Sys2Proof/Machine/Display.lean ====
section
/-!
DEFINITION. Display outputs (chapter 11): link training, pending records and the latch, fetch demand, and the rules that
validation applies to display records. What the fault manager must know of a training is handed back to it.
-/
namespace Sys2Proof.Machine

/-- Do two address ranges of bytes meet? -/
def rangesMeet (a n b m : Nat) : Bool := decide (0 < n) && decide (0 < m) && decide (a < b + m) && decide (b < a + n)

/-- Does a range lie inside another? -/
def rangeIn (a n b m : Nat) : Bool := decide (b ≤ a) && decide (a + n ≤ b + m)

/-! ### Timing (R341-R343) -/

def hTotal (g : Look) (o : Nat) : Nat :=
  bitsOf (g (aDspH0 o)) 0 16 + bitsOf (g (aDspH0 o)) 16 16 + bitsOf (g (aDspH1 o)) 0 16 + bitsOf (g (aDspH1 o)) 16 16

def vTotal (g : Look) (o : Nat) : Nat :=
  bitsOf (g (aDspV0 o)) 0 16 + bitsOf (g (aDspV0 o)) 16 16 + bitsOf (g (aDspV1 o)) 0 16 + bitsOf (g (aDspV1 o)) 16 16

def pclk (g : Look) (o : Nat) : Nat := g (aDspPclk o)

/-- Period of FRn in units of 2^-16 ns. -/
def frPeriod (g : Look) (o : Nat) : Nat := g (aTimFrPeriodLo o) + bitsOf (g (aTimFrPeriodHi o)) 0 16 * 2 ^ 32

/-- Line time as a fraction of a nanosecond: numerator and denominator (R338, R343). -/
def lineTime (g : Look) (o : Nat) : Nat × Nat :=
  if bitOf (g (aDspTctl o)) 5 then (frPeriod g o, vTotal g o * 65536) else (hTotal g o * 1000000, pclk g o)

/-- Does a timing break R341? -/
def timingBad (g : Look) (o : Nat) : Bool :=
  let h := [bitsOf (g (aDspH0 o)) 0 16, bitsOf (g (aDspH0 o)) 16 16, bitsOf (g (aDspH1 o)) 0 16, bitsOf (g (aDspH1 o)) 16 16]
  let v := [bitsOf (g (aDspV0 o)) 0 16, bitsOf (g (aDspV0 o)) 16 16, bitsOf (g (aDspV1 o)) 0 16, bitsOf (g (aDspV1 o)) 16 16]
  decide (hActive g o < 320) || decide (8192 < hActive g o) || h.any (fun x => decide (x % 4 ≠ 0)) ||
    decide (vActive g o < 200) || decide (8192 < vActive g o) || (h.drop 1 ++ v.drop 1).any (fun x => decide (x = 0)) ||
    decide (pclk g o < 25000) || decide (4800000 < pclk g o) || bitOf (g (aDspTctl o)) 4 ||
    decide ((vTotal g o - vActive g o) * hTotal g o * 1000 < 200 * pclk g o)

def bpc (g : Look) (o : Nat) : Nat := if bitOf (g (aDspTctl o)) 8 then 10 else 8

/-- Do the DSC parameters break R341? -/
def dscBad (g : Look) (o : Nat) : Bool :=
  let s := bitsOf (g (aDspDsc0 o)) 16 5
  let b := bitsOf (g (aDspDsc0 o)) 0 10
  let sh := bitsOf (g (aDspDsc1 o)) 0 16
  bitOf (g (aDspTctl o)) 1 &&
    (!([1, 2, 4, 8, 16] : List Nat).contains s || decide (b < 96) || decide (48 * bpc g o < b) || decide (sh = 0) ||
      decide (vActive g o % max 1 sh ≠ 0) || decide (s * 1200000 < pclk g o) || decide (hActive g o % max 1 s ≠ 0))

/-- Does FR_LOCK break R343: FRn off, or the frame off its period by more than 1,000 ppm? -/
def frLockBad (g : Look) (o : Nat) : Bool :=
  let p := frPeriod g o
  let f := hTotal g o * vTotal g o * 1000000 * 65536
  bitOf (g (aDspTctl o)) 5 &&
    (!bitOf (g (aTimFrCfg o)) 0 || decide (p * pclk g o * 1001 < f * 1000) || decide (f * 1000 < p * pclk g o * 999))

/-! ### Layers (R335-R340) -/

/-- Spill region of a configuration in bytes. -/
def spillRange (g : Look) : Nat × Nat := (bitsOf (g aSwcSpill) 0 10 * 2 ^ 26, bitsOf (g aSwcSpill) 16 7 * 2 ^ 26)

/-- Aperture window w of a dock: cellar address, BAR2 offset and size in bytes (R332). -/
def apWindow (g : Look) (d w : Nat) : Nat × Nat × Nat :=
  (bitsOf (g (aDspApBase d w)) 0 20 * 65536, bitsOf (g (aDspApOffset d w)) 0 20 * 65536, bitsOf (g (aDspApSize d w)) 0 21 * 65536)

/-- The byte ranges that a layer reads. -/
def layerRanges (l : Layer) : List (Nat × Nat) :=
  let bpp := if l.fmt = 3 then 2 else fmtBytes l.fmt
  let plane := fun (a x y w n b : Nat) => (a + y * l.stride + x * b, (n - 1) * l.stride + w * b)
  plane l.addr l.sx l.sy l.sw l.sh bpp ::
    (if l.fmt = 3 then [plane (l.addr + l.uv) (l.sx / 2) (l.sy / 2) (l.sw / 2) (l.sh / 2) 4] else [])

/-- Enabled layers of present outputs (R336). -/
def enginesUsed (p : Part) (g : Look) : Nat :=
  ((List.range p.res.outputs).flatMap (fun o => (List.range 8).map (fun k => (o, k)))).foldl (fun n e =>
    if bitOf (g (aDspLayerCtl e.1 e.2)) 0 then n + 1 else n) 0

/-- The block reason code of an enabled layer, if it breaks a rule (R335-R340, R350). -/
def layerBad (h : Hub) (g : Look) (o k : Nat) : Option Nat :=
  let l := layerAt g o k
  let inst := installedBytes h
  let t := lineTime g o
  let ok1 := fun (v : Nat) => decide (1 ≤ v) && decide (v ≤ 8192)
  let ratioOk := fun (d s : Nat) => decide (s ≤ 4 * d) && decide (d ≤ 16 * s)
  let inArea := decide (0 ≤ l.dx) && decide (0 ≤ l.dy) && decide (l.dx + l.dw ≤ hActive g o) && decide (l.dy + l.dh ≤ vActive g o)
  if !l.en then none
  else if 48 < enginesUsed h.part g then some 0x01
  else if 4 ≤ l.fmt ∨ (l.cursor ∧ (k ≠ 7 ∨ l.fmt = 3 ∨ 256 < l.sw ∨ 256 < l.sh ∨ l.dw ≠ l.sw ∨ l.dh ≠ l.sh)) then some 0x02
  else if l.addr % 256 ≠ 0 ∨ 2 ^ 63 ≤ l.addr ∨ l.stride % 256 ≠ 0 ∨ 262144 < l.stride ∨
      l.stride < (l.sx + l.sw) * fmtBytes l.fmt ∨ l.uv % 256 ≠ 0 then some 0x03
  else if (layerRanges l).any (fun r => !rangeIn r.1 r.2 0 inst || rangesMeet r.1 r.2 (spillRange g).1 (spillRange g).2) ||
      (l.owned && !(List.range 16).any (fun w =>
        (layerRanges l).all (fun r => rangeIn r.1 r.2 (apWindow g l.dock w).1 (apWindow g l.dock w).2.2))) then some 0x04
  else if !(ok1 l.sw && ok1 l.sh && ok1 l.dw && ok1 l.dh) || !(l.cursor || inArea) ||
      !(ratioOk l.dw l.sw && ratioOk l.dh l.sh) ||
      (decide (l.fmt = 3) && [l.sx, l.sy, l.sw, l.sh].any (fun v => decide (v % 2 = 1))) then some 0x05
  else if (l.dh ≠ l.sh ∧ vTaps l = none) ∨ l.sw * l.sh * t.2 * 5 > 24 * t.1 * l.dh then some 0x06
  else none

/-- Does an enabled check window break R348 or its own fields (R350)? -/
def checkBad (g : Look) (o w : Nat) : Bool :=
  let c := g (aDspChkCtl o w)
  let x := bitsOf (g (aDspChkXy o w)) 0 16
  let y := bitsOf (g (aDspChkXy o w)) 16 16
  let ww := bitsOf (g (aDspChkWh o w)) 0 16
  let wh := bitsOf (g (aDspChkWh o w)) 16 16
  bitOf c 0 && (decide (2 ≤ bitsOf c 2 2) || decide (bitsOf c 8 8 = 0) || decide (ww = 0) || decide (wh = 0) ||
    decide (hActive g o < x + ww) || decide (vActive g o < y + wh))

/-- Does an aperture window break R332? -/
def apertureBad (h : Hub) (g : Look) (d w : Nat) : Bool :=
  let x := apWindow g d w
  let aper := bitsOf (g (aTunHfCfg d)) 0 6
  decide (x.2.2 ≠ 0) &&
    (decide ((if aper = 0 then 0 else 2 ^ aper) < x.2.1 + x.2.2) || decide (installedBytes h < x.1 + x.2.2) ||
      rangesMeet x.1 x.2.2 (spillRange g).1 (spillRange g).2 ||
      (List.range 16).any (fun v => decide (v ≠ w) && rangesMeet x.2.1 x.2.2 (apWindow g d v).2.1 (apWindow g d v).2.2) ||
      (List.range 64).any (fun e => decide (e ≠ d) && (List.range 16).any (fun v =>
        rangesMeet x.1 x.2.2 (apWindow g e v).1 (apWindow g e v).2.2)))

/-! ### Fetch demand (R346) -/

/-- Rate of a layer in bytes per second (R346). -/
def layerRate (g : Look) (o : Nat) (l : Layer) : Frac :=
  let t := lineTime g o
  frac ((lineBytes l * l.sh * t.2 * 1000000000 : Nat) : Int) (l.dh * t.1)

/-- DSP_DEMAND before rounding: the largest sum over a destination line; it is reached on the first line of some layer. -/
def outputDemand (g : Look) (o : Nat) : Frac :=
  let ls := ((List.range 8).map (layerAt g o)).filter (fun l => l.en && decide (0 < l.dh))
  let on := fun (y : Int) => ls.foldl (fun s l =>
    if l.dy ≤ y ∧ y < l.dy + l.dh then fracAdd s (layerRate g o l) else s) (fracOf 0)
  ls.foldl (fun m l => fracMax m (on (max 0 l.dy))) (fracOf 0)

/-- A rate in units of 100 MB/s, rounded up. -/
def rateUnits (f : Frac) : Nat := ((f.num + (f.den * 100000000 - 1 : Nat)) / ((f.den * 100000000 : Nat) : Int)).toNat

/-- Is an output's timing enabled on a present output in service: scanning, by R126? -/
def scanIn (h : Hub) (g : Look) (o : Nat) : Bool :=
  decide (o < h.part.res.outputs) && bitOf (g (aDspTctl o)) 0 && !retired h 4 o

def scanning (h : Hub) (o : Nat) : Bool := scanIn h (active h) o

def totalDemand (h : Hub) (g : Look) : Nat :=
  rateUnits ((List.range 8).foldl (fun s o => if scanIn h g o then fracAdd s (outputDemand g o) else s) (fracOf 0))

/-- Compute the demand registers, the engines in use, and OVER_BUDGET where the total rises above RESERVE (R336, R346). -/
def demandUpdate (h : Hub) : Hub :=
  let g := active h
  let before := (rd h aDspTotalDemand).toNat
  let h := (List.range h.part.res.outputs).foldl (fun h o => wr h (aDspDemand o) (W (rateUnits (outputDemand g o)))) h
  let h := ((List.range h.part.res.outputs).flatMap (fun o => (List.range 8).map (fun k => (o, k)))).foldl (fun h e =>
    setFlag h (aDspLayerStatus e.1 e.2) 0 (bitOf (g (aDspLayerCtl e.1 e.2)) 0)) h
  let total := totalDemand h g
  let h := wr (wr h aDspTotalDemand (W total)) aDspEngines (W (enginesUsed h.part g))
  let reserve := fld h aDspCfg 0 16
  if before ≤ reserve ∧ reserve < total then
    (List.range 8).foldl (fun h o => if scanning h o then raise h 0x0A 5 o 0 else h) h
  else h

/-- The block reason code of a record at an address in a projected configuration (R350). -/
def dspRecordBad (h : Hub) (regs : Tab Word) (a : Nat) : Option Nat :=
  let g := cfg h regs
  let o := (a - 0x800000) / 0x10000
  let off := (a - 0x800000) % 0x10000
  let layers := fun (o : Nat) => (List.range 8).findSome? (layerBad h g o)
  let total := if bitOf (g aDspCfg) 31 && decide (bitsOf (g aDspCfg) 0 16 < totalDemand h g) then some 0x0C else none
  if 0x800000 ≤ a ∧ a < 0x880000 then
    if off < 0x100 then
      let en := bitOf (g (aDspTctl o)) 0
      if en ∧ 0x10 ≤ off ∧ off ≤ 0x30 ∧ off ≠ 0x28 ∧ timingBad g o then some 0x07
      else if en ∧ 0x10 ≤ off ∧ off ≤ 0x30 ∧ off ≠ 0x28 ∧ frLockBad g o then some 0x08
      else if en ∧ 0x10 ≤ off ∧ off ≤ 0x30 ∧ off ≠ 0x28 ∧ dscBad g o then some 0x09
      else match layers o with
        | some c => some c
        | none => if (List.range 16).any (checkBad g o) then some 0x0A else total
    else if off < 0x300 then (layerBad h g o ((off - 0x100) / 0x40)).orElse (fun _ => total)
    else if 0x400 ≤ off ∧ off < 0x600 then if checkBad g o ((off - 0x400) / 0x20) then some 0x0A else none
    else none
  else if a = aDspCfg then if 2000 < bitsOf (g a) 0 16 then some 0x0C else total
  else if 0x881000 ≤ a ∧ a < 0x885000 then
    let d := (a - 0x881000) / 0x100
    if apertureBad h g d ((a - 0x881000) % 0x100 / 0x10) then some 0x0B
    else if ((List.range 8).flatMap (fun o => (List.range 8).map (layerAt g o))).any (fun l => l.en && l.owned && decide (l.dock = d)) then
      (List.range 8).findSome? layers
    else none
  else if aTimFrPeriodLo 0 ≤ a ∧ a < aTimFrPeriodLo 8 then
    let n := (a - aTimFrPeriodLo 0) / 0x20
    if bitOf (g (aDspTctl n)) 0 && frLockBad g n then some 0x08 else none
  else none

/-! ### Link training (R326-R330) -/

/-- Lanes that R209 allows an output: 4, 2, 1 or none. -/
def lanesAllowed (h : Hub) (o : Nat) : Nat :=
  let r := fun (k : Nat) => laneRetired h (32 + 4 * o + k)
  if r 0 then 0 else if r 1 then 1 else if r 2 || r 3 then 2 else 4

/-- 4-lane payload of a rate in units of 10 Mbit/s (R327). -/
def payload (rate : Nat) : Nat :=
  match rate with
  | 0 => 2592
  | 1 => 3869
  | 2 => 5223
  | _ => 7737

/-- Does a stream fit a trained link (R327)? -/
def streamFits (g : Look) (o rate lanes : Nat) : Bool :=
  let b16 := if bitOf (g (aDspTctl o)) 1 then bitsOf (g (aDspDsc0 o)) 0 10 else 48 * bpc g o
  decide (pclk g o * b16 * 4 ≤ payload rate * 10000 * 16 * lanes)

/-- PRE and POST for a pre-emphasis level at 8b/10b or a preset at 128b/132b (R329). -/
def sinkFfe (rate level : Nat) : Nat × Nat :=
  if rate = 0 then
    match min level 3 with
    | 0 => (0, 0)
    | 1 => (0, 10)
    | 2 => (0, 16)
    | _ => (0, 21)
  else
    (([(0, 0), (0, 4), (0, 8), (0, 12), (0, 16), (3, 0), (4, 0), (3, 8), (4, 8), (5, 0), (0, 20), (2, 10), (2, 14), (3, 12),
      (4, 12), (5, 16)] : List (Nat × Nat))[level]?).getD (0, 0)

/-- Symbol rate of a DisplayPort lane in MBd. -/
def dspBaud (rate : Nat) : Nat :=
  match rate with
  | 0 => 8100
  | 1 => 10000
  | 2 => 13500
  | _ => 20000

/-- Set the state of the lanes of an output; lane j < n carries data, the others idle (R196). -/
def dspLanes (h : Hub) (o n rate : Nat) (levels : Nat) : Hub :=
  (List.range 4).foldl (fun h k =>
    let l := 32 + 4 * o + k
    if laneRetired h l then h
    else if k < n then
      let e := sinkFfe rate (bitsOf levels (4 * k) 4)
      laneSet (setFfe h l (e.1 * 2 ^ 16 + (63 - e.1 - e.2) * 2 ^ 8 + e.2)) l 2 (dspBaud rate) false
    else laneTo h l (if n = 0 then 3 else 0)) h

def dspState (h : Hub) (o : Nat) : Nat := fld h (aDspStatus o) 28 3

/-- The link of an output is gone; STATE becomes st. -/
def dspDown (h : Hub) (o st : Nat) : Hub :=
  let h := setFld (setFld (setFld h (aDspStatus o) 28 3 st) (aDspStatus o) 20 3 0) (aDspStatus o) 16 3 0
  dspLanes (setFlag h (aDspStatus o) 24 false) o 0 0 0

/-- Does the trained link carry the stream: STATE 3, or UNFIT (R327, R328). -/
def dspFit (h : Hub) (o : Nat) : Hub :=
  let g := active h
  let s := tget ⟨0, false, 0, 0, 0⟩ h.dsp.sink o
  let dsc := bitOf (g (aDspTctl o)) 1
  if streamFits g o (fld h (aDspStatus o) 16 3) (fld h (aDspStatus o) 20 3) && (!dsc || s.dsc) then
    setFlag (setFld h (aDspStatus o) 28 3 3) (aDspStatus o) 24 dsc
  else raise (setFlag (setFld h (aDspStatus o) 28 3 4) (aDspStatus o) 24 false) 0x0A 1 o 0

/-- Rates and lane counts in the order of R328, from the highest rate that LINK_RATE and the sink allow. -/
def trainOrder (cap : Nat) (rates lanes : Nat) : List (Nat × Nat) :=
  let rs := ([3, 2, 1, 0] : List Nat).filter (fun r => decide (r ≤ cap) && bitOf rates r)
  ([4, 2, 1] : List Nat).flatMap (fun n => if n ≤ lanes then rs.map (fun r => (r, n)) else [])

/-- Train an output with the sink as last reported (R328): it counts once, and the lanes that take part and are reported
failed are handed back, each counted in LANE_CNT_TRAIN_FAIL with its run of R208. -/
def dspTrain (h : Hub) (o : Nat) : Hub × List Nat :=
  let n := lanesAllowed h o
  if !scanning h o then (h, [])
  else if !flag h (aDspStatus o) 27 ∨ n = 0 then (dspDown h o 1, [])
  else
    let s := tget ⟨0, false, 0, 0, 0⟩ h.dsp.sink o
    let cap := bitsOf (active h (aDspTctl o)) 2 3
    let h := count h (aDspCntRetrain o) 1
    let bad := (List.range n).filter (fun k => bitOf s.failed.toNat k)
    let h := (List.range n).foldl (fun h k =>
      let l := 32 + 4 * o + k
      if bitOf s.failed.toNat k then
        let h := count h (aLaneCntTrainFail l) 1
        { h with dsp := { h.dsp with fails := tmod 0 h.dsp.fails l (· + 1) } }
      else { h with dsp := { h.dsp with fails := tset 0 h.dsp.fails l 0 } }) h
    let log := fun (n : Nat) => if n = 4 then 2 else if n = 2 then 1 else 0
    match (trainOrder cap s.rates.toNat n).find? (fun e => bitOf s.ok.toNat (3 * e.1 + log e.2)) with
    | none => (dspDown h o 1, bad.map (32 + 4 * o + ·))
    | some (r, m) =>
      let h := setFld (setFld h (aDspStatus o) 20 3 m) (aDspStatus o) 16 3 r
      (dspFit (dspLanes h o m r s.levels.toNat) o, bad.map (32 + 4 * o + ·))

/-! ### Pending records and the latch (R126, R342, R345) -/

/-- The output of a record of an output window. -/
def dspOutput (a : Nat) : Option Nat := if 0x800000 ≤ a ∧ a < 0x880000 then some ((a - 0x800000) / 0x10000) else none

/-- The timing records of an output (R342). -/
def timingAddrs (o : Nat) : List Nat :=
  [aDspTctl o, aDspH0 o, aDspH1 o, aDspV0 o, aDspV1 o, aDspPclk o, aDspDsc0 o, aDspDsc1 o]

def setDspVint (h : Hub) (o v : Nat) : Hub := wr64 h (aTrnDspVintLo o) v

/-- Every pending record of an output becomes active; TRN_DSP_VINTn follows (R345). -/
def takePending (h : Hub) (o : Nat) : Hub :=
  let h := match tfind h.dsp.vint o with
    | some v => setDspVint h o v
    | none => h
  let h := setFlag h (aDspStatus o) 26 false
  { h with dsp := { h.dsp with
    held := h.dsp.held.filter (fun e => decide (dspOutput e.1 ≠ some o)), vint := tdel h.dsp.vint o } }

/-- The output stops (R342, R196): off, or retired. -/
def dspStop (h : Hub) (o : Nat) : Hub :=
  let h := setFlag (dspDown h o (if retired h 4 o then 5 else 0)) (aDspStatus o) 25 false
  { h with dsp := { h.dsp with frames := tset 0 h.dsp.frames o 0 } }

/-- The records of an output take effect, with the timing that was active before: a start, a stop, or a mode set that
retrains when the rate or DSC setting needs it (R342). The flag asks for a training. -/
def dspMode (h : Hub) (o tctl : Nat) (was : Bool) : Hub × Bool :=
  let now := active h (aDspTctl o)
  if !scanning h o then (if was then dspStop h o else h, false)
  else
    let h := setFlag { h with dsp := { h.dsp with frames := tset 0 h.dsp.frames o 0 } } (aDspStatus o) 25 false
    let linked := decide (fld h (aDspStatus o) 20 3 ≠ 0)
    if !was ∨ !linked ∨ bitsOf tctl 1 4 ≠ bitsOf now 1 4 then (h, true) else (dspFit h o, false)

/-- Display records of a switch-over (R126): those of a scanning output enter its pending copy, the others take effect at
once. `old` is the configuration before; the outputs to train are handed back. -/
def dspTake (h : Hub) (old : Tab Word) (addrs : List Nat) (vintage : Nat) : Hub × List Nat :=
  let outs := (List.range 8).filter (fun o => addrs.any (fun a => decide (dspOutput a = some o)))
  let wasOn := fun (h : Hub) (o : Nat) =>
    decide (o < h.part.res.outputs) && !retired h 4 o &&
      bitOf (match tfind h.dsp.held (aDspTctl o) with
        | some v => v.toNat
        | none => cfg h old (aDspTctl o)) 0
  let r := outs.foldl (fun (r : Hub × List Nat) o =>
    let h := r.1
    if wasOn h o then
      let held := (addrs.filter (fun a => decide (dspOutput a = some o))).foldl (fun t a =>
        if (tfind t a).isSome then t else tput t a (W (cfg h old a))) h.dsp.held
      let h := { h with dsp := { h.dsp with held := held, vint := tput h.dsp.vint o vintage } }
      (setFlag h (aDspStatus o) 26 true, r.2)
    else
      let m := dspMode (setDspVint h o vintage) o 0 false
      (m.1, if m.2 then r.2 ++ [o] else r.2)) (h, [])
  (demandUpdate r.1, r.2)

/-- An output is retired: it applies what waits for its latch and stops (R473). -/
def dspRetire (h : Hub) (o : Nat) : Hub := demandUpdate (dspStop (takePending h o) o)

end Sys2Proof.Machine
end

