-- ==== Sys2Proof/Machine/Faults.lean ====
section
/-!
DEFINITION. The fault manager (chapter 17): error buckets, retirement with its effects in the blocks and its chains, leaks,
RES.RESTORE and the hold-off of messages.
-/
namespace Sys2Proof.Machine

/-- Is resource i of class c present (R7, R470, R498)? -/
def resPresent (h : Hub) (c i : Nat) : Bool :=
  decide (i < classCount c) && indexPresent h.part.res (classKind c) i

def threshold (h : Hub) (c : Nat) : Nat := fld h (aFltClassCfg c) 16 16
def bucketLevel (h : Hub) (c i : Nat) : Nat := fld h (aFltBkt c i) 0 16

/-- What the fault manager has still to do: add a weight (for a state group, found in a bank), retire a resource with cause and
DETAIL, retire a bank of a state group, act on a hard detection of a lane, train an output. -/
inductive FAct where
  | add (cls idx weight bank : Nat)
  | retire (cls idx cause detail : Nat)
  | stateBank (g bank cause : Nat)
  | hard (lane : Nat)
  | train (o : Nat)
deriving DecidableEq, Repr

/-- Add a weight to a bucket (R471, R472): warn at half the threshold, retire at it. THRESHOLD 0 does neither. -/
def bucketAdd (h : Hub) (c i weight bank : Nat) : Hub × List FAct :=
  let t := threshold h c
  let lost := decide (c = 9) && flag h aMemRetiredBanks (16 + i) && decide (t ≠ 0) && decide (t ≤ bucketLevel h c i)
  if weight = 0 ∨ !resPresent h c i ∨ (c ≠ 9 ∧ retired h c i) ∨ lost then (h, [])
  else
    let lv := min 65535 (bucketLevel h c i + weight)
    let h := setFld h (aFltBkt c i) 0 16 lv
    let h := if t ≠ 0 ∧ !flag h (aFltBkt c i) 16 ∧ (t + 1) / 2 ≤ lv then
        faultRecord (setFlag h (aFltBkt c i) 16 true) 5 0 c i 0 lv
      else h
    if t ≠ 0 ∧ t ≤ lv then (h, [if c = 9 then .stateBank i bank 0 else .retire c i 0 0]) else (h, [])

/-- A lane of a trunk that has been retired leaves the stripe set: by handshake, or at once through RECOVERY; the last lane takes the
link down. A lane outside the set only stays out, in a training too (R173, R209). -/
def laneOut (h : Hub) (l : Nat) (graceful : Bool) (waiter : Option Nat) : Hub :=
  let n := l / 4
  let k := l % 4
  let set := stripeSet h n
  if !bitOf set k then
    let h := modTrk (laneTo h l 5) n (fun t => { t with chosen := t.chosen &&& (15 ^^^ 2 ^ k) })
    if 4 ≤ trkState h n ∧ trkState h n ≤ 6 ∧ (trk h n).chosen = 0 then toDetect h n else h
  else if set = 2 ^ k then laneTo (toDetect (linkDown h n) n) l 5
  else if graceful then askChange (leaveIdle h n) n false k waiter
  else toRecovery (removeLanes h n (2 ^ k)) n

/-- What the retirement of a lane of a port other than a trunk does (R209): the fault actions that follow. -/
def laneEffect (h : Hub) (l : Nat) : Hub × List FAct :=
  let h := laneTo h l 5
  if l < 64 then
    let o := (l - 32) / 4
    let h := { h with dsp := { h.dsp with fails := tset 0 h.dsp.fails l 0 } }
    if l % 4 = 0 then (h, [.retire 4 o 4 l])
    else if lanesAllowed h o < fld h (aDspStatus o) 20 3 then (h, [.train o]) else (h, [])
  else if l < 80 then
    let p := (l - 64) / 2
    if laneRetired h (64 + 2 * p) && laneRetired h (65 + 2 * p) then (h, [.retire 5 p 4 l])
    else if pcieUp h p then
      ({ h with
          lns := { h.lns with x1 := tput h.lns.x1 p h.tim.edges }
          tun := { h.tun with plinks := tmod ⟨false, 0, 0⟩ h.tun.plinks p (fun x => { x with width := 1 }) } }, [])
    else (h, [])
  else if l < 84 then (h, [.retire 7 (l - 80) 4 l])
  else if 4 ≤ usbSpeed h (l - 84) then (usbDisconnect (l - 84) h, [])
  else (h, [])

/-- The units that reserve cellar bandwidth (R449). -/
def reserveSum (g : Look) : Nat := bitsOf (g aDspCfg) 0 16 + bitsOf (g aMemBwCfg0) 0 16 + bitsOf (g aMemBwCfg0) 16 16 + bitsOf (g aMemBwCfg1) 0 16

/-- Set MEM_CAPACITY for the channels in service (R447). -/
def setCapacity (h : Hub) : Hub :=
  let c := 300 * ((chanMap h).filter (fun c => !flag h aMemCellarStatus (16 + c))).length
  wr h aMemCapacity (W ((c - 21) * 2 ^ 16 + c))

/-- The effects of a retirement in its block (R473), for a class other than 9; `h` has the resource's bits set. -/
def retireEffect (h : Hub) (c i : Nat) (graceful : Bool) : Hub × List FAct :=
  match c with
  | 0 =>
    let h := setFlag h (aLaneRetired (i / 32)) (i % 32) true
    if i < 32 then (laneOut h i graceful none, []) else laneEffect h i
  | 1 =>
    let before := sharedFree h
    let h := setFlag h (aMemRetiredCask (i / 32)) (i % 32) true
    let h := { h with swc := { h.swc with lost := (packetsOfCask h i).foldl (fun t id => tset false t id true) h.swc.lost } }
    (lowCheck before (raise h 0x0E 2 0 0), [])
  | 2 =>
    let h := raise (setFlag h aMemRetiredBanks i true) 0x0E 2 0 0
    if flag h aMemDpFallback 31 then (moved h 5 true 1024, [])
    else
      let h := if i < 12 then stopRun h none else h
      let h := raise h 0x0E 4 0 0
      ({ h with mst := { h.mst with dpLost := h.mst.dpLost ||| 2 ^ i } }, [])
  | 3 =>
    let h := setCapacity (setFld (setFlag h aMemCellarStatus (16 + i) true) (aMemChStatus i) 29 3 4)
    let h := raise h 0x0E 5 0 0
    (if fld h aMemCapacity 16 16 < reserveSum (fun a => (rd h a).toNat) then raise h 0x0E 6 0 0 else h, [])
  | 4 => (dspRetire h i, [])
  | 5 =>
    let h := pcieLinkDown i h
    (laneRest (laneRest h (64 + 2 * i) 3) (65 + 2 * i) 3, [])
  | 6 => (let h := usbDisconnect i h; if i < 12 then laneRest h (84 + i) 3 else h, [])
  | 7 =>
    let h := { h with tun := { h.tun with ethUp := h.tun.ethUp &&& ~~~(BitVec.ofNat 4 (2 ^ i)) } }
    (laneRest h (80 + i) 3, [])
  | _ => (setFlag (setFld h (aPwrPwcStatus i) 29 3 5) (aPwrPwcStatus i) 28 false, [])

/-- Retire a resource (R473, R474): its bits, its block's effects, its RETIRED record, and what follows from it. -/
def retireRes (h : Hub) (c i cause detail : Nat) : Hub × List FAct :=
  if retired h c i ∨ !resPresent h c i then (h, [])
  else
    let level := bucketLevel h c i
    let r := retireEffect (setFlag h (aFltRet c (i / 32)) (i % 32) true) c i (decide (cause = 0))
    (count (faultRecord r.1 2 cause c i detail level) aFltCntRetire 1, r.2)

/-- Retire a bank of a state group: the spare takes its place, or STATE_LOST (R475). -/
def stateRetire (h : Hub) (g bank cause : Nat) : Hub :=
  if flag h aMemRetiredBanks (16 + g) then
    raise (setFld h (aFltBkt 9 g) 0 16 (if threshold h 9 = 0 then bucketLevel h 9 g else threshold h 9)) 0x0E 8 0 (g * 16 + bank)
  else
    let level := bucketLevel h 9 g
    let h := setFlag (setFlag h aMemRetiredBanks (16 + g) true) (aFltRet 9 0) g true
    let h := raise h 0x0E 2 0 0
    wr (count (faultRecord h 2 cause 9 g 0 level) aFltCntRetire 1) (aFltBkt 9 g) 0

/-- One action of the fault manager, and those that follow from it. -/
def faultStep (h : Hub) : FAct → Hub × List FAct
  | .add c i w b => bucketAdd h c i w b
  | .retire c i cause detail => retireRes h c i cause detail
  | .stateBank g b cause => (stateRetire h g b cause, [])
  | .hard l =>
    if laneRetired h l then
      (if h.flt.restores.any (fun r => decide (r.1 = 0) && decide (r.2.1 = l)) then raise h 0x04 1 l 0 else h, [])
    else (raise h 0x04 1 l 0, [.retire 0 l 1 0])
  | .train o =>
    let r := dspTrain h o
    (r.1, r.2.flatMap (fun l => FAct.add 0 l 1 0 :: (if 3 ≤ tget 0 r.1.dsp.fails l then [FAct.hard l] else [])))

/-- Run the actions, each chain before what comes after it. Every retirement is the last of its resource, so the fuel is
ample. -/
def faultRun : Nat → Hub → List FAct → Hub
  | 0, h, _ => h
  | _, h, [] => h
  | n + 1, h, a :: l => faultRun n (faultStep h a).1 ((faultStep h a).2 ++ l)

def faults (h : Hub) (l : List FAct) : Hub := faultRun 2000 h l

/-! ### Errors (R206, R207, R470) -/

/-- A receiving lane counts an error event and feeds its bucket; management lanes feed none (R206, R207). Event 0
is none of telemetry's. -/
def laneError (h : Hub) (l n : Nat) (a ev : Nat) (weight : Nat) : Hub :=
  let h := tally (count h a n) 0xA0 ev (if ev = 0 then 0 else n) none
  if 96 ≤ l then h else faults h [.add 0 l weight 0]

/-- Corrections of a lane: 2^CORR_SHIFT of them are one unit. The count towards the next unit has key 16 + lane (R207). -/
def laneCorr (h : Hub) (l n : Nat) : Hub :=
  let u := 2 ^ fld h aLaneBucketCfg 0 5
  let c := tget 0 h.mst.corr (16 + l) + n
  let h := if l < 32 then wr64 h (aTrkCntFecCorrLo (l / 4)) (rd64 h (aTrkCntFecCorrLo (l / 4)) + n) else h
  laneError { h with mst := { h.mst with corr := tset 0 h.mst.corr (16 + l) (c % u) } } l n (aLaneCntCorr l) 0x0A00 (c / u)

/-- An uncorrectable codeword, block or flit of a lane; a trunk counts its codewords too (R183, R206). -/
def laneUncorr (h : Hub) (l : Nat) : Hub :=
  laneError (if l < 32 then count h (aTrkCntFecUncorr (l / 4)) 1 else h) l 1 (aLaneCntUncorr l) 0x0A01 1

/-- COMMA: a valid body updates lock and deskew (R147, R148); a comma block that is not valid is an uncorrectable error of its
codeword (R140), and in ACTIVE the staves of that codeword are in error (R151, R161). -/
def execComma (n : Fin 8) (k : Fin 4) (body : BitVec 256) (mark : CommaAt) (s : State) : Ans :=
  s.act (fun h =>
    if commaOk body.toNat then recvComma n.val k.val body.toNat mark.codeword mark.arrival h
    else if trkState h n.val = 0 ∨ trkState h n.val = 9 then h
    else
      let h := if trkState h n.val = 7 then modTrk h n.val (fun t => { t with nak := true }) else h
      laneUncorr h (4 * n.val + k.val))

/-- BUCKET_ERROR: an error of a lane, or of a PCIe, USB or Ethernet port (R206, R207, R470, R471). -/
def bucketError (c i : Nat) (cause : ErrCause) (h : Hub) : Hub :=
  let lane := decide (c = 0) && lanePresent h.part.res i
  let rx := lane && !(decide (32 ≤ i) && decide (i < 64))
  match cause with
  | .laneCorr n => if rx then laneCorr h i n else h
  | .laneUncorr => if rx then laneUncorr h i else h
  | .laneLockLoss => if rx then laneError h i 1 (aLaneCntLockLoss i) 0 1 else h
  | .laneTrainFail => if rx then laneError h i 1 (aLaneCntTrainFail i) 0 1 else h
  | .replay => if lane && decide (i < 32) then faults h [.add 0 i 1 0] else h
  | .recovery => if c = 5 ∨ c = 6 then faults h [.add c i 1 0] else h
  | .linkLoss => if c = 5 ∨ c = 6 then faults h [.add c i 4 0] else h
  | .localFault => if c = 7 then faults h [.add 7 i 1 0] else h

def execBucketError (cls : Fin 10) (index : BitVec 12) (cause : ErrCause) (s : State) : Ans :=
  s.act (bucketError cls.val index.toNat cause)

/-- BUCKET_LEAK: every 8 × LEAK_MS edges each bucket of the class above 0 falls by 1; WARNED clears below the warning level
(R471, R472). -/
def bucketLeak (c : Nat) (h : Hub) : Hub :=
  let p := 8 * fld h (aFltClassCfg c) 0 16
  let from_ := tget 0 h.flt.leakFrom c
  if p = 0 ∨ edgesSince h from_ < p then h
  else
    let t := threshold h c
    let h := { h with flt := { h.flt with leakFrom := tset 0 h.flt.leakFrom c (from_ + p) } }
    (List.range (classCount c)).foldl (fun h i =>
      let lv := bucketLevel h c i
      let held := decide (c = 9) && flag h aMemRetiredBanks (16 + i) && decide (t ≠ 0) && decide (t ≤ lv)
      if lv = 0 ∨ held then h
      else
        let h := setFld h (aFltBkt c i) 0 16 (lv - 1)
        if t = 0 ∨ lv - 1 < (t + 1) / 2 then setFlag h (aFltBkt c i) 16 false else h) h

def execBucketLeak (cls : Fin 10) (s : State) : Ans := s.act (bucketLeak cls.val)

/-- HOLDOFF_END: the message that fell due in the hold-off goes, if EN is 1 now (R483). -/
def holdoffEnd (p : Port) (h : Hub) : Hub :=
  let n := Port.toNat p
  if !tget false h.flt.holdoff n then h
  else
    let h := { h with flt := { h.flt with holdoff := tset false h.flt.holdoff n false } }
    if !tget false h.flt.due n || !mgmtUp h p then h
    else fltMessage { h with flt := { h.flt with due := tset false h.flt.due n false } } p

def execHoldoffEnd (port : Port) (s : State) : Ans := s.act (holdoffEnd port)

/-! ### Ports (R209, R284, R470) -/

/-- PCIE_X1_L0_TIMEOUT: 200 ms without L0 after the retrain as x1 retires the port (R209). -/
def pcieX1 (p : Nat) (h : Hub) : Hub :=
  match tfind h.lns.x1 p with
  | some e =>
    if edgesSince h e < 1600 then h
    else
      let l := if laneRetired h (64 + 2 * p) then 64 + 2 * p else 65 + 2 * p
      pcieSettled (faults { h with lns := { h.lns with x1 := tdel h.lns.x1 p } } [.retire 5 p 4 l]) p
  | none => h

def execPcieX1L0Timeout (p : Fin 8) (s : State) : Ans := s.act (pcieX1 p.val)

/-- ETH_LINK_DOWN: the port leaves Spindle matching; with signal still present it adds 4 to its bucket (R284, R470). -/
def ethDown (e : Nat) (signal : Bool) (h : Hub) : Hub :=
  if !bitOf h.tun.ethUp.toNat e then h
  else
    let h := { h with tun := { h.tun with ethUp := h.tun.ethUp &&& ~~~(BitVec.ofNat 4 (2 ^ e)) } }
    let h := laneRest h (80 + e) 0
    if signal then faults h [.add 7 e 4 0] else h

def execEthLinkDown (e : Fin 4) (signalPresent : Bool) (s : State) : Ans := s.act (ethDown e.val signalPresent)

/-- Symbol rate in MBd and modulation of an Ethernet rate (R26): 10GBASE-KR, 25GBASE-CR/KR, 100GBASE-CR1/KR1. The symbol rate of the
first is half-way and its rounding open. -/
def ethBaud (h : Hub) (rate : Nat) : Nat × Bool :=
  match rate with
  | 0 => (10312 + (drawFree h).2.toNat % 2, false)
  | 1 => (25781, false)
  | _ => (53125, true)

/-- ETH_LINK_UP: the PMD training of a present port in service has completed at a rate, as a full training of its lane with the
partner's coefficients (R188, R190, R284). -/
def ethLinkUp (e rate : Nat) (h : Hub) : Hub :=
  if h.part.res.eth ≤ e ∨ retired h 7 e ∨ laneRetired h (80 + e) then h
  else
    let b := ethBaud h rate
    let h := laneUp (partnerFfe (drawFree h).1 (80 + e)) (80 + e) b.1 b.2
    { h with tun := { h.tun with ethUp := h.tun.ethUp ||| BitVec.ofNat 4 (2 ^ e) } }

def execEthLinkUp (l : EthLink) (s : State) : Ans := s.act (ethLinkUp l.port.val l.rate.val)

/-! ### RES.RESTORE (R477, R478) -/

/-- The port lanes a class asks for are in service (R477). -/
def restoreFit (h : Hub) (c i : Nat) : Bool :=
  match c with
  | 4 => !laneRetired h (32 + 4 * i)
  | 5 => !laneRetired h (64 + 2 * i) || !laneRetired h (65 + 2 * i)
  | 7 => !laneRetired h (80 + i)
  | _ => true

/-- A resource other than a lane returns (R477): its block's bits clear; an output starts again. -/
def restorePass (m : Mem) (h : Hub) (c i : Nat) : Mem × Hub :=
  match c with
  | 0 => (m, clearRetired h i)
  | 1 => (m, restoredRes (setFlag h (aMemRetiredCask (i / 32)) (i % 32) false) 1 i)
  | 2 =>
    let lost := if bitOf h.mst.dpLost i then h.mst.dpLost - 2 ^ i else h.mst.dpLost
    let h := if (fallbackAt h i).isSome then moved h 5 false 1024 else h
    (m, restoredRes { (setFlag h aMemRetiredBanks i false) with mst := { h.mst with dpLost := lost } } 2 i)
  | 3 =>
    let mine := fun (a : Nat) => decide (chanOf h a = i)
    let h1 := { h with mst := { h.mst with poison := h.mst.poison.filter (fun e => !mine (e.1 * 64)) } }
    let h1 := setCapacity (setFld (setFlag h1 aMemCellarStatus (16 + i) false) (aMemChStatus i) 29 3 2)
    ({ m with cellar := m.cellar.filter (fun e => !mine e.1) }, restoredRes h1 3 i)
  | 4 =>
    let h := dspMode (restoredRes h 4 i) i 0 false
    (m, faults (demandUpdate h.1) (if h.2 then [.train i] else []))
  | 8 =>
    let h := setFld (setFlag (setFlag h (aPwrPwcStatus i) 26 false) (aPwrPwcStatus i) 25 false) (aPwrPwcStatus i) 29 3 0
    (m, restoredRes h 8 i)
  | _ => (m, restoredRes h c i)

/-- The test of a resource passes or fails (R477): for a lane of an ACTIVE trunk a pass starts the return of R175, which
decides. -/
def restoreEnd (m : Mem) (h : Hub) (c i id : Nat) (pass : Bool) : Mem × Hub :=
  if !retired h c i then (m, settleRestores h c i)
  else if !pass ∨ !restoreFit h c i then (m, resFailed h c i id)
  else if c = 0 ∧ i < 32 ∧ trkState h (i / 4) = 7 then (m, askChange h (i / 4) true (i % 4) (some id))
  else restorePass m h c i

/-- The scope element of a lane (R111). -/
def laneScope (l : Nat) : Scope :=
  if 32 ≤ l ∧ l < 64 then scOut ((l - 32) / 4)
  else match laneSp l with
    | some p => scPort p
    | none => scGlobal

/-- The scope element in which a resource lies: that of its records (R80, R111). -/
def resScope (c i : Nat) : Scope :=
  match c with
  | 0 => laneScope i
  | 4 => scOut i
  | 5 => scPort (8 + i)
  | 6 => scPort 20
  | 7 => scPort (16 + i)
  | 8 => scPort (if i < 16 then 20 else i - 8)
  | _ => scGlobal

/-- RES.RESTORE: classes 5, 6 and 7 need no time; the others wait for RESTORE_TEST_END (R438, R477, R478). -/
def resRestore (h : Hub) (c : Cmd) (w : IW) : Hub :=
  let k := w.target / 4096
  let i := w.target % 4096
  if w.operand ≠ 0 ∨ 9 ≤ k ∨ !resPresent h k i then settle h c.id .invalid 0
  else match oConflict h c (resScope k i) with
    | some m => settle h c.id .conflict m
    | none =>
      if !retired h k i then settle h c.id .ok 0
      else if k = 3 ∧ !(chanMap h).contains i then settle h c.id .fault 0x0801
      else
        let h := beginWait h c w .op
        let h := { h with flt := { h.flt with restores := h.flt.restores ++ [(k, i, c.id)] } }
        if 5 ≤ k ∧ k ≤ 7 then (if restoreFit h k i then restoredRes h k i else resFailed h k i c.id) else h

def execResRestore (th : Fin 4) (s : State) : Ans := s.act (fun h => onLong h th 0x6B resRestore)

/-- RESTORE_TEST_END: the test of the oldest RES.RESTORE of a resource ends (R211, R437, R445, R477). -/
def restoreTestEnd (c i : Nat) (pass : Bool) (m : Mem) (h : Hub) : Mem × Hub :=
  match h.flt.restores.find? (fun r => decide (r.1 = c) && decide (r.2.1 = i) && (findCmd h r.2.2).isSome) with
  | some r =>
    let t := trk h (i / 4)
    let returning := decide (c = 0) && decide (i < 32) &&
      ((t.change.bind (·.waiter)).toList ++ t.todo.filterMap (fun e => e.2.2)).contains r.2.2
    if returning then (m, h) else restoreEnd m h c i r.2.2 pass
  | none => (m, h)

def execRestoreTestEnd (cls : Fin 9) (index : BitVec 12) (pass : Bool) (s : State) : Ans :=
  s.actMem (restoreTestEnd cls.val index.toNat pass)

end Sys2Proof.Machine
end

