-- ==== Sys2Proof/Machine/Lanes.lean ====
section
/-!
DEFINITION. Lanes (chapter 6): retirement by the manager, eye scans, loops, patterns, and the detections of adaptation and
training.
-/
namespace Sys2Proof.Machine

/-- Is another change in progress that bars a retirement: of a trunk, for a graceful one of a lane of its set, any change of either
end (R173); of a PCIe port a retrain as x1 (R210)? -/
def laneBusy (h : Hub) (l : Nat) (graceful : Bool) : Bool :=
  if l < 32 then
    let t := trk h (l / 4)
    graceful && bitOf (stripeSet h (l / 4)) (l % 4) && (t.change.isSome || t.theirs.isSome || t.todo != [])
  else if 64 ≤ l ∧ l < 80 then (tfind h.lns.x1 ((l - 64) / 2)).isSome
  else false

/-- LANE.RETIRE (R173, R210): a lane of a stripe set leaves by handshake or through RECOVERY, any other at once. Its bits set
and its RETIRED record is written as it starts (R473). -/
def laneRetire (h : Hub) (c : Cmd) (w : IW) : Hub :=
  let l := w.target
  if 96 ≤ l ∨ !lanePresent h.part.res l ∨ 2 ≤ w.operand then settle h c.id .invalid 0
  else match oConflict h c (laneScope l) with
    | some m => settle h c.id .conflict m
    | none =>
      if laneRetired h l then settle h c.id .ok 0
      else if laneBusy h l (decide (w.operand = 1)) then settle h c.id .conflict 0
      else if 32 ≤ l then
        let p := (l - 64) / 2
        let g := faults (beginWait h c w .op) [.retire 0 l 2 0]
        if 64 ≤ l ∧ l < 80 ∧ (tfind g.lns.x1 p).isSome then { g with lns := { g.lns with x1Cmd := tput g.lns.x1Cmd p c.id } }
        else settle (faults h [.retire 0 l 2 0]) c.id .ok 0
      else
        let level := bucketLevel h 0 l
        let h1 := setFlag (setFlag h (aFltRet 0 (l / 32)) (l % 32) true) (aLaneRetired (l / 32)) (l % 32) true
        let h2 := count (faultRecord h1 2 2 0 l 0 level) aFltCntRetire 1
        let g := decide (w.operand = 1)
        let waits := bitOf (stripeSet h (l / 4)) (l % 4) && decide (stripeSet h (l / 4) ≠ 2 ^ (l % 4)) &&
          decide (trkState h (l / 4) = 7) && g
        if waits then laneOut (beginWait h2 c w .op) l true (some c.id)
        else settle (laneOut h2 l false none) c.id .ok 0

def execLaneRetire (th : Fin 4) (s : State) : Ans := s.act (fun h => onLong h th 0x68 laneRetire)

/-! ### Eye scans (R199-R203) -/

def scanOf (h : Hub) (l : Nat) : Option Scan := tfind h.lns.scans l

/-- Start a scan of eye `eye` on lane l for a command, its result to go to hub address a (R199). -/
def scanStart (h : Hub) (l eye a cmd : Nat) : Hub :=
  let st := rd h (aLaneStatus l)
  let loop := decide (bitsOf st.toNat 28 3 = 4)
  let s : Scan :=
    { cmd := cmd, addr := a, eye := eye, dwell := max 10 (min 20 (fld h (aLaneScanCfg l) 0 5)),
      flags := (if bitOf st.toNat 21 then 1 else 0) + (if loop then 4 else 0), baud := bitsOf st.toNat 0 16, startTick := tickNo h,
      lastTick := tickNo h, dfe := [rd h (aLaneDfe0 l), rd h (aLaneDfe1 l), rd h (aLaneDfe2 l), rd h (aLaneDfe3 l)],
      ffe := rd h (aLaneTxFfe l), ctle := rd h (aLaneCtle l), counts := [], ui := 0, from_ := h.tim.coreClk, edge := none,
      broken := false }
  let h := { h with lns := { h.lns with scans := tput h.lns.scans l s } }
  let h := wr (setFlag h (aLaneStatus l) 22 true) (aLaneScanStatus l) (W (2 ^ 31 + eye * 2 ^ 28))
  wr h aLaneScans (W h.lns.scans.length)

/-- LANE.SCAN (R68, R199). -/
def laneScan (h : Hub) (c : Cmd) (w : IW) : Hub :=
  let l := w.target
  let st := fld h (aLaneStatus l) 28 3
  let eyes := if flag h (aLaneStatus l) 21 then 3 else 1
  let ready := decide (st = 2) || (decide (st = 4) && (decide (fld h (aLaneLoop l) 0 2 = 1) || decide (fld h (aLaneLoop l) 0 2 = 3)))
  if 96 ≤ l ∨ !lanePresent h.part.res l ∨ (32 ≤ l ∧ l < 64) ∨ eyes ≤ w.operand ∨ !ready ∨ !hubRangeOk h (w.x 0) 65088 then
    settle h c.id .invalid 0
  else if busDenied h (cmdPort h c) (w.x 0) then settle h c.id .denied 0
  else match oConflict h c (laneScope l) with
    | some m => settle h c.id .conflict m
    | none =>
      if (scanOf h l).isSome ∨ 16 ≤ h.lns.scans.length then settle h c.id .busy 0
      else if !onBus (w.x 0) && !cellarReady h then h
      else scanStart (beginWait h c w .op) l w.operand (w.x 0) c.id

def execLaneScan (th : Fin 4) (s : State) : Ans := s.act (fun h => onLong h th 0x69 laneScan)

/-- EYE_SCAN_WINDOW: once in each tick, between clocks 64,000 and 143,999 after its edge, the sampler compares, from where the scan
starts if that is later. The points that this finishes, each of 2^DWELL UI, take the counts that are given; a point under way goes on in
the next window (R200, R201). A scan that has ended early compares no more (R202). -/
def scanWindow (l : Nat) (counts : List Word) (h : Hub) : Hub :=
  match scanOf h l with
  | none => h
  | some s =>
    let first := max s.from_ (h.tim.edgeClk + 64000)
    let last := h.tim.edgeClk + 143999
    if s.edge = some h.tim.edges ∨ last < first ∨ s.broken then h
    else
      let h := runTo h last
      let ui := s.ui + s.baud * (last + 1 - first) * 5 / 8000
      let s := { s with
        counts := (s.counts ++ counts.take (ui / 2 ^ s.dwell)).take 16256, ui := ui % 2 ^ s.dwell, lastTick := tickNo h,
        edge := some h.tim.edges, startTick := if s.edge.isNone then tickNo h else s.startTick }
      setFld { h with lns := { h.lns with scans := tput h.lns.scans l s } } (aLaneScanStatus l) 0 14 s.counts.length

def execEyeScanWindow (lane : Fin 98) (counts : List Word) (s : State) : Ans := s.act (scanWindow lane.val counts)

/-- The result of a scan (R203); points not measured read all ones. -/
def scanResult (l : Nat) (s : Scan) : List Byte :=
  let n := s.counts.length
  let word := fun (v : Nat) => leBytes 4 v
  word 0x4C534331 ++ leBytes 2 l ++ leBytes 1 s.eye ++ leBytes 1 (s.flags + (if n < 16256 then 2 else 0)) ++ word s.baud ++
    leBytes 1 s.dwell ++ leBytes 1 0 ++ leBytes 2 n ++ leBytes 8 s.startTick ++ leBytes 8 s.lastTick ++
    s.dfe.flatMap (fun v => word v.toNat) ++ word s.ffe.toNat ++ word s.ctle.toNat ++ leBytes 8 0 ++
    s.counts.flatMap (fun v => word v.toNat) ++ (List.replicate (4 * (16256 - n)) 0xFF)

/-- SCAN_END: all points are measured, or the lane left data or its loop, and the result is written (R202). -/
def scanEnd (l : Nat) (m : Mem) (h : Hub) : Mem × Hub :=
  match scanOf h l with
  | none => (m, h)
  | some s =>
    if s.counts.length < 16256 ∧ !s.broken then (m, h)
    else
      let p := match findCmd h s.cmd with
        | some c => cmdPort h c
        | none => .m0
      let r := writeHub m h p s.addr (scanResult l s)
      let h := { r.2 with lns := { r.2.lns with scans := tdel r.2.lns.scans l } }
      let h := setFlag (setFlag h (aLaneStatus l) 22 false) (aLaneScanStatus l) 31 false
      (r.1, settle (wr h aLaneScans (W h.lns.scans.length)) s.cmd .ok 0)

def execScanEnd (lane : Fin 98) (s : State) : Ans := s.actMem (scanEnd lane.val)

/-! ### Loops and patterns (R204, R205) -/

/-- Is the port of a lane enabled by its own chapter's control (R204)? Trunks by TRK_CTL.EN, outputs by DSP_TCTL.EN, USB ports by
the assignment; PCIe and Ethernet ports, which have no such control, while an end is open on them. -/
def lanePortOn (h : Hub) (l : Nat) : Bool :=
  if l < 32 then flag h (aTrkCtl (l / 4)) 0
  else if l < 64 then flag h (aDspTctl ((l - 32) / 4)) 0
  else if l < 84 then (portEnd h ((laneSp l).getD 24)).isSome
  else if l < 96 then (usbAssign h (l - 84)).isSome
  else true

/-- Put a lane into a loop mode, or take it out; the checker looks for its pattern anew (R204, R205). -/
def loopSet (h : Hub) (l mode : Nat) : Hub :=
  let h := setFlag (setFld (if fld h (aLaneLoop l) 0 2 = mode then h else scanBreak h l) (aLaneLoop l) 0 2 mode) (aLanePatCfg l) 9 false
  if mode ≠ 0 then laneTo h l 4
  else if laneState h l = 4 then laneTo h l (if laneRetired h l then 5 else 0) else h

/-- LANE.LOOP (R204). -/
def laneLoop (h : Hub) (c : Cmd) (w : IW) : Hub :=
  let l := w.target
  if 96 ≤ l ∨ !lanePresent h.part.res l ∨ 4 ≤ w.operand ∨ (32 ≤ l ∧ l < 64 ∧ w.operand ≠ 0) then settle h c.id .invalid 0
  else match oConflict h c (laneScope l) with
    | some m => settle h c.id .conflict m
    | none =>
      if lanePortOn h l && !laneRetired h l then settle h c.id .denied 0
      else
        settle (loopSet h l w.operand) c.id .ok 0

def execLaneLoop (th : Fin 4) (s : State) : Ans := s.act (fun h => onInstr h th 0x6A laneLoop)

/-- PATTERN_CLEAR: writing 1 to LANE_PAT_CFG.CLEAR zeroes both counts (R205). -/
def patternClear (l : Nat) (h : Hub) : Hub :=
  if 96 ≤ l ∨ !lanePresent h.part.res l then h
  else wr64 (wr64 h (aLanePatErrLo l) 0) (aLanePatBitsLo l) 0

def execPatternClear (_port : Port) (lane : Fin 98) (s : State) : Ans := s.act (patternClear lane.val)

/-- Bits that a lane carries in a tick; a lane in a loop without a rate of its own runs at a free one. -/
def patternBits (h : Hub) (l : Nat) : Hub × Nat :=
  let baud := fld h (aLaneStatus l) 0 16
  let per := if flag h (aLaneStatus l) 21 then 250 else 125
  if baud = 0 then ((drawFree h).1, (drawFree h).2.toNat % 2 ^ 24) else (h, baud * per)

/-- The checker of a lane in a loop over the tick that ends. In modes 1 and 2 the lane receives what its generator sends: with one
pattern for both the checker locks after 64 bits and finds no error. Of anything else that comes, whether the checker locks and how
many bits are in error is free (R205). -/
def patternLane (h : Hub) (l : Nat) : Hub :=
  let chk := fld h (aLanePatCfg l) 4 4
  let mode := fld h (aLaneLoop l) 0 2
  if mode = 0 ∨ chk = 0 ∨ 5 < chk then h
  else
    let own := decide (mode ≠ 3) && decide (fld h (aLanePatCfg l) 0 4 = chk)
    let locked := flag h (aLanePatCfg l) 9
    let n := (patternBits h l).2
    let h := (patternBits h l).1
    let v := (drawFree h).2.toNat
    let h := if own then h else (drawFree h).1
    let locks := locked || (if own then decide (64 ≤ n) else bitOf v 63)
    let seen := if locked then n else if locks then n - 64 else 0
    let wrong := if own then 0 else v % (seen + 1)
    let h := setFlag h (aLanePatCfg l) 9 locks
    wr64 (wr64 h (aLanePatBitsLo l) (rd64 h (aLanePatBitsLo l) + seen)) (aLanePatErrLo l) (rd64 h (aLanePatErrLo l) + wrong)

/-- The checkers of every lane in a loop (R205). -/
def patternTick (h : Hub) : Hub :=
  (List.range 96).foldl (fun h l => if laneReceives l ∧ laneState h l = 4 then patternLane h l else h) h

/-! ### Detections (R191, R208) -/

/-- TAP_LIMIT: a tap of a receiving lane stayed at a limit for 1 ms (R191). -/
def tapLimit (l : Nat) (h : Hub) : Hub :=
  if !lanePresent h.part.res l ∨ (32 ≤ l ∧ l < 64) ∨ fld h (aLaneStatus l) 28 3 ≠ 2 ∨ flag h (aLaneCtl l) 2 then h
  else raise (setFlag h (aLaneStatus l) 23 true) 0x04 2 l 0

def execTapLimit (lane : Fin 98) (s : State) : Ans := s.act (tapLimit lane.val)

/-- LANE_HARD_FAULT: no clock lock in 3 full trainings, or impedance calibration out of range (R208). -/
def laneHard (l : Nat) (h : Hub) : Hub :=
  if 96 ≤ l ∨ !lanePresent h.part.res l then h else faults h [.hard l]

def execLaneHardFault (lane : Fin 98) (s : State) : Ans := s.act (laneHard lane.val)

end Sys2Proof.Machine
end

