-- ==== Sys2Proof/Machine/Scanout.lean ====
section
/-!
DEFINITION. What happens on display outputs (chapter 11): hot plug, latch points, underruns, check windows, AUX, and the DSP
instructions.
-/
namespace Sys2Proof.Machine

/-- Does an output of the part exist? -/
def dspPresent (h : Hub) (o : Nat) : Bool := decide (o < h.part.res.outputs)

def setSink (h : Hub) (o : Nat) (s : SinkReport) : Hub := { h with dsp := { h.dsp with sink := tput h.dsp.sink o s } }

/-! ### Instructions (R337, R341, R348) -/

/-- A rectangle of ext2 of DSP.LAYER as its XY and WH registers. -/
def rectXy (v : Nat) : Nat := v % 2 ^ 32
def rectWh (v : Nat) : Nat := v / 2 ^ 32 % 2 ^ 32

/-- DSP.LAYER (R337); FORMAT 4-7 and a cursor on a layer other than 7 are out of range (R541). CTL bits [31:17] keep the value staged or projected. -/
def dspLayer (h : Hub) (c : Cmd) (w : IW) : Hub :=
  let o := w.target % 8
  let k := bitsOf w.target 4 3
  if !onlyBits w.target 0x77 ∨ !dspPresent h o ∨ !onlyBits w.operand 0x1FF0F ∨ 2 ^ 32 ≤ w.x 1 ∨ 4 ≤ w.o 1 3 ∨
      (bitOf w.operand 16 ∧ k ≠ 7) then settle h c.id .invalid 0
  else
    let base := cfg h (standing h c []) (aDspLayerCtl o k)
    let ctl := (base / 2 ^ 17) * 2 ^ 17 + bitsOf w.operand 16 1 * 2 ^ 16 + w.o 8 8 * 2 ^ 8 + w.o 0 4
    stageS h c w [(aDspLayerCtl o k, W ctl), (aDspLayerAddrLo o k, W (w.x 0)), (aDspLayerAddrHi o k, W (w.x 0 / 2 ^ 32)),
      (aDspLayerStride o k, W (w.x 1)), (aDspLayerSrcXy o k, W (rectXy (w.x 2))), (aDspLayerSrcWh o k, W (rectWh (w.x 2))),
      (aDspLayerDstXy o k, W (rectXy (w.x 3))), (aDspLayerDstWh o k, W (rectWh (w.x 3)))] (scOut o) 0

def execDspLayer (th : Fin 4) (s : State) : Ans := s.act (fun h => onInstr h th 0x30 dspLayer)

/-- DSP.TIMING (R341); LINK_RATE 4-7 is out of range (R541). Bits [7:0] of DSP_TCTL and the five timing registers. -/
def dspTiming (h : Hub) (c : Cmd) (w : IW) : Hub :=
  let o := w.target
  if 8 ≤ o ∨ !dspPresent h o ∨ !onlyBits w.operand 0x3F ∨ !onlyBits (w.x 2) 0x3FFFFFFFF ∨ 4 ≤ w.o 2 3 then settle h c.id .invalid 0
  else
    let base := cfg h (standing h c []) (aDspTctl o)
    let tctl := base / 256 * 256 + bitsOf (w.x 2) 32 2 * 2 ^ 6 + bitsOf w.operand 5 1 * 2 ^ 5 + w.o 2 3 * 4 + w.o 1 1 * 2 + w.o 0 1
    let two := fun (v i : Nat) => W (bitsOf v (32 * i) 32)
    -- ext0 and ext1: active, front porch, sync, back porch
    stageS h c w [(aDspTctl o, W tctl), (aDspH0 o, two (w.x 0) 0), (aDspH1 o, two (w.x 0) 1), (aDspV0 o, two (w.x 1) 0),
      (aDspV1 o, two (w.x 1) 1), (aDspPclk o, W (w.x 2))] (scOut o) 0

def execDspTiming (th : Fin 4) (s : State) : Ans := s.act (fun h => onInstr h th 0x31 dspTiming)

/-- DSP.CHECK (R348). -/
def dspCheck (h : Hub) (c : Cmd) (w : IW) : Hub :=
  let o := w.target % 8
  let k := bitsOf w.target 4 4
  if !onlyBits w.target 0xF7 ∨ !dspPresent h o ∨ 2 ≤ w.operand ∨ 2 ^ 32 ≤ w.x 1 then settle h c.id .invalid 0
  else
    let base := cfg h (standing h c []) (aDspChkCtl o k)
    stageS h c w [(aDspChkCtl o k, W (base / 2 * 2 + w.operand)), (aDspChkXy o k, W (rectXy (w.x 0))),
      (aDspChkWh o k, W (rectWh (w.x 0))), (aDspChkExpect o k, W (w.x 1))] (scOut o) 0

def execDspCheck (th : Fin 4) (s : State) : Ans := s.act (fun h => onInstr h th 0x32 dspCheck)

/-! ### Hot plug (R330) -/

/-- HPD_RISE starts training of an enabled output (R328, R330). -/
def hpdRise (o : Nat) (sink : SinkReport) (h : Hub) : Hub :=
  if !dspPresent h o ∨ flag h (aDspStatus o) 27 then h
  else faults (raise (setSink (setFlag h (aDspStatus o) 27 true) o sink) 0x0A 0 o 0) [.train o]

def execHpdRise (o : Fin 8) (sink : SinkReport) (s : State) : Ans := s.act (hpdRise o.val sink)

/-- HPD_UNPLUG: HPD low for 2 ms; the output stops sending and waits for the sink, composition goes on (R330). -/
def hpdUnplug (o : Nat) (h : Hub) : Hub :=
  if !dspPresent h o ∨ !flag h (aDspStatus o) 27 then h
  else
    let h := setFlag h (aDspStatus o) 27 false
    raise (if scanning h o then dspDown h o 1 else h) 0x0A 0 o 0

def execHpdUnplug (o : Fin 8) (s : State) : Ans := s.act (hpdUnplug o.val)

/-- IRQ_HPD: the link status is read; lost lock retrains (R330). -/
def irqHpd (o : Nat) (lost : Bool) (sink : SinkReport) (h : Hub) : Hub :=
  if !dspPresent h o ∨ !flag h (aDspStatus o) 27 then h
  else
    let h := raise (setSink h o sink) 0x0A 0 o 0
    if lost ∧ fld h (aDspStatus o) 20 3 ≠ 0 then faults h [.train o] else h

def execIrqHpd (o : Fin 8) (lostLock : Bool) (sink : SinkReport) (s : State) : Ans := s.act (irqHpd o.val lostLock sink)

/-! ### The latch point (R342, R343, R345, R347, R349) -/

/-- 64-byte units that the layers of an output fetch for a frame; a layer that underran stops where it did (R346, R347). -/
def fetchUnits (h : Hub) (o : Nat) : Nat :=
  (List.range 8).foldl (fun n k =>
    let l := layerAt (active h) o k
    if l.en ∧ tfind h.dsp.cut (o * 8 + k) = none then n + (lineBytes l * l.sh + 63) / 64 else n) 0

/-- A layer underruns from a pixel of the frame, once a frame (R347): for want of data, or by an uncorrectable read. -/
def dspUnderrun (o k : Nat) (fetch : Bool) (px : Nat) (h : Hub) : Hub :=
  if !scanning h o ∨ !(layerAt (active h) o k).en ∨ (tfind h.dsp.cut (o * 8 + k)).isSome then h
  else
    let h := setFlag { h with dsp := { h.dsp with cut := tput h.dsp.cut (o * 8 + k) px } } (aDspLayerStatus o k) 1 true
    if fetch then raise (count h (aDspCntFetchErr o) 1) 0x0A 3 o 0
    else raise (tally (count h (aDspCntUnderrun o) 1) (0x50 + o) 0x0501 1 none) 0x0A 2 o 0

/-- Does the cellar hold lines that cannot be read: poisoned ones, or those of a retired channel (R441, R444)? -/
def cellarBad (h : Hub) : Bool := decide (h.mst.poison ≠ []) || decide (fld h aMemCellarStatus 16 8 ≠ 0)

/-- The reads of a frame that begins: each layer whose source meets a line that cannot be read underruns from the first pixel that needs
it, and its fetch stops there; before the cellar is initialised no fetch starts, and every layer underruns from its first pixel
(R347, R446; notes/assumptions/148.md). -/
def fetchFrame (o : Nat) (h : Hub) : Hub :=
  if !cellarReady h then
    (List.range 8).foldl (fun h k =>
      let l := layerAt (active h) o k
      dspUnderrun o k false ((max 0 l.dy) * hActive (active h) o + max 0 l.dx).toNat h) h
  else if !cellarBad h then h
  else (List.range 8).foldl (fun h k =>
    let l := layerAt (active h) o k
    if !l.en then h
    else match firstBad h o l with
      | some (px, n) => dspUnderrun o k true px (countPoison h (n * 64) 64)
      | none => h) h

/-- A latch takes place: a frame has been composed; pending records become active, underruns and the safe state are settled, a
changed timing is a mode set; the next frame's reads begin. -/
def latchNow (o : Nat) (sink : SinkReport) (h : Hub) : Hub :=
  if !scanning h o then h
  else
    let units := fetchUnits h o
    let h := moved (tally (tally (count h (aDspCntFrames o) 1) (0x50 + o) 0x0500 1 none) (0x50 + o) 0x0502 units none) 1 false units
    let h := setSink h o sink
    let old := active h (aDspTctl o)
    let mode := h.dsp.held.any (fun e => (timingAddrs o).contains e.1 && decide (e.2 ≠ rd h e.1))
    let h := takePending h o
    let mine := fun (n k : Nat) => decide (k / n = o)
    let h := (List.range 8).foldl (fun h k => setFlag h (aDspLayerStatus o k) 1 false) h
    let clr := tget false h.dsp.clr o
    let h := { h with dsp := { h.dsp with
      cut := h.dsp.cut.filter (fun e => !mine 8 e.1), checked := h.dsp.checked.filter (fun e => !mine 16 e.1),
      safe := tset false h.dsp.safe o ((tget false h.dsp.safe o || tget false h.dsp.safeDue o) && !clr),
      safeDue := tset false h.dsp.safeDue o false, clr := tset false h.dsp.clr o false } }
    let h := if clr then
        (List.range 16).foldl (fun h w => setFld h (aDspChkStatus o w) 0 8 0) (setFlag h (aDspStatus o) 23 false) else h
    if mode then
      let r := dspMode h o old true
      faults (demandUpdate r.1) (if r.2 then [.train o] else [])
    else
      let n := if bitOf old 5 then min 8 (tget 0 h.dsp.frames o + 1) else 0
      let h := { h with dsp := { h.dsp with frames := tset 0 h.dsp.frames o n } }
      fetchFrame o (demandUpdate (setFlag h (aDspStatus o) 25 (decide (n = 8))))

/-- The latch points that fell while P0 ran take place once it is over (R345). -/
def lateLatches (h : Hub) : Hub :=
  if p0Busy h then h
  else h.dsp.late.foldl (fun h e => latchNow e.1 e.2 h) { h with dsp := { h.dsp with late := [] } }

/-- LATCH_POINT: a blanking begins; its latch waits for the end of P0 where P0 runs, so that it takes what applied at the edge before
it (R52, R345). -/
def latchPoint (o : Nat) (sink : SinkReport) (h : Hub) : Hub :=
  if !scanning h o then h
  else if p0Busy h then { h with dsp := { h.dsp with late := tput h.dsp.late o sink } }
  else latchNow o sink (lateLatches h)

def execLatchPoint (o : Fin 8) (sink : SinkReport) (s : State) : Ans := s.act (latchPoint o.val sink)

def execUnderrun (o : Fin 8) (layer : Fin 8) (fetchError : Bool) (pixel : Nat) (s : State) : Ans :=
  s.act (dspUnderrun o.val layer.val fetchError pixel)

/-! ### Check windows (R348, R349) -/

/-- A mismatch of window w: counts, events, the dock's event, and SAFE after THRESH in a row (R349). -/
def checkMismatch (h : Hub) (o w consec : Nat) : Hub :=
  let c := active h (aDspChkCtl o w)
  let h := setFld h (aDspChkStatus o w) 0 8 (min 255 (consec + 1))
  let h := tally (count (count h (aDspChkCount o w) 1) (aDspCntMismatch o) 1) (0x50 + o) 0x0503 1 none
  let h := raise h 0x0A 6 o w
  let h := if bitOf c 1 ∧ dockCreated h (bitsOf c 16 6) then hfEvent h (bitsOf c 16 6) 0x06 (o + w * 16) else h
  if bitsOf c 2 2 = 1 ∧ bitsOf c 8 8 ≤ consec + 1 ∧ !flag h (aDspStatus o) 23 then
    let h := { h with dsp := { h.dsp with safeDue := tset false h.dsp.safeDue o true } }
    raise (setFlag h (aDspStatus o) 23 true) 0x0A 7 o 0
  else h

/-- CHECK_WINDOW: the last pixel of a window in this frame: its CRC is compared with EXPECT. -/
def checkWindow (o w : Nat) (m : Mem) (h : Hub) : Hub :=
  if !scanning h o || !bitOf (active h (aDspChkCtl o w)) 0 || tget false h.dsp.checked (o * 16 + w) then h
  else
    let crc := checkCrc m h o w
    let ok := decide (crc = active h (aDspChkExpect o w))
    let wh := active h (aDspChkWh o w)
    let xy := active h (aDspChkXy o w)
    let last := (bitsOf xy 16 16 + bitsOf wh 16 16 - 1) * hActive (active h) o + bitsOf xy 0 16 + bitsOf wh 0 16 - 1
    let under := h.dsp.cut.any (fun e => decide (e.1 / 8 = o) && decide (e.2 ≤ last))
    let consec := fld h (aDspChkStatus o w) 0 8
    let h := wr h (aDspChkResult o w) (W crc)
    let h := setFlag (setFlag (setFlag h (aDspChkStatus o w) 31 true) (aDspChkStatus o w) 30 ok) (aDspChkStatus o w) 29 under
    let h := { h with dsp := { h.dsp with checked := tset false h.dsp.checked (o * 16 + w) true } }
    if ok then setFld h (aDspChkStatus o w) 0 8 0 else checkMismatch h o w consec

def execCheckWindow (o : Fin 8) (w : Fin 16) (s : State) : Ans := s.act (fun h => checkWindow o.val w.val s.mem h)

/-- SAFE_CLR: SAFE and every CONSEC clear at the next latch (R349, R350). -/
def safeClr (o : Nat) (h : Hub) : Hub :=
  if !dspPresent h o then h else { h with dsp := { h.dsp with clr := tset false h.dsp.clr o true } }

def execSafeClr (_port : Port) (o : Fin 8) (s : State) : Ans := s.act (safeClr o.val)

/-! ### AUX (R331) -/

/-- A write of GO = 1 to DSP_AUX_CMD with an OP: the transaction starts unless one runs. -/
def auxStart (o : Nat) (v : Word) (h : Hub) : Hub :=
  if !dspPresent h o ∨ flag h (aDspAuxCmd o) 31 then h
  else
    let h := setFld (wr h (aDspAuxCmd o) (v &&& 0xFF0FFFFF)) (aDspAuxStatus o) 0 3 4
    { h with dsp := { h.dsp with aux := tset (0, 0) h.dsp.aux o (0, 0) } }

/-- An AUX row is a write whose value has GO set and the row's OP. -/
def auxRow (op o : Nat) (v : Word) (h : Hub) : Hub :=
  if bitOf v.toNat 31 ∧ bitsOf v.toNat 28 3 = op then auxStart o v h else h

def execAuxNativeWrite (_port : Port) (o : Fin 8) (value : Word) (s : State) : Ans := s.act (auxRow 0 o.val value)
def execAuxNativeRead (_port : Port) (o : Fin 8) (value : Word) (s : State) : Ans := s.act (auxRow 1 o.val value)
def execAuxI2cWrite (_port : Port) (o : Fin 8) (value : Word) (s : State) : Ans := s.act (auxRow 2 o.val value)
def execAuxI2cRead (_port : Port) (o : Fin 8) (value : Word) (s : State) : Ans := s.act (auxRow 3 o.val value)

/-- The AUX transaction of an output ends with a RESULT. -/
def auxEnd (h : Hub) (o res : Nat) : Hub := setFld (setFlag h (aDspAuxCmd o) 31 false) (aDspAuxStatus o) 0 3 res

/-- Put the bytes of a read into DSP_AUX_DATA, byte 0 lowest. -/
def auxData (h : Hub) (o : Nat) (bs : List Byte) : Hub :=
  (List.range 4).foldl (fun h k =>
    let part := (bs.drop (4 * k)).take 4
    if part = [] then h
    else setFld h (aDspAuxData o k) 0 (8 * part.length) (leNat part)) h

/-- AUX_REPLY: ACK with the data of a read, NACK, AUX_DEFER retried up to 7 times, a missing reply up to 3 times (R331). -/
def auxReply (o : Nat) (r : AuxReply) (h : Hub) : Hub :=
  if !flag h (aDspAuxCmd o) 31 then h
  else
    let t := tget (0, 0) h.dsp.aux o
    let set := fun (h : Hub) (x : Nat × Nat) => { h with dsp := { h.dsp with aux := tset (0, 0) h.dsp.aux o x } }
    match r with
    | .ack data =>
      let h := if fld h (aDspAuxCmd o) 28 1 = 1 then auxData h o (data.take (fld h (aDspAuxCmd o) 24 4 + 1)) else h
      auxEnd h o 0
    | .nack => auxEnd h o 1
    | .defer => if t.2 < 7 then set h (t.1, t.2 + 1) else auxEnd h o 2
    | .missing => if t.1 < 3 then set h (t.1 + 1, t.2) else auxEnd h o 3

def execAuxReply (o : Fin 8) (reply : AuxReply) (s : State) : Ans := s.act (auxReply o.val reply)

end Sys2Proof.Machine
end

