-- ==== Sys2Proof/Machine/Memory.lean ====
section
/-!
DEFINITION. On-chip memory and the cellar (chapter 15): copies and fills, the background test, SRAM and cellar errors, the
scrub and the cellar's initialisation.
-/
namespace Sys2Proof.Machine

/-! ### MEM.COPY and MEM.FILL (R88, R441) -/

/-- A copy or fill starts: it takes a copy channel, or waits for one (R68, R88). -/
def copyStart (h : Hub) (c : Cmd) (w : IW) (x : Copy) : Hub :=
  let bad := decide (w.target ≠ 0) || decide (x.len % 64 ≠ 0) || !hubRangeOk h x.dst x.len || (!x.fill && !hubRangeOk h x.src x.len)
  let cellar := !onBus x.dst || (!x.fill && !onBus x.src)
  let denied := busDenied h (cmdPort h c) x.dst || (!x.fill && busDenied h (cmdPort h c) x.src)
  if bad then settle h c.id .invalid 0
  else if denied then settle h c.id .denied 0
  else if cellar && !cellarReady h then h
  else
    let h := takeChannel (beginWait h c w .op) c.id
    { h with mst := { h.mst with copies := h.mst.copies ++ [x] } }

def execMemCopy (th : Fin 4) (s : State) : Ans :=
  s.act (fun h => onLong h th 0x60 (fun h c w => copyStart h c w ⟨c.id, false, w.x 0, w.x 1, w.operand⟩))

def execMemFill (th : Fin 4) (s : State) : Ans :=
  s.act (fun h => onLong h th 0x61 (fun h c w => copyStart h c w ⟨c.id, true, w.x 1, w.x 0, w.operand⟩))

/-- Lines of a range before the first that cannot be read. -/
def goodLines (h : Hub) (a len : Nat) : Nat := ((linesOf a len).takeWhile (fun l => !lineBad h (l * 64))).length

/-- The data a copy or fill moves, whether every line could be read, and the hub after the reads. Where source and destination
overlap no order is given and the data are free (notes/assumptions/3.md). -/
def copyData (m : Mem) (h : Hub) (x : Copy) : Hub × List Byte × Bool :=
  if x.fill then (h, (List.range (x.len / 8)).flatMap (fun _ => leBytes 8 x.src), true)
  else
    let r := readHub m h x.src x.len
    let h := r.1
    if !onBus x.src ∧ !onBus x.dst ∧ rangesMeet x.src x.len x.dst x.len then ((freeBytes x.len h).1, (freeBytes x.len h).2, r.2.2)
    else (h, r.2.1, r.2.2)

/-- COPY_COMPLETE: a copy or fill that holds a channel ends; an uncorrectable line ends it with FAULT, having moved some of the
lines before it (R441). -/
def copyComplete (r : Nat) (tag : Byte) (uncorr : Bool) (m : Mem) (h : Hub) : Mem × Hub :=
  match findTag h r tag with
  | none => (m, h)
  | some c =>
    match h.mst.copies.find? (fun x => decide (x.cmd = c.id)) with
    | none => (m, h)
    | some x =>
      if !channelHeld h c.id then (m, h)
      else
        let h1 := freeChannel { h with mst := { h.mst with copies := h.mst.copies.filter (fun y => decide (y.cmd ≠ c.id)) } } c.id
        let d := copyData m h1 x
        if d.2.2 ∧ !(uncorr ∧ !x.fill) then
          let w := writeHub m d.1 (cmdPort h c) x.dst d.2.1
          (w.1, settle w.2 c.id .ok 0)
        else
          let lim := if onBus x.src then x.len / 64 else goodLines h x.src x.len
          let n := (drawFree d.1).2.toNat % (lim + 1)
          let w := writeHub m (drawFree d.1).1 (cmdPort h c) x.dst (d.2.1.take (64 * n))
          (w.1, settle w.2 c.id .fault 0)

def execCopyComplete (ring : Fin 8) (tag : BitVec 8) (uncorr : Bool) (s : State) : Ans :=
  s.actMem (copyComplete ring.val tag uncorr)

/-! ### The background test (R432, R433) -/

/-- Banks of a group and regions of a bank (R427). -/
def groupShape (g : Nat) : Nat × Nat :=
  if g < 32 then (8, 32) else if g < 36 then (4, 16) else if g < 44 then (12, 16) else (16, 16)

/-- Is a group present and its class enabled in MEM_CFG? -/
def groupTested (h : Hub) (g : Nat) : Bool :=
  if g < 32 then flag h aMemCfg 0
  else if g < 36 then flag h aMemCfg 1
  else if g < 44 then flag h aMemCfg 2 && decide (g - 36 < h.part.res.outputs)
  else flag h aMemCfg 3

/-- Is a bank of a group skipped: retired, or the bank of key-slot material (R432)? -/
def bankSkipped (h : Hub) (g b : Nat) : Bool :=
  if g < 32 then retired h 1 (8 * g + b)
  else if g < 36 then retired h 2 (4 * (g - 32) + b)
  else if g < 44 then retired h 4 (g - 36)
  else decide (g = 52) && decide (b = Config.keyBank.val)

/-- The region a group tests next: NEXT, or the first of the next bank that is not skipped. -/
def regionDue (h : Hub) (g : Nat) : Option Nat :=
  let s := groupShape g
  let next := fld h (aMemGrpStatus g) 0 8 % (s.1 * s.2)
  if !bankSkipped h g (next / s.2) then some next
  else ((List.range s.1).map (fun i => (next / s.2 + 1 + i) % s.1 * s.2)).find? (fun r => !bankSkipped h g (r / s.2))

/-- A bank fails for good: what the fault manager does (R433, R435). -/
def bankHard (g b : Nat) : List FAct :=
  if g < 32 then [.retire 1 (8 * g + b) 1 0]
  else if g < 36 then [.retire 2 (4 * (g - 32) + b) 1 0]
  else if g < 44 then [.retire 4 (g - 36) 1 0]
  else [.stateBank (g - 44) b 1]

/-- A region failed: its rows take spares and it is tested again, or the bank is retired (R433). -/
def regionFailed (h : Hub) (g b : Nat) (f : RegionFail) : Hub :=
  let key := g * 32 + b
  let rows := max 1 (min 8 f.rows)
  let used := tget 0 h.mst.spares key
  let spare := if 32 ≤ g ∧ g < 36 then 2 else 4
  if f.again ∨ spare < used + rows then
    let h := if 36 ≤ g ∧ g < 44 then raise h 0x0E 2 0 0 else h
    faults h (bankHard g b)
  else
    let h := { h with mst := { h.mst with spares := tset 0 h.mst.spares key (used + rows) } }
    let h := setFld h (aMemGrpStatus g) 16 8 (min 255 (fld h (aMemGrpStatus g) 16 8 + rows))
    raise (count h aMemCntRepair rows) 0x0E 1 0 0

/-- March C− over every bank, at power-on reset (`all`) or at the return from Doze, where retired banks and the bank of key-slot
material are passed over: a failing bank is repaired or retires before traffic starts (R432, R434). Which banks fail is free
(notes/assumptions/99.md). -/
def marchTest (all : Bool) (h : Hub) : Hub :=
  (Config.marchFails h.free).foldl (fun h f =>
    let g := f.1.val
    let b := f.2.1.val % (groupShape g).1
    if (36 ≤ g ∧ g < 44 ∧ h.part.res.outputs ≤ g - 36) ∨ (!all ∧ bankSkipped h g b) then h
    else regionFailed h g b ⟨f.1, f.2.2.1, f.2.2.2⟩) { h with free := h.free + 1 }

/-- One region of a group (R432). -/
def testGroup (fails : List RegionFail) (h : Hub) (g : Nat) : Hub :=
  if !groupTested h g then h
  else match regionDue h g with
    | none => h
    | some r =>
      let s := groupShape g
      let h := count (setFld h (aMemGrpStatus g) 0 8 ((r + 1) % (s.1 * s.2))) aMemCntTestRegions 1
      match fails.find? (fun f => decide (f.group.val = g)) with
      | some f => regionFailed h g (r / s.2) f
      | none => h

/-- BACKGROUND_TEST: once a tick in P3, one region of each enabled group; a test suspended at the edge comes first (R45, R47, R432). -/
def backgroundTest (fails : List RegionFail) (h : Hub) : Hub :=
  let late := phaseSuspended h 3
  if !phaseOpen h 3 || (decide (h.tim.edges ≤ h.mst.testEdge) && !late) then h
  else
    let h := enterPhase h 3
    let h := if late then resumed h 3 else { h with mst := { h.mst with testEdge := h.tim.edges } }
    (List.range 53).foldl (testGroup fails) h

def execBackgroundTest (fails : List RegionFail) (s : State) : Ans := s.act (backgroundTest fails)

/-! ### SRAM errors (R429, R430) -/

/-- Bucket class, index and bank of a site (R429, R470). -/
def siteBucket (s : SramSite) : Nat × Nat × Nat :=
  match s with
  | .cask k _ => (1, k.val, 0)
  | .imem b _ => (2, b.val, 0)
  | .rings b _ => (2, 4 + b.val, 0)
  | .staging b _ => (2, 8 + b.val, 0)
  | .snapshot b => (2, 12 + b.val, 0)
  | .marks _ => (2, 14, 0)
  | .faultLog _ => (2, 15, 0)
  | .display o _ => (4, o.val, 0)
  | .state g b _ => (9, g.val, b.val)

/-- A mark record is marked invalid (R430, R463). -/
def markInvalid (h : Hub) (id : Nat) : Hub :=
  let h := markClose h id 0xFE
  { h with tel := { h.tel with closed := h.tel.closed.map (fun m => if m.pkt = id then { m with fate := 0xFE } else m) } }

/-- The effect of an uncorrectable word by what it holds (R430). -/
def sramEffect (h : Hub) (s : SramSite) : Hub :=
  match s with
  | .cask k (some id) =>
    if (packetsOfCask h k.val).contains id then
      { h with swc := { h.swc with lost := tset false h.swc.lost id true } }
    else h
  | .imem _ (some th) =>
    match threadCmd h th with
    | some c => if c.imem ∧ c.wait.isNone then settle h c.id .fault 0 else h
    | none => h
  | .rings _ (some r) => fetchFault h r.val
  | .staging _ (some (n, i)) =>
    { h with mst := { h.mst with badRec := tmod [] h.mst.badRec n.val (fun l => l ++ [i]) } }
  | .snapshot _ =>
    if h.tel.snap = [] then h
    else raise { h with tel := { h.tel with snap := h.tel.snap.set 6 ((h.tel.snap[6]?).getD 0 ||| 2) } } 0x0F 3 0 0
  | .marks (some id) => markInvalid h id
  | .faultLog (some k) =>
    -- the manual gives a lost record no mark of its own: what it reads is free
    let r := (List.range 4).foldl (fun (r : Hub × BitVec 256) _ =>
      ((drawFree r.1).1, BitVec.ofNat 256 (r.2.toNat * 2 ^ 64 + (drawFree r.1).2.toNat))) (h, 0)
    if (tfind h.flt.log k.val).isSome then { r.1 with flt := { r.1.flt with log := tput r.1.flt.log k.val r.2 } } else h
  | .display o (some (k, px)) => dspUnderrun o.val k.val true px h
  | .state _ _ (some (.tag n)) =>
    if (tfind h.tun.tags n.val).isSome then raise (count (freeTag h n.val false) aTunCntCplTimeout 1) 0x07 2 0 0 else h
  | .state _ _ (some (.queue q)) =>
    let r := purge h (fun p => decide (p.queue = q.val))
    marksClose r.1 r.2 4
  | .state _ _ (some (.device k)) => if (tfind h.tun.devs k.val).isSome then detach h k.val else h
  | _ => h

/-- SRAM_ERROR: a single error is corrected; a double one is uncorrectable, but for a configuration record, which its shadow
restores (R429, R430). -/
def sramError (s : SramSite) (double : Bool) (h : Hub) : Hub :=
  let b := siteBucket s
  let shadow := match s with
    | .state _ _ (some .record) => true
    | _ => false
  let there := decide (b.1 ≠ 4) || decide (b.2.1 < h.part.res.outputs)
  if !there then h
  else if double ∧ !shadow then
    let h := raise (count h aMemCntSramUncorr 1) 0x0E 0 0 0
    faults (sramEffect h s) [.add b.1 b.2.1 8 b.2.2]
  else faults (tally (count h aMemCntSramCorr 1) 0x90 0x0902 1 none) [.add b.1 b.2.1 1 b.2.2]

def execSramError (site : SramSite) (double : Bool) (s : State) : Ans := s.act (sramError site double)

/-! ### Cellar errors (R440-R444) -/

/-- Is a channel in the map and in service? -/
def channelOn (h : Hub) (c : Nat) : Bool := (chanMap h).contains c && !flag h aMemCellarStatus (16 + c)

/-- A corrected line: every 2^CELLAR_CORR_SHIFT of them add 1 to the bucket (R440). -/
def cellarCorr (c : Nat) (h : Hub) : Hub :=
  if !channelOn h c then h
  else
    let h := tally (count h (aMemChCntCorr c) 1) 0x90 0x0903 1 none
    let n := tget 0 h.mst.corr c + 1
    let u := 2 ^ fld h aMemCfg 8 5
    faults { h with mst := { h.mst with corr := tset 0 h.mst.corr c (n % u) } } [.add 3 c (n / u) 0]

def execCellarCorrection (ch : Fin 8) (s : State) : Ans := s.act (cellarCorr ch.val)

/-- CELLAR_UNCORR: the first detection of an uncorrectable line poisons it; a second error in a row on the watch list retires the
channel (R441, R442). -/
def cellarUncorr (c addr row : Nat) (ppr : Bool) (h : Hub) : Hub :=
  if !channelOn h c || decide (chanOf h addr ≠ c) || decide (installedBytes h ≤ addr) || tget false h.mst.poison (addr / 64) then h
  else
    let h := count { h with mst := { h.mst with poison := tset false h.mst.poison (addr / 64) true } } (aMemChCntUncorr c) 1
    let h := raise (wr64 h (aMemChErrLo c) addr) 0x0E 3 0 c
    let rows := tget [] h.mst.watch c
    if rows.contains row then faults h [.add 3 c 1 0, .retire 3 c 1 0]
    else
      let rows := if 64 ≤ rows.length then rows.drop 1 ++ [row] else rows ++ [row]
      let h := setFld { h with mst := { h.mst with watch := tset [] h.mst.watch c rows } } (aMemChStatus c) 0 7 rows.length
      let h := if ppr then setFld h (aMemChStatus c) 8 8 (min 255 (fld h (aMemChStatus c) 8 8 + 1)) else h
      faults h [.add 3 c 1 0]

def execCellarUncorr (ch : Fin 8) (addr : BitVec 64) (row : Nat) (ppr : Bool) (s : State) : Ans :=
  s.act (cellarUncorr ch.val addr.toNat row ppr)

/-- PATROL_SCRUB: the pass goes on as time does and writes back the lines it corrected (R443). -/
def patrolScrub (corrected : List (Fin 8)) (h : Hub) : Hub :=
  if !flag h aMemScrubCfg 31 || !cellarReady h || flag h aMemCellarStatus 30 then h
  else
    let h := corrected.foldl (fun h c => cellarCorr c.val h) h
    let full := max 1 (fld h aMemScrubCfg 0 8 * 28800000)
    let gone := edgesSince h h.mst.scrubFrom
    let at_ := if full ≤ gone then installedBytes h / 64 else installedBytes h / 64 * gone / full
    let h := moved h 6 false (at_ - h.mst.scrubAt)
    let h := { h with mst := { h.mst with scrubAt := if full ≤ gone then 0 else at_ } }
    if full ≤ gone then
      let h := setFld (setFld h aMemScrubStatus 0 10 0) aMemScrubStatus 16 16 (min 65535 (fld h aMemScrubStatus 16 16 + 1))
      { h with mst := { h.mst with scrubFrom := h.tim.edges } }
    else setFld h aMemScrubStatus 0 10 (gone * 1000 / full)

def execPatrolScrub (corrected : List (Fin 8)) (s : State) : Ans := s.act (patrolScrub corrected)

/-- The channels that trained make the map; it fixes density, size and rate, and the others retire (R438, R447). -/
def cellarMap (h : Hub) (trained : Nat) : Hub :=
  let present := List.range h.part.res.channels
  let map := present.filter (bitOf trained)
  let dens := map.map (fun c => (h.part.densities[c]?).getD 0)
  let low := (dens.foldl (fun (m : Option Nat) d => some (match m with
    | some x => min x d
    | none => d)) none).getD 0
  let h := setFld (setFld h aMemCellarStatus 0 4 map.length) aMemCellarStatus 8 8 (maskOf 8 (fun c => map.contains c))
  let h := wr h aMemCellarSize (W (low * 2 ^ 16 + map.length * low * 15 / 16))
  let h := map.foldl (fun h c => setFld h (aMemChStatus c) 29 3 2) (setCapacity h)
  let h := if dens.any (fun d => decide (d ≠ low)) then raise h 0x0E 7 0 0 else h
  (present.filter (fun c => !bitOf trained c)).foldl (fun h c => setFld (faults h [.retire 3 c 3 0]) (aMemChStatus c) 29 3 5) h

/-- The scrub restarts from address 0 (R443). -/
def scrubRestart (h : Hub) : Hub :=
  setFld { h with mst := { h.mst with scrubFrom := h.tim.edges, scrubAt := 0 } } aMemScrubStatus 0 10 0

/-- CELLAR_READY: training and the zero fill end (R438, R443, R446). -/
def cellarReadySet (trained : Nat) (h : Hub) : Hub :=
  if cellarReady h then h
  else
    let h := if fld h aMemCellarStatus 8 8 = 0 then cellarMap h trained else h
    scrubRestart (setFlag h aMemCellarStatus 31 true)

def execCellarReady (trained : BitVec 8) (s : State) : Ans := s.act (cellarReadySet trained.toNat)

end Sys2Proof.Machine
end

