-- ==== Sys2Proof/Machine/Reset.lean ====
section
/-!
DEFINITION. What the resets and Doze keep (R517): registers by mask, the other state by block; the trim store and the lane
seeds (R194, R518); bring-up after a power-on reset (R490, R492), warm reset (R514), software reset (R515).
-/
namespace Sys2Proof.Machine

/-- The ways in which state is lost (R517): power-on reset, brown-out, leaving Off, warm reset, software reset, Doze. -/
inductive ResetKind where
  | powerOn | brownOut | offExit | warm | software | doze
deriving DecidableEq, Repr

/-- Base addresses of the counters: R452, slots, fixed-function. -/
def counterBases : List Nat := [
  0x2009C4, 0x400050, 0x400054, 0x400058, 0x40005C, 0x400060, 0x400064, 0x400068, 0x40006C, 0x300240, 0x300244, 0x300248,
  0x30024C, 0x300250, 0x500020, 0x500024, 0x500028, 0x50002C, 0x500030, 0x500034, 0x500038, 0x50003C, 0x503100, 0x503104,
  0x503108, 0x50310C, 0x503110, 0x503114, 0x503118, 0x50311C, 0x600800, 0x600804, 0x600808, 0x60080C, 0x600810, 0x600814,
  0x600818, 0x790000, 0x790004, 0x7B0000, 0x7B0004, 0x7B0008, 0x800080, 0x800084, 0x800088, 0x80008C, 0x800090, 0x900040,
  0x900044, 0x900048, 0x90004C, 0x900050, 0x900054, 0x900058, 0xA00040, 0xA00044, 0xA00048, 0xB00080, 0xB00084, 0xB00088,
  0xC00080, 0xC00084, 0xC00088, 0xC0008C, 0xC0040C, 0xC00410, 0xC00414, 0xD00040, 0xD00044, 0xD00048, 0xD0004C, 0xD00800,
  0xD00804, 0xD00808, 0xD0080C, 0xD00810, 0xD00814, 0xD00818, 0xD0081C, 0xD00820, 0xD00824, 0xD10000, 0xD10004, 0xE00020,
  0xE00030, 0xE00034, 0xF00058, 0xF01014]

/-- Wake record and PWR_RESET_CAUSE. -/
def keptBrown (b : Nat) : Bool := b == aPwrResetCause || (decide (aPwrWakeRecord ≤ b) && decide (b ≤ aPwrWakeCount))

/-- What a warm reset keeps beside it: retirement records and what they say, fault log, e-fuse channels and feeds, trim
store, PWR_SB_CFG, and what the manual counts since power-on. -/
def keptWarm (b : Nat) : Bool :=
  keptBrown b || [aPwrSbCfg, aPwrTemp, aPwrTrimCmd, aPwrTrimSrcLo, aPwrTrimSrcHi, aPwrTrimStatus, aPwrFeedStatus 0, aPwrPwcStatus 0,
    aPwrPwcMeas 0, aFltLogSeq, aFltLogWr, aFltPAck 0, aFltRet 0 0, aFltBkt 0 0, aLaneRetired 0, aMemCellarStatus, aMemCellarSize,
    aMemCapacity, aMemRetiredCask 0, aMemRetiredBanks, aMemGrpStatus 0, aMemChStatus 0, aVdkSaveCountLo, aVdkSaveCountHi, aTelSeqLo,
    aTelSeqHi, aTunCpluse 0, aSwcPortVoquse 0].contains b

/-- What Doze keeps beside it: scratch, host state and dock state, vintages, and the timebase, the vault and the always-on
blocks. -/
def keptDoze (b : Nat) : Bool :=
  keptWarm b || [1, 10, 11, 15].contains (b / 0x100000) ||
  [aTrnScratch 0, aTrnDspVintLo 0, aTrnDspVintHi 0, aTrnAppliedTickLo, aTrnAppliedTickHi, aTunDbPending 0, aTunDb 0 0, aSwcGrpStatus 0,
    aSwcGrpMap 0 0].contains b

/-- What a software reset does not keep beside the counters: rings, threads, runs, and what stands for requests and
packets. -/
def lostSoft (b : Nat) : Bool :=
  [aTrnThread 0, aTrnCrCtl 0, aTrnCrTail 0, aTrnCrHead 0, aTrnCrStatus 0, aTrnCcCfg 0, aTrnCcTail 0, aTrnCcHead 0, aTrnTpStatus 0,
    aTunBrgLock 0, aLaneScans, aLaneScanStatus 0, aLaneLoop 0, aSwcFenceStatus, aUsbEpmUse 0].contains b

/-- The bits of a register that survive; configuration records are the SH bits. -/
def keepMask (k : ResetKind) (r : RegRow) : Word :=
  let whole := !counterBases.contains r.base && (match k with
    | .powerOn => false
    | .brownOut => keptBrown r.base
    | .offExit => keptBrown r.base
    | .warm => keptWarm r.base
    | .doze => keptDoze r.base
    | .software => !lostSoft r.base)
  if whole then BitVec.allOnes 32
  else if k = .software ∨ k = .doze then r.sh
  else 0

/-- The registers after a reset. -/
def resetRegs (k : ResetKind) (h : Hub) : Tab Word :=
  h.regs.filterMap (fun e =>
    match regRow e.1 with
    | some (r, _) =>
      let m := keepMask k r
      let d := resetVal h.part e.1
      let v := (e.2 &&& m) ||| (d &&& ~~~m)
      if v = d then none else some (e.1, v)
    | none => none)

/-! ### Trim store and lane seeds (R194, R518) -/

/-- Is the store's CRC right? -/
def trimValid : Option (List Byte) → Bool
  | none => true
  | some bs => decide (bs.length = 65536) && decide (crc32 (toNats (bs.take 65532)) = leNat (bs.drop 65532))

/-- Load one seed record into LANE_SEEDk of lane l, or the defaults when its check fails. The reset values are those of the factory
store (R194). -/
def seedLoad (h : Hub) (l k : Nat) : Hub :=
  let v := storeRecord h l k
  let h := match h.pwr.trim with
    | none => h
    | some _ => if l < 96 ∨ k = 0 then wr64 (drawFree (drawFree h).1).1 (aLaneSeedLo l k) (seedOr v (drawFree (drawFree h).1).2.toNat) else h
  if seedOk v then h else raise h 0x04 0 l 0

/-- The seeds of every lane present. -/
def seedsLoad (h : Hub) : Hub :=
  ((List.range 98).filter (lanePresent h.part.res)).foldl (fun h l => (List.range 4).foldl (fun h k => seedLoad h l k) h) h

/-- A programming of the trim store that loses its supply leaves a store whose CRC fails (R519). -/
def trimCut (h : Hub) : Hub :=
  if h.pwr.trimNew.isSome then { h with pwr := { h.pwr with trim := some [], trimNew := none } } else h

/-! ### Resets -/

/-- LANE_STATUS and DSP_STATUS of what is retired (R473). -/
def showRetired (h : Hub) : Hub :=
  let h := (List.range 96).foldl (fun h l => if laneRetired h l then setFld h (aLaneStatus l) 28 3 5 else h) h
  (List.range 8).foldl (fun h o => if retired h 4 o then setFld h (aDspStatus o) 28 3 5 else h) h

/-- The state that a power-on reset, a brown-out or an exit from Off leaves, before bring-up: DEBUG ends, and with
FT2412_COMPAT its destruction raises the epoch (R404). What was sent outward and the free values drawn stay. -/
def coldHub (k : ResetKind) (h : Hub) : Hub :=
  let h := trimCut h
  let debug := decide (h.keys.lc = 3) && h.part.compat
  let full := debug && decide (h.part.epoch = 255)
  let p := if debug && !full then { h.part with epoch := h.part.epoch + 1 } else h.part
  let z := resetHub p
  let z := { z with
    regs := resetRegs k { h with part := p }
    dck := { z.dck with boots := h.dck.boots + 1 }
    pwr := { z.pwr with det := h.pwr.det, trim := h.pwr.trim }
    out := h.out
    free := h.free }
  if full then raise z 0x0D 1 0 0 else z

/-- Bring-up (R490): seeds and trim store are loaded and checked, and the SRAM banks are tested (R434). The cellar trains and fills after it: CELLAR_READY. -/
def bringUp (k : ResetKind) (cause : Nat) (h : Hub) : Hub :=
  let h := setFld (seedsLoad (coldHub k h)) aPwrResetCause 0 3 cause
  marchTest true (if trimValid h.pwr.trim then h else raise h 0x11 11 0 0)

/-- The cellar enters or leaves self-refresh: every ready channel with it (R446, R508, R514). -/
def selfRefresh (h : Hub) (on : Bool) : Hub :=
  (List.range 8).foldl (fun h c =>
    if fld h (aMemChStatus c) 29 3 = (if on then 2 else 3) then setFld h (aMemChStatus c) 29 3 (if on then 3 else 2) else h)
    (setFlag h aMemCellarStatus 30 on)

/-- WARM_RESET: the cellar enters self-refresh, the management links go down, the core is held (R514). -/
def warmReset (h : Hub) : Hub :=
  let h := selfRefresh h true
  { h with
      trn := { h.trn with linkUp0 := false, linkUp1 := false }
      pwr := { h.pwr with mode := .warm } }

def execWarmReset (s : State) : Ans := s.act warmReset

/-- Memory state that a reset without loss of the cellar keeps. -/
def keepMst (h : Hub) : Mst := { h.mst with copies := [], chan := [], badRec := [] }

/-- The core after a warm reset: time, keys, retirements, fault log, cellar and e-fuse channels are kept. -/
def warmHub (h : Hub) : Hub :=
  let z := resetHub h.part
  { z with
    regs := resetRegs .warm h
    tim := { z.tim with
      edgeFx := h.tim.edgeFx, baseFx := hubFx h, baseClk := h.tim.coreClk, rateTop := max h.tim.rateTop (rateNow h).natAbs
      coreClk := h.tim.coreClk, edgeClk := h.tim.edgeClk, tickLen := h.tim.tickLen, edges := h.tim.edges }
    trn := { z.trn with nextCmd := h.trn.nextCmd }
    txs := { z.txs with nextId := h.txs.nextId }
    flt := { h.flt with holdoff := [], due := [], restores := [] }
    keys := h.keys
    mst := keepMst h
    tun := { z.tun with tagHigh := h.tun.tagHigh }
    swc := { z.swc with nextPkt := h.swc.nextPkt }
    dck := { z.dck with boots := h.dck.boots }
    tel := { z.tel with marks := h.tel.marks }
    pwr := { h.pwr with mode := .run, waiting := [], holdMin := [] }
    out := h.out
    free := h.free }

/-- WARM_RESET_RELEASE: bring-up from step 6, with the seeds from the trim store; the cellar leaves self-refresh as it was (R514). -/
def warmRelease (h : Hub) : Hub :=
  if h.pwr.mode ≠ .warm then h
  else selfRefresh (showRetired (setFld (seedsLoad (warmHub h)) aPwrResetCause 0 3 3)) false

def execWarmResetRelease (s : State) : Ans := s.actAon warmRelease

/-- The core after a software reset (R515): the data plane, Turner's threads and rings and the commit queue are reset; the
trunks went through link-down before it. -/
def softHub (h : Hub) : Hub :=
  let z := resetHub h.part
  { h with
    regs := resetRegs .software h
    latch := h.latch.filter (fun e => !(decide (2 ≤ e.1 / 2 ^ 24) && decide (e.1 / 2 ^ 24 < 6)))
    trn := { h.trn with
      ringMem := [], ccMem := [], cmds := [], lastRing := 7, tpPending := 0, tpEdge := [] }
    txs := { h.txs with
      open_ := [], submitted := [], queue := [], delivering := none
      sliceSel := h.txs.sliceSel.filter (fun e => !(decide (2 ≤ e.1) && decide (e.1 < 6))) }
    flt := { h.flt with restores := [] }
    arrived := []
    mst := keepMst h
    tun := { h.tun with
      tags := [], waitTag := [], waitPool := [], moves := [], segIn := [], segOut := [], lockEdge := [], lockHeld := [],
      prefetch := [], cplUse := [] }
    swc := { z.swc with nextPkt := h.swc.nextPkt }
    tmg := z.tmg
    usb := { h.usb with periodic := [], async := [], blocks := [], heldDown := [], heldUp := [], drain := [] }
    dck := { h.dck with freezeEdge := [], freezeCmd := [], ops := [], image := [] }
    tel := { z.tel with marks := h.tel.marks, lfsr := h.tel.lfsr }
    lns := { h.lns with scans := [], x1Cmd := [] }
    dsp := { h.dsp with late := [] }
    pwr := { h.pwr with waiting := [] } }

/-- Every trunk that is not disabled goes through link-down, and trains anew (R167, R515). -/
def softTrunks (h : Hub) : Hub :=
  (List.range 8).foldl (fun h n => if trkState h n = 0 then h else toDetect (linkDown h n) n) h

/-- Every reset ends the loops, and a scan ends with its command (R204, R515). -/
def softLanes (h : Hub) : Hub :=
  (List.range 96).foldl (fun h l => setFlag (if laneState h l = 4 then loopSet h l 0 else h) (aLaneStatus l) 22 false) h

/-- A software reset: TRN_CTL.RUN is 1 after it, and the hub pairs take their default state (R354, R515). -/
def softReset (h : Hub) : Hub :=
  let h := softHub (softLanes (softTrunks h))
  let h := (createdDocks h).foldl usbDefault h
  setFld (setFlag h aTrnCtl 0 true) aPwrResetCause 0 3 4

/-- HALT mode 2 with its key starts a software reset; another key, a tick program, or mode 3 gives INVALID (R92, R97). -/
def execHaltMode2 (th : Fin 4) (s : State) : Ans :=
  s.act (fun h => onInstr h th 0x07 (fun h c w =>
    if w.operand % 4 < 2 then h
    else if w.target ≠ 0 ∨ w.operand ≠ 0xC0DE0002 ∨ c.tp.isSome then settle h c.id .invalid 0
    else softReset h))

/-- POWER_ON_RESET: VSTBY rises, or (cause 1) fell, or the always-on regulator passed its limit (R490, R492). -/
def powerOnReset (limit : Bool) (h : Hub) : Hub := bringUp .powerOn (if limit then 1 else 0) h

/-- The cellar is filled with zeros (R446). -/
def execPowerOnReset (alwaysOnLimit : Bool) (s : State) : Ans :=
  s.actAonMem (fun _ h => (⟨[]⟩, powerOnReset alwaysOnLimit h))

/-- BROWN_OUT: monitor m, 0 to 7, reads below reset while it acts (R488, R492); in Doze only the rails powered there. -/
def brownOut (m : Nat) (mem : Mem) (h : Hub) : Mem × Hub :=
  let acts := match h.pwr.mode with
    | .off => false
    | .railWait => false
    | .doze => [0, 2, 6, 7].contains m
    | _ => decide (m < 8)
  if acts then (⟨[]⟩, setFld (bringUp .brownOut 2 h) aPwrResetCause 8 4 m) else (mem, h)

def execBrownOut (m : Fin 9) (s : State) : Ans := s.actAonMem (brownOut m.val)

/-- RAIL_FAIL: a rail missed its window in bring-up; every enable drops (R491). -/
def railFail (m : Nat) (h : Hub) : Hub :=
  match h.pwr.mode with
  | .off => h
  | .railWait => h
  | _ =>
    let h := setFld h aPwrResetCause 16 16 (min 65535 (fld h aPwrResetCause 16 16 + 1))
    let h := setFld h aPwrResetCause 8 4 m
    { h with pwr := { h.pwr with mode := .railWait } }

def execRailFail (m : Fin 9) (s : State) : Ans := s.actAon (railFail m.val)

/-- RAIL_RETRY: after 1 s the bring-up repeats from step 2; the cause of the reset it repeats stands (R491). -/
def railRetry (m : Mem) (h : Hub) : Mem × Hub :=
  if h.pwr.mode = .railWait then (⟨[]⟩, bringUp .brownOut (fld h aPwrResetCause 0 3) h) else (m, h)

def execRailRetry (s : State) : Ans := s.actAonMem railRetry

end Sys2Proof.Machine
end

