-- ==== Sys2Proof/Machine/Power.lean ====
section
/-!
DEFINITION. Power (chapter 18): hold, feeds, e-fuse channels, Idle, Doze and Off with the sentry and the wakes, dock reset, and
the rewrite of the trim store.
-/
namespace Sys2Proof.Machine

/-- Post a power event (R521). -/
def pwrEvent (h : Hub) (bit : Nat) : Hub := raise h 0x11 bit 0 0

/-! ### Hold (R493, R494) -/

/-- A reading of monitor m. -/
def monRead (h : Hub) (m mv : Nat) : Hub :=
  let h := setFld (setFld h (aPwrMonStatus m) 0 16 mv) (aPwrMonStatus m) 16 16 (min mv (fld h (aPwrMonStatus m) 16 16))
  { h with pwr := { h.pwr with
      holdLow := h.tim.edges
      holdMin := tput h.pwr.holdMin m (min mv (tget 65535 h.pwr.holdMin m)) } }

/-- HOLD_ENTER: a rail below warning and not below reset (R488, R493); in hold, a further sample below WARN + HYST, which
restarts the count (R494). -/
def holdEnter (m mv : Nat) (h : Hub) : Hub :=
  let warn := fld h (aPwrMonLevels m) 0 16
  let reset := fld h (aPwrMonLevels m) 16 16
  if mv < reset then h
  else if inHold h then
    if mv < warn + fld h (aPwrMonHyst m) 0 16 then monRead h m mv else h
  else if warn ≤ mv then h
  else
    let h := monRead { h with pwr := { h.pwr with holdFrom := h.tim.edges, holdMin := [] } } m mv
    let h := tally (count (setFlag h aPwrStatus 30 true) aPwrCntHold 1) 0xB0 0x0B01 1 none
    lateLatches (pwrEvent h 0)

def execHoldEnter (m : Fin 9) (mv : BitVec 16) (s : State) : Ans := s.act (holdEnter m.val mv.toNat)

/-- The monitor whose lowest reading lay lowest relative to its WARN level, by the ratio of the two. -/
def lowestMonitor (h : Hub) : Nat × Nat :=
  h.pwr.holdMin.foldl (fun b e =>
    if e.2 * fld h (aPwrMonLevels b.1) 0 16 < b.2 * fld h (aPwrMonLevels e.1) 0 16 then e else b) ((h.pwr.holdMin.head?).getD (0, 0))

/-- HOLD_EXIT: eight edges after the last low sample hold ends (R494). -/
def holdExit (h : Hub) : Hub :=
  if !inHold h || decide (edgesSince h h.pwr.holdLow < 8) then h
  else
    let x := lowestMonitor h
    let h := wr (wr h aPwrHoldLast (W (x.2 * 2 ^ 16 + x.1 * 2 ^ 12))) aPwrHoldTicks (W (edgesSince h h.pwr.holdFrom))
    let h := (List.range 9).foldl (fun h m => setFld h (aPwrMonStatus m) 16 16 0xFFFF) (setFlag h aPwrStatus 30 false)
    pwrEvent { h with pwr := { h.pwr with holdMin := [] } } 1

def execHoldExit (s : State) : Ans := s.act holdExit

/-! ### Feeds (R495-R497) -/

/-- Is a voltage in a feed's range? -/
def feedIn (h : Hub) (x mv : Nat) : Bool := decide (fld h (aPwrFeedCfg x) 0 16 ≤ mv) && decide (mv ≤ 13800)

def feedOn (h : Hub) (x : Nat) : Bool := flag h (aPwrFeedStatus x) 31

/-- FEED_PRESENT: the feed's gate ramps; FEED_BACK when it had been lost (R495, R497). -/
def feedPresent (x mv : Nat) (h : Hub) : Hub :=
  if !feedIn h x mv || feedOn h x then h
  else
    let back := tget false h.pwr.lost x
    let h := setFld (setFld h (aPwrFeedStatus x) 30 2 3) (aPwrFeedStatus x) 0 16 mv
    let h := { h with pwr := { h.pwr with lost := tset false h.pwr.lost x false } }
    if back then pwrEvent h 3 else h

def execFeedPresent (x : Fin 2) (mv : BitVec 16) (s : State) : Ans := s.actAon (feedPresent x.val mv.toNat)

/-- FEED_LOST: the gate is pulled down (R497). -/
def feedLost (x : Nat) (h : Hub) : Hub :=
  if !feedOn h x then h
  else
    let h := setFld h (aPwrFeedStatus x) 30 2 0
    pwrEvent { h with pwr := { h.pwr with lost := tset false h.pwr.lost x true } } 2

def execFeedLost (x : Fin 2) (s : State) : Ans := s.actAon (feedLost x.val)

/-- FEED_OVER: the feed's current exceeded ILIM for 1 ms; the feed stays on (R497). -/
def execFeedOver (x : Fin 2) (s : State) : Ans := s.actAon (fun h => if feedOn h x.val then pwrEvent h 4 else h)

/-! ### E-fuse channels (R498-R505) -/

/-- STATE of a channel (R499). -/
def pwcState (h : Hub) (c : Nat) : Nat := fld h (aPwrPwcStatus c) 29 3
def setPwc (h : Hub) (c st : Nat) : Hub := setFld h (aPwrPwcStatus c) 29 3 st

/-- Is a channel present on the part (R498)? -/
def pwcOnPart (h : Hub) (c : Nat) : Bool := resPresent h 8 c

/-- Nominal output in mV, and whether an output lies in its window (R498, R501). -/
def pwcNominal (c : Nat) : Nat := if c < 16 then 5000 else 12000
def pwcWindow (c mv : Nat) : Bool := decide (pwcNominal c * 95 ≤ mv * 100) && decide (mv * 100 ≤ pwcNominal c * 105)

/-- The PWC.ON commands that wait for a channel complete. -/
def pwcSettle (h : Hub) (c : Nat) (st : Status) (v : Nat) : Hub :=
  let l := tget [] h.pwr.waiting c
  l.foldl (fun h id => settle h id st v) { h with pwr := { h.pwr with waiting := tset [] h.pwr.waiting c [] } }

/-- Power-good is withdrawn and the gate pulled down (R502). -/
def gateOff (h : Hub) (c : Nat) : Hub :=
  let h := setFlag h (aPwrPwcStatus c) 28 false
  { h with pwr := { h.pwr with gateDown := tput h.pwr.gateDown c h.tim.edges } }

/-- PWC.ON (R499, R505). -/
def pwcOn (h : Hub) (c : Cmd) (w : IW) : Hub :=
  let n := w.target
  if w.operand ≠ 0 ∨ !pwcOnPart h n then settle h c.id .invalid 0
  else match oConflict h c (resScope 8 n) with
    | some m => settle h c.id .conflict m
    | none =>
      if pwcState h n = 5 then settle h c.id .fault 0x0A10
      else
        let h := setFlag h (aPwrPwcStatus n) 26 true
        let h := if pwcState h n = 0 then setPwc h n 1 else h
        if pwcState h n = 3 then settle h c.id .ok (fld h (aPwrPwcMeas n) 0 16)
        else if 16 ≤ n ∧ !tget false h.pwr.det n then settle h c.id .timeout 0x0A20
        else
          let h := beginWait h c w .op
          { h with pwr := { h.pwr with waiting := tset [] h.pwr.waiting n (tget [] h.pwr.waiting n ++ [c.id]) } }

def execPwcOn (th : Fin 4) (s : State) : Ans := s.act (fun h => onLong h th 0x70 pwcOn)

/-- PWC.OFF: the channel goes to OFF from every state but RETIRED; a PWC.ON that waits completes with result 0 (R503, R505). -/
def pwcOff (h : Hub) (c : Cmd) (w : IW) : Hub :=
  let n := w.target
  if w.operand ≠ 0 ∨ !pwcOnPart h n then settle h c.id .invalid 0
  else match oConflict h c (resScope 8 n) with
    | some m => settle h c.id .conflict m
    | none =>
      if pwcState h n = 5 then settle h c.id .ok 0
      else
        let on := decide (pwcState h n = 2) || decide (pwcState h n = 3)
        let h := setPwc (setFlag (setFlag h (aPwrPwcStatus n) 26 false) (aPwrPwcStatus n) 28 false) n 0
        let h := if on then gateOff h n else h
        let h := { h with pwr := { h.pwr with retry := tdel h.pwr.retry n } }
        settle (pwcSettle h n .ok 0) c.id .ok 0

def execPwcOff (th : Fin 4) (s : State) : Ans := s.act (fun h => onInstr h th 0x71 pwcOff)

/-- PWCn_DET# changes: the debounce restarts (R500). -/
def detChange (c : Nat) (low : Bool) (h : Hub) : Hub :=
  if c < 16 ∨ !pwcOnPart h c ∨ tget false h.pwr.det c = low then h
  else
    pwrEvent { h with pwr := { h.pwr with
      det := tset false h.pwr.det c low, detEdge := tput h.pwr.detEdge c h.tim.edges } } 8

/-- INSERTION (R500): in Off the pin only changes. -/
def insertionEvent (c : Nat) (low : Bool) (h : Hub) : Hub :=
  if h.pwr.mode = .off then
    (if 16 ≤ c then { h with pwr := { h.pwr with det := tset false h.pwr.det c low } } else h)
  else detChange c low h

def execInsertion (c : Fin 24) (low : Bool) (s : State) : Ans := s.actAon (insertionEvent c.val low)

/-- RAMP_START: a channel in DEBOUNCE ramps once its board is present and steady and no hold stands (R500). -/
def rampStart (c : Nat) (h : Hub) : Hub :=
  if pwcState h c ≠ 1 ∨ (16 ≤ c ∧ !pwcPresent h c) ∨ inHold h then h
  else
    let h := setPwc h c 2
    { h with pwr := { h.pwr with rampFrom := tput h.pwr.rampFrom c h.tim.edges } }

def execRampStart (c : Fin 24) (s : State) : Ans := s.actAon (rampStart c.val)

/-- What every trip does (R501, R505). -/
def tripDo (c cause : Nat) (h : Hub) : Hub :=
  let h := setFld (setPwc (gateOff h c) c 4) (aPwrPwcStatus c) 20 4 cause
  let h := { h with pwr := { h.pwr with retry := tput h.pwr.retry c h.tim.edges, tripped := h.pwr.tripped ||| 2 ^ c } }
  let h := pwrEvent (tally (count h (aPwrPwcTrips c) 1) 0xB0 0x0B00 1 none) 5
  let h := pwcSettle h c .fault (0x0A00 + cause)
  let h := if c < 16 then usbOverCurrent h c else h
  faults h [.add 8 c 4 0]

/-- TRIP with the causes 1 to 5, each in its state (R501). -/
def trip (c cause : Nat) (h : Hub) : Hub :=
  let st := pwcState h c
  let ok := match cause with
    | 1 => decide (st = 2)
    | 2 => decide (st = 3)
    | 3 => decide (st = 3)
    | 4 => decide (st = 2) && decide (16 * fld h (aPwrPwcCfg0 c) 16 8 ≤ edgesSince h (tget 0 h.pwr.rampFrom c))
    | 5 => decide (st = 3)
    | _ => false
  if ok then tripDo c cause h else h

def execTrip (c : Fin 24) (cause : BitVec 4) (s : State) : Ans := s.actAon (trip c.val cause.toNat)

/-- POWER_GOOD: the channel enters ON with its output in mV (R502, R505). -/
def powerGood (c mv : Nat) (h : Hub) : Hub :=
  if pwcState h c ≠ 2 ∨ !pwcWindow c mv ∨ edgesSince h (tget 0 h.pwr.rampFrom c) < 8 * fld h (aPwrPwcCfg1 c) 0 8 then h
  else
    let h := setFld (setFlag (setPwc h c 3) (aPwrPwcStatus c) 28 true) (aPwrPwcMeas c) 0 16 mv
    let h := pwcSettle (pwrEvent h 7) c .ok mv
    if c < 16 then usbPowerGood h c else h

def execPowerGood (c : Fin 24) (mv : BitVec 16) (s : State) : Ans := s.actAon (powerGood c.val mv.toNat)

/-- Milliseconds of a channel's retry wait that remain (R503). -/
def retryLeft (h : Hub) (c : Nat) : Nat :=
  match tfind h.pwr.retry c with
  | some e => (8 * fld h (aPwrPwcCfg0 c) 0 16 - edgesSince h e + 7) / 8
  | none => 0

/-- RETRY_END: the channel, still commanded on, debounces anew (R503). -/
def retryEnd (c : Nat) (h : Hub) : Hub :=
  if pwcState h c ≠ 4 ∨ retryLeft h c ≠ 0 then h
  else { (setPwc h c 1) with pwr := { h.pwr with retry := tdel h.pwr.retry c } }

def execRetryEnd (c : Fin 24) (s : State) : Ans := s.actAon (retryEnd c.val)

/-- REMOVAL: while ON, DET# high for 10 µs returns the channel to DEBOUNCE; it is no trip (R503). -/
def removal (c : Nat) (h : Hub) : Hub :=
  if c < 16 ∨ pwcState h c ≠ 3 then h
  else setPwc (gateOff (detChange c false h) c) c 1

def execRemoval (c : Fin 24) (s : State) : Ans := s.actAon (removal c.val)

/-- FET_SHORT: with its gate off for 50 ms the channel still has an output: a trip of cause 6, a hard detection, and
PWCn_FAULT# (R501, R504). -/
def fetShort (c : Nat) (h : Hub) : Hub :=
  let st := pwcState h c
  let settled := match tfind h.pwr.gateDown c with
    | some e => decide (400 ≤ edgesSince h e)
    | none => true
  if !pwcOnPart h c || !settled || !(st = 0 || st = 1 || st = 4) then h
  else
    let h := tripDo c 6 (pwrEvent h 6)
    let h := setFlag h (aPwrPwcStatus c) 25 true
    faults h [.retire 8 c 1 0]

def execFetShort (c : Fin 24) (s : State) : Ans := s.actAon (fetShort c.val)

/-! ### Power states (R506-R511) -/

/-- The shape of PWR.STATE's four rows: each acts on its own operand (R506). -/
def onState (h : Hub) (th : Fin 4) (n : Nat) (f : Hub → Cmd → Hub) : Hub :=
  onLong h th 0x72 (fun h c w =>
    if w.operand % 4 ≠ n then h
    else if w.target ≠ 0 ∨ w.operand ≠ n then settle h c.id .invalid 0
    else f h c)

def execPwrStateActive (th : Fin 4) (s : State) : Ans :=
  s.act (fun h => onState h th 0 (fun h c => settle (setFld h aPwrStatus 0 2 0) c.id .ok 0))

def execPwrStateIdle (th : Fin 4) (s : State) : Ans :=
  s.act (fun h => onState h th 1 (fun h c => settle (setFld h aPwrStatus 0 2 1) c.id .ok 0))

/-- Why Doze is denied, for a command (R506). -/
def dozeDenied (h : Hub) (id : Nat) : Option Nat :=
  if inHold h then some 0x0B01
  else if h.dck.ops ≠ [] ∨ (List.range 64).any (dockFrozen h) then some 0x0B02
  else if h.txs.open_ ≠ [] ∨ h.txs.submitted ≠ [] ∨ h.txs.queue ≠ [] ∨ h.txs.delivering.isSome ∨
      h.trn.cmds.any (fun c => decide (c.id ≠ id) && c.tp.isNone) then some 0x0B03
  else if !flag h aPwrDozeCfg 31 || !cellarReady h then some 0x0B04
  else none

/-- Trunks, outputs and ports stop; what is queued is discarded (R508 step 2). -/
def linksStop (h : Hub) : Hub :=
  let h := (List.range 8).foldl (fun h n => if trkState h n = 0 then h else trunkDisable h n) h
  let h := (List.range 8).foldl (fun h o => if dspState h o = 0 ∨ dspState h o = 5 then h else dspStop h o) h
  let h := (List.range 8).foldl (fun h n => pcieLinkDown n h) h
  let h := (List.range 16).foldl (fun h u => usbDisconnect u h) h
  let h := { h with tun := { h.tun with ethUp := 0 }, arrived := [] }
  (purge h (fun _ => true)).1

/-- Doze entry, steps 1 to 5 (R508): the image in the Doze region is free bytes, at most 16 MiB of them, since the manual
gives it no layout. -/
def dozeEntry (m : Mem) (h : Hub) : Mem × Hub :=
  let h := linksStop h
  let base := fld h aPwrDozeCfg 0 10 * 2 ^ 24
  let img := (Config.dozeImage h.free).take (2 ^ 24)
  let m := writeCellar m h base img
  let h := selfRefresh (unpoison (drawFree h).1 base img.length) true
  (m, { h with pwr := { h.pwr with
    mode := .dozeEntry
    dozeFrom := h.tim.edges
    tripped := 0
    feeds := [(0, (fld h (aPwrFeedStatus 0) 0 16, feedOn h 0)), (1, (fld h (aPwrFeedStatus 1) 0 16, feedOn h 1))] } })

/-- Does a thread stand at PWR.STATE with Doze, undenied? -/
def dozeAsked (h : Hub) (th : Fin 4) : Bool :=
  match threadCmd h th with
  | some c =>
    match fetchIW h c c.pc with
    | some w => !c.wait.isSome && c.tp.isNone && decide (c.count < budget h c) && c.started && decide (w.op = 0x72) && !w.bad &&
        !(c.imem && imemBad h c.pc w.words) &&
        decide (w.target = 0) && decide (w.operand = 2) && (dozeDenied h c.id).isNone
    | none => false
  | none => false

/-- PWR.STATE Doze (R506, R508). -/
def execPwrStateDoze (th : Fin 4) (s : State) : Ans :=
  s.actMem (fun m h =>
    let r := onState h th 2 (fun h c =>
      match dozeDenied h c.id with
      | some k => settle h c.id .denied k
      | none => settle (setFld h aPwrStatus 0 2 0) c.id .ok 0)
    if dozeAsked h th then dozeEntry m r else (m, r))

/-- Off: every channel is off, the core is in reset (R511). -/
def enterOff (thermal : Bool) (h : Hub) : Hub :=
  let h := (List.range 24).foldl (fun h c =>
    if pwcState h c = 5 then h
    else setPwc (setFlag (setFlag h (aPwrPwcStatus c) 26 false) (aPwrPwcStatus c) 28 false) c 0) (trimCut h)
  { h with pwr := { h.pwr with mode := .off, thermal := thermal, waiting := [], retry := [] } }

/-- PWR.STATE Off completes OK before the power-down (R506, R511). -/
def execPwrStateOff (th : Fin 4) (s : State) : Ans :=
  s.act (fun h => onState h th 3 (fun h c => enterOff false (settle h c.id .ok 0)))

/-- The junction temperature as read (R521). -/
def setTemp (h : Hub) (t : Int) : Hub :=
  let now := (BitVec.ofInt 8 t).toNat
  let top := if signed (fld h aPwrTemp 8 8) 8 < t then now else fld h aPwrTemp 8 8
  setFld (setFld h aPwrTemp 0 8 now) aPwrTemp 8 8 top

/-- THERMAL_SHUTDOWN: above 115 °C the hub enters Off in any state (R511). -/
def thermalShutdown (t : Int) (h : Hub) : Hub :=
  if t ≤ 115 ∨ h.pwr.mode = .off then h else enterOff true (setTemp h t)

def execThermalShutdown (celsius : Int) (s : State) : Ans := s.actAon (thermalShutdown celsius)

/-- THERMAL_WARN: the junction rises above WARN_C (R521). -/
def thermalWarn (t : Int) (h : Hub) : Hub :=
  if t ≤ (fld h aPwrTherm 0 8 : Int) then h else pwrEvent (setTemp h t) 10

def execThermalWarn (celsius : Int) (s : State) : Ans := s.act (thermalWarn celsius)

/-! ### Wakes (R509-R513) -/

/-- The codes of R512 whose bit is set in a mask, bit c − 1 for code c. -/
def wakeCodes (present : Nat) : List Nat := ((List.range 8).filter (bitOf present)).map (· + 1)

/-- Does PWR_WAKE_EN enable a source? -/
def wakeEnabled (h : Hub) (c : Nat) : Bool := decide (1 ≤ c) && decide (c ≤ 8) && flag h aPwrWakeEn c

/-- The wake record (R513). -/
def wakeRecord (h : Hub) (early : Bool) (src index present : Nat) : Hub :=
  let v := 2 ^ 31 + (if early then 2 ^ 30 else 0) + index % 32 * 2 ^ 24 + present % 256 * 2 ^ 8 + src % 16
  count (wr64 (wr h aPwrWakeRecord (W v)) aPwrWakeTimeLo (hubNs h)) aPwrWakeCount 1

/-- The core after Doze (R510, R517): what the Doze region and the always-on domain keep. -/
def dozeHub (h : Hub) : Hub :=
  let h := trimCut h
  let z := resetHub h.part
  { z with
    regs := resetRegs .doze h
    latch := h.latch
    tim := h.tim
    trn := { z.trn with nextCmd := h.trn.nextCmd, imem := h.trn.imem }
    txs := { h.txs with rekeyFrom := none }
    flt := { h.flt with log := [], holdoff := [], due := [], restores := [] }
    keys := h.keys
    mst := keepMst h
    tun := { z.tun with tagHigh := h.tun.tagHigh, config := h.tun.config, bar4 := h.tun.bar4, evr := h.tun.evr, broken := h.tun.broken }
    swc := { z.swc with nextPkt := h.swc.nextPkt }
    dck := h.dck
    tel := { z.tel with marks := h.tel.marks, lfsr := h.tel.lfsr }
    pwr := { h.pwr with waiting := [] }
    out := h.out
    free := h.free }

/-- The links start again after a wake: enabled trunks enter DETECT, and scanning outputs train (R510 step 8). PCIe, USB and Ethernet
links come up by commands of their own. -/
def linksStart (h : Hub) : Hub :=
  let h := (List.range 8).foldl (fun h n => if flag h (aTrkCtl n) 0 && decide (n < h.part.res.trunks) then trunkEnable h n else h) h
  let outs := (List.range 8).filter (scanning h)
  demandUpdate (faults (outs.foldl (fun h o => (dspMode h o 0 false).1) h) (outs.map FAct.train))

/-- A wake from Doze: before the power-down the hub goes on as it was (EARLY), after it the core is restored (R508, R510,
R513). -/
def wakeUp (src index present : Nat) (h : Hub) : Hub :=
  let early := h.pwr.mode == .dozeEntry
  let h := if early then h else
    let h := (List.range 96).foldl ffeApply (marchTest false (showRetired (seedsLoad (dozeHub h))))
    (createdDocks h).foldl usbDefault (scrubRestart h)
  let h := selfRefresh h false
  let h := wakeRecord { h with pwr := { h.pwr with mode := .run, tripped := 0 } } early src index present
  linksStart (pwrEvent h 9)

/-- Is the hub in Doze or on its way there? -/
def dozing (h : Hub) : Bool := h.pwr.mode == .doze || h.pwr.mode == .dozeEntry

/-- DOZE_WAKE: an enabled source with everything present at the wake (R512, R513). -/
def dozeWake (src index present : Nat) (h : Hub) : Hub :=
  let p := present ||| (if 1 ≤ src ∧ src ≤ 8 then 2 ^ (src - 1) else 0)
  if !dozing h || (wakeCodes p).find? (wakeEnabled h) ≠ some src then h else wakeUp src index p h

def execDozeWake (source : BitVec 4) (index : BitVec 5) (present : BitVec 8) (s : State) : Ans :=
  s.actAon (dozeWake source.toNat index.toNat present.toNat)

/-- The first set index of a mask. -/
def firstBit (n v : Nat) : Nat := ((bitsSet n v).head?).getD 0

/-- What a sentry sample finds: for each source present, its code and INDEX (R512). -/
def sentryFinds (h : Hub) (x : SentrySample) : List (Nat × Nat) :=
  let ins := maskOf 24 (fun c =>
    (decide (16 ≤ c) && pwcOnPart h c && decide (tget false h.pwr.det c ≠ x.det.getLsbD (c - 16))) ||
    (decide (c < 16) && usbPresent h.part.res c && flag h (aUsbPortCfg c) 1 && x.usb.getLsbD c))
  let moved := fun (k v : Nat) =>
    let e := tget (0, false) h.pwr.feeds k
    decide (fld h aPwrSentryCfg 16 8 * 50 < v - e.1) || decide (fld h aPwrSentryCfg 16 8 * 50 < e.1 - v) ||
      decide (e.2 ≠ (feedOn h k && feedIn h k v))
  let feed := maskOf 2 (fun k => moved k (if k = 0 then x.feedA.toNat else x.feedB.toNat))
  let thr := maskOf 24 (fun c => pwcOnPart h c && (bitOf h.pwr.tripped c ||
    (flag h (aPwrPwcStatus c) 26 && (match x.volts[c]? with
      | some v => !pwcWindow c v.toNat
      | none => false))))
  let hot := decide ((fld h aPwrTherm 8 8 : Int) < x.celsius)
  let act := maskOf 8 (fun n => decide (n < h.part.res.trunks) && x.trunks.getLsbD n)
  (if ins ≠ 0 then [(2, firstBit 24 ins)] else []) ++ (if feed ≠ 0 then [(3, firstBit 2 feed)] else []) ++
  (if thr ≠ 0 then [(4, firstBit 24 thr)] else []) ++ (if hot then [(6, 0)] else []) ++ (if act ≠ 0 then [(8, firstBit 8 act)] else [])

/-- A sentry sample leaves its supplies, temperature, channel voltages and insertion detects in the registers (R509, R511). -/
def sentryRead (x : SentrySample) (h : Hub) : Hub :=
  let h := setTemp (setFld (setFld h (aPwrFeedStatus 0) 0 16 x.feedA.toNat) (aPwrFeedStatus 1) 0 16 x.feedB.toNat) x.celsius
  let h := (List.range 24).foldl (fun h c => match x.volts[c]? with
    | some v => if pwcOnPart h c then setFld h (aPwrPwcMeas c) 0 16 v.toNat else h
    | none => h) h
  (List.range 8).foldl (fun h i => detChange (16 + i) (x.det.getLsbD i) h) h

/-- SENTRY_SAMPLE: in Doze the sentry reads its inputs, and an enabled source wakes the hub (R512). -/
def sentrySample (x : SentrySample) (h : Hub) : Hub :=
  if h.pwr.mode ≠ .doze then h
  else
    let l := sentryFinds h x
    let h := sentryRead x h
    match l.find? (fun e => wakeEnabled h e.1) with
    | some e => wakeUp e.1 e.2 (l.foldl (fun p f => p ||| 2 ^ (f.1 - 1)) 0) h
    | none => h

def execSentrySample (sample : SentrySample) (s : State) : Ans := s.actAon (sentrySample sample)

/-- OFF_EXIT: an SMBus address match, a management port or the timer leaves Off by a power-on reset; the wake record is
kept and replaced (R511, R513). -/
def offExit (src index : Nat) (m : Mem) (h : Hub) : Mem × Hub :=
  if h.pwr.mode ≠ .off ∨ !([1, 5, 7] : List Nat).contains src ∨ !wakeEnabled h src then (m, h)
  else (⟨[]⟩, wakeRecord (bringUp .offExit (if h.pwr.thermal then 6 else 5) h) false src index (2 ^ (src - 1)))

def execOffExit (source : BitVec 4) (index : BitVec 5) (s : State) : Ans := s.actAonMem (offExit source.toNat index.toNat)

/-- WAKE_TIMER: PWR_WAKE_TIMER.MS after entry (R512). In Off no tick edge is counted. -/
def wakeTimer (m : Mem) (h : Hub) : Mem × Hub :=
  let ms := (rd h aPwrWakeTimer).toNat
  if ms = 0 ∨ !wakeEnabled h 5 then (m, h)
  else if h.pwr.mode = .off then offExit 5 0 m h
  else if dozing h ∧ 8 * ms * 98 ≤ edgesSince h h.pwr.dozeFrom * 100 then (m, wakeUp 5 0 16 h)
  else (m, h)

def execWakeTimer (s : State) : Ans := s.actAonMem wakeTimer

/-- SMBUS_ADDRESS_MATCH: in Doze and Off a wake source (R512, R520). -/
def smbusMatch (addr : Nat) (m : Mem) (h : Hub) : Mem × Hub :=
  if addr ≠ fld h aPwrSbCfg 0 7 ∨ !wakeEnabled h 1 then (m, h)
  else if h.pwr.mode = .off then offExit 1 0 m h
  else if dozing h then (m, wakeUp 1 0 1 h)
  else (m, h)

def execSmbusAddressMatch (addr : BitVec 7) (s : State) : Ans := s.actAonMem (smbusMatch addr.toNat)

/-! ### Dock reset (R516) -/

/-- DOCK_RESET: a write of PWR_DOCK_RESET. -/
def dockReset (v : Word) (h : Hub) : Hub :=
  let d := bitsOf v.toNat 0 6
  let h := setFld h aPwrDockReset 0 6 d
  let h := if bitOf v.toNat 30 then setFlag h aPwrDockReset 30 false else h
  if !bitOf v.toNat 31 then h
  else if !dockCreated h d || dockFrozen h d then setFlag h aPwrDockReset 30 true
  else
    let h := dockDiscard h d
    let h := (dockPorts h d).foldl (fun h n => pcieLinkDown n h) h
    pwrEvent (usbDefault (hostDefault h d) d) 13

def execDockReset (_port : Port) (value : Word) (s : State) : Ans := s.act (dockReset value)

/-! ### Trim rewrite (R519) -/

/-- A rewrite that is refused ends at once. -/
def trimRefused (h : Hub) (st : Status) : Hub := pwrEvent (setFld h aPwrTrimStatus 0 3 st.code) 12

/-- TRIM_REWRITE: a write of PWR_TRIM_CMD. -/
def trimRewrite (v : Word) (m : Mem) (h : Hub) : Hub :=
  if bitsOf v.toNat 16 16 ≠ 0x5452 ∨ !bitOf v.toNat 0 ∨ flag h aPwrTrimStatus 31 then h
  else if h.keys.lc = 0 ∨ h.keys.lc = 4 then trimRefused h .denied
  else
    let r := readHub m h (rd64 h aPwrTrimSrcLo) 65536
    if !r.2.2 || !trimValid (some r.2.1) then trimRefused r.1 .invalid
    else
      let h := setFlag r.1 aPwrTrimStatus 31 true
      { h with pwr := { h.pwr with trimNew := some r.2.1 } }

def execTrimRewrite (_port : Port) (value : Word) (s : State) : Ans := s.act (fun h => trimRewrite value s.mem h)

/-- TRIM_DONE: the store holds the image; where verification fails, what it holds is free. -/
def trimDone (fails : Bool) (h : Hub) : Hub :=
  match h.pwr.trimNew with
  | none => h
  | some img =>
    let h := setFld (setFlag h aPwrTrimStatus 31 false) aPwrTrimStatus 0 3 (if fails then Status.fault.code else Status.ok.code)
    pwrEvent { h with pwr := { h.pwr with trim := some (if fails then [] else img), trimNew := none } } 12

def execTrimDone (verifyFails : Bool) (s : State) : Ans := s.act (trimDone verifyFails)

end Sys2Proof.Machine
end

