-- ==== Sys2Proof/Machine/Tick.lean ====
section
/-!
DEFINITION. The tick edge (R30, R39, R47), the step of hub time (R42) and the frame-start instants (R53).
-/
namespace Sys2Proof.Machine

/-- Can a tick end after this many core clocks: 200,000 but for one clock for each 5 ppm of the tick's rate offset, none of them
already past (R30)? -/
def edgeComes (h : Hub) (clocks : Nat) : Bool :=
  decide (clocks ≤ 200000 + tickSlack h) && decide (200000 ≤ clocks + tickSlack h) && decide (h.tim.coreClk ≤ h.tim.edgeClk + clocks)

/-- Time passes to the next tick edge: core clocks of the tick, hub time, TIM_EDGES (R30, R39, R43). -/
def edgeTime (clocks : Nat) (h : Hub) : Hub :=
  let c := h.tim.edgeClk + clocks
  let fx := h.tim.edgeFx + 125000 * 65536
  { h with tim := { h.tim with
      tickLen := clocks, coreClk := c, edgeClk := c, edges := h.tim.edges + 1, edgeFx := fx
      baseFx := fx, baseClk := c, rateTop := (rateNow h).natAbs, phase := 0 } }

/-- TICK_OVERRUN: work of phases P0 to P3 that the edge finds unfinished is suspended; a delivery under way is P0's.
P4 has no work (R45, R47, R48). -/
def overrun (unfinished : Nat) (h : Hub) : Hub :=
  let u := unfinished % 16 ||| (if h.txs.delivering.isSome then 1 else 0)
  let h := { h with tim := { h.tim with suspended := BitVec.ofNat 5 u } }
  if u = 0 then h
  else
    let h := wr h aTimOverrun (W ((rd h aTimOverrun).toNat ||| u))
    raise (setFld h aTimOverrun 16 16 (min 65535 (fld h aTimOverrun 16 16 + popcount 5 u))) 0x01 0 0 0

/-- TICK_EDGE: adaptation, the pattern checkers and the cellar's service over the tick that ends (R191, R205, R448), with the USB frames of the edge, the transactions of the microframe and the device function's packets
(R357, R359, R367, R369). -/
def tickEdge (clocks unfinished : Nat) (usb : List TtResult) (h : Hub) : Hub :=
  if !edgeComes h clocks then h
  else
  let h := serveTick (patternTick (adaptAll (tallyAll (runTo h (h.tim.edgeClk + clocks)) 0x0002 1)))
  let h := lateLatches (overrun unfinished (edgeTime clocks h))
  ep1Packets (ep2Packets (usb.foldl ttServe (usbFrames h)))

/-- A tick edge while the core does not run: the always-on domain counts time in Doze and under a warm reset (R509, R517); the
first edge after Doze entry ends its time for an early wake. -/
def tickAon (clocks : Nat) (h : Hub) : Hub :=
  match h.pwr.mode with
  | .dozeEntry => { (edgeTime clocks h) with pwr := { h.pwr with mode := .doze } }
  | .doze => edgeTime clocks h
  | .warm => edgeTime clocks h
  | _ => h

def execTickEdge (clocks : Nat) (unfinished : BitVec 5) (usb : List TtResult) (s : State) : Ans :=
  s.actAon (fun h => if h.runs then tickEdge clocks unfinished.toNat usb h else tickAon clocks h)

/-! ### The step (R42, R53, R55, R232) -/

/-- Every open time tunnel on a trunk. -/
def timeEnds (h : Hub) : List EndInfo := (endsIn h.regs).filter (fun e => decide (e.type = 4) && decide (e.sp < 8))

/-- STEP: the target is checked again, and hub time becomes it, with the fraction zero; frame-start references keep their
frames, open time tunnels and the docks' event rings learn of it (R41, R42, R53, R232, R249). Intervals of Sync and Announce run on
across it, as the tick's timers do (notes/assumptions/129.md). -/
def stepTime (h : Hub) : Hub :=
  if !stepDue h then h
  else if !stepTargetOk h then rejectStep h
  else
    let before := hubNs h
    let target := rd64 h aTimStepLo
    let d : Int := (target * 65536 : Nat) - (h.tim.edgeFx : Int)
    let fr := (List.range 8).foldl (fun t n =>
      let g := tget (⟨none, 0⟩ : FrGen) t n
      tset ⟨none, 0⟩ t n { last := g.last.map (· + d), d := g.d + d }) h.tim.fr
    let h := setFlag h aTimStepCmd 0 false
    let h := { h with tim := { h.tim with
      edgeFx := target * 65536, baseFx := target * 65536, baseClk := h.tim.coreClk, stepArmed := none, fr := fr
      syncAt := h.tim.syncAt.map (· + d), annAt := h.tim.annAt.map (· + d)
      stepped := tput (tput h.tim.stepped 0 true) 1 true } }
    let h := raise h 0x01 1 0 0
    let h := (timeEnds h).foldl (fun h e => sendTime h (timeTrunk h e) 2 e [target, before]) h
    (createdDocks h).foldl (fun h d => hfEvent h d 0x05 0) h

def execStep (s : State) : Ans := s.act stepTime

/-! ### Frame-start references (R53, R344) -/

/-- Instant k of FRn in units of 2^-16 ns. -/
def frInstant (h : Hub) (n k : Nat) : Int :=
  ((rd64 h (aTimFrStartLo n) * 65536 + k * frPeriod (active h) n : Nat) : Int) + (tget ⟨none, 0⟩ h.tim.fr n).d

/-- The first k whose instant lies neither before the last edge nor at or before the last instant given. -/
def frNext (h : Hub) (n : Nat) : Nat :=
  let from_ := match (tget ⟨none, 0⟩ h.tim.fr n).last with
    | some i => max (h.tim.edgeFx : Int) (i + 1)
    | none => h.tim.edgeFx
  let lag := from_ - frInstant h n 0
  let p := max 1 (frPeriod (active h) n)
  if lag ≤ 0 then 0 else (lag.toNat + p - 1) / p

/-- FRAME_START_INSTANT: FRn reaches an instant within this tick; each dock that owns an enabled layer on Dn gets the frame
message (R344). -/
def frameStart (n : Nat) (h : Hub) : Hub :=
  let k := frNext h n
  if !flag h (aTimFrCfg n) 0 || !dspPresent h n || decide (h.tim.edgeFx + 125000 * 65536 ≤ frInstant h n k) then h
  else
    let g := tget ⟨none, 0⟩ h.tim.fr n
    let h := { h with tim := { h.tim with fr := tput h.tim.fr n { g with last := some (frInstant h n k) } } }
    let next := (frInstant h n (k + 1) / 65536).toNat
    let owns := fun (d : Nat) => (List.range 8).any (fun j =>
      let v := active h (aDspLayerCtl n j)
      bitOf v 31 && bitOf v 0 && decide (bitsOf v 24 6 = d))
    ((timeEnds h).filter (fun e => owns e.dock)).foldl (fun h e =>
      sendTime h (timeTrunk h e) 3 e [n * 2 ^ 61, next, frPeriod (active h) n]) h

def execFrameStartInstant (n : Fin 8) (s : State) : Ans := s.act (frameStart n.val)

end Sys2Proof.Machine
end

