-- ==== Sys2Proof/Machine/Access.lean ====
section
/-!
DEFINITION. Access to control space (R18-R21, R32-R36, R93, R99, R117, R136, R520): what every register and memory window
reads as, what a write does, and the commands that read and write.
-/
namespace Sys2Proof.Machine

/-! ### Memory windows (R103, R466, R479) -/

/-- A 32-bit word of a wider value. -/
def wordOf (v k : Nat) : Nat := bitsOf v (32 * k) 32

/-- Put a 32-bit word into a wider value. -/
def putWord (v k x : Nat) : Nat := putBits v (32 * k) 32 x

/-- Does an address lie in a memory window of control space (R540)? -/
def inMemWindow (a : Nat) : Bool :=
  (decide (0x210000 ≤ a) && decide (a < 0x250000)) || (decide (0x280000 ≤ a) && decide (a < 0x2C0000)) ||
  (decide (0xE20000 ≤ a) && decide (a < 0xE30000)) || (decide (0xD80000 ≤ a) && decide (a < 0xDA0000))

/-- A word of a memory window. -/
def windowRead (h : Hub) (a : Nat) : Nat :=
  if a < 0x230000 then
    let o := a - 0x210000
    wordOf (tget 0 h.trn.ringMem (o / 0x4000 * 2048 + o % 0x4000 / 8)).toNat (o % 8 / 4)
  else if a < 0x250000 then
    let o := a - 0x230000
    wordOf (tget 0 h.trn.ccMem (o / 0x4000 * 1024 + o % 0x4000 / 16)).toNat (o % 16 / 4)
  else if a < 0x2C0000 then
    let o := a - 0x280000
    wordOf (tget 0 h.trn.imem (o / 8)).toNat (o % 8 / 4)
  else if a < 0xDA0000 then leNat ((h.tel.snap.drop (a - 0xD80000)).take 4)
  else
    let o := a - 0xE20000
    match tfind h.flt.log (o / 32) with
    | some r => wordOf r.toNat (o % 32 / 4)
    | none => 0

/-- Write a word of a memory window: the fault log and the snapshot are read only. -/
def windowWrite (h : Hub) (a v : Nat) : Hub :=
  if a < 0x230000 then
    let o := a - 0x210000
    let k := o / 0x4000 * 2048 + o % 0x4000 / 8
    let x := BitVec.ofNat 64 (putWord (tget 0 h.trn.ringMem k).toNat (o % 8 / 4) v)
    { h with trn := { h.trn with ringMem := tset 0 h.trn.ringMem k x } }
  else if a < 0x250000 then
    let o := a - 0x230000
    let k := o / 0x4000 * 1024 + o % 0x4000 / 16
    let x := BitVec.ofNat 128 (putWord (tget 0 h.trn.ccMem k).toNat (o % 16 / 4) v)
    { h with trn := { h.trn with ccMem := tset 0 h.trn.ccMem k x } }
  else if a < 0x2C0000 then
    let o := a - 0x280000
    let x := BitVec.ofNat 64 (putWord (tget 0 h.trn.imem (o / 8)).toNat (o % 8 / 4) v)
    { h with trn := { h.trn with imem := tset 0 h.trn.imem (o / 8) x } }
  else h

/-- The ring to whose port an address belongs: ring registers and ring memory (R99). -/
def ringOf (a : Nat) : Option Nat :=
  if 0x200100 ≤ a ∧ a < 0x200200 then some ((a - 0x200100) / 0x20)
  else if 0x200200 ≤ a ∧ a < 0x200300 then some ((a - 0x200200) / 0x20)
  else if 0x210000 ≤ a ∧ a < 0x230000 then some ((a - 0x210000) / 0x4000)
  else if 0x230000 ≤ a ∧ a < 0x250000 then some ((a - 0x230000) / 0x4000)
  else none

/-- Is an address a ring register or ring memory of the other port's rings? -/
def otherRing (p : Port) (a : Nat) : Bool :=
  match ringOf a with
  | some r => decide (ringPort r ≠ p)
  | none => false

/-! ### Registers that show state (R137, R103 and the chapters' tables) -/

/-- A fixed-point or signed value as a 32-bit word. -/
def b2n (b : Bool) : Nat := if b then 1 else 0

/-- The word of a thread (R103). -/
def threadView (h : Hub) (n : Nat) : Nat :=
  match h.trn.cmds.find? (fun c => decide (c.thread.map (·.val) = some n) && c.held.isNone) with
  | none => 0
  | some c =>
    let src := match c.tp with
      | some t => t.val
      | none => c.ring
    let pc := if c.imem then c.pc else (c.base + c.pc) % 2048
    2 ^ 31 + b2n c.tp.isSome * 2 ^ 30 + src * 2 ^ 24 + c.tag.toNat * 2 ^ 16 + pc % 2 ^ 15

/-- Owners of 16 semaphores (R101). -/
def semOwners (h : Hub) (from_ : Nat) : Nat :=
  (List.range 16).foldl (fun v k =>
    v + (match tfind h.trn.sem (from_ + k) with
      | none => 0
      | some .m0 => 1
      | some .m1 => 2) * 4 ^ k) 0

/-- The scope of the transaction that holds a handle. -/
def txScope (h : Hub) (n : Nat) : Scope :=
  match tfind h.txs.open_ n with
  | some t => t.scope
  | none => Scope.empty

/-- Tick edges left of a transaction's lifetime (R106). -/
def txLife (h : Hub) (n : Nat) : Nat :=
  match openTx h n with
  | some t => t.life - edgesSince h t.lifeStart
  | none => 0

/-- What an agent's slice selection holds (R136). -/
def sliceOf (h : Hub) (ag : Reader) : BitVec 6 × BitVec 64 × BitVec 128 :=
  (tfind h.txs.sliceSel (agentCode ag)).getD (0, 0, 0)

def timView (h : Hub) (base : Nat) : Option Nat :=
  match base with
  | 0x100000 => some (hubNs h)
  | 0x100004 => some (hubNs h / 2 ^ 32)
  | 0x100008 => some (hubFx h % 65536)
  | 0x100010 => some h.tim.edges
  | 0x100014 => some (h.tim.edges / 2 ^ 32)
  | _ => none

def trnView (h : Hub) (ag : Reader) (base i : Nat) : Option Nat :=
  match base with
  | 0x200004 =>
    let n := (h.trn.cmds.filter (fun c => c.tp.isNone)).length
    let mid := h.trn.cmds.any (fun c => c.thread.isSome && c.held.isNone)
    some (n * 2 ^ 16 + b2n (!flag h aTrnCtl 0 && !mid) * 16 + maskOf 4 (tickThread h))
  | 0x200010 => some (threadView h i)
  | 0x20010C =>
    let stall := ringOpen h i && decide (0 < ringAvail h i) && tagStalled h i
    some (putBits (putBits (rd h (aTrnCrStatus i)).toNat 8 8 (ringOutstanding h i)) 3 1 (b2n stall))
  | 0x200308 =>
    let run := h.trn.cmds.any (fun c => decide (c.tp.map (·.val) = some i) && c.held.isNone)
    some (putBits (rd h (aTrnTpStatus i)).toNat 31 1 (b2n run))
  | 0x200500 => some (semOwners h 0)
  | 0x200504 => some (semOwners h 16)
  | 0x200800 => some (txStatus h i + b2n (txScope h i).global * 2 ^ 9)
  | 0x200804 => some (txScope h i).docks.toNat
  | 0x200808 => some ((txScope h i).docks.toNat / 2 ^ 32)
  | 0x20080C => some ((txScope h i).outputs.toNat * 2 ^ 24 + (txScope h i).ports.toNat)
  | 0x200880 => some (txLife h i)
  | 0x200900 => some h.txs.vintage.toNat
  | 0x200904 => some (h.txs.vintage.toNat / 2 ^ 32)
  | 0x200910 => some (wordOf h.txs.digest.toNat i)
  | 0x200940 => some (b2n h.txs.rekeyFrom.isSome * 2 ^ 8)
  | 0x200980 => some (sliceOf h ag).1.toNat
  | 0x200984 => some (sliceOf h ag).2.1.toNat
  | 0x200988 => some ((sliceOf h ag).2.1.toNat / 2 ^ 32)
  | 0x200990 => some (wordOf (sliceOf h ag).2.2.toNat i)
  | 0x2009C8 => some (h.txs.queue.length + h.txs.delivering.toList.length)
  | _ => none

/-- A word of a device route table entry (R241). -/
def devView (h : Hub) (n k : Nat) : Nat :=
  match tfind h.tun.devs n with
  | none => 0
  | some v =>
    match k with
    | 0 => 2 ^ 31 + v.kind * 2 ^ 28 + v.dock * 2 ^ 16 + v.sp * 2 ^ 8 + v.port
    | 1 => v.detail
    | 2 => v.detail2
    | _ => v.seen

/-- A word of a tag entry (R238). -/
def tagView (h : Hub) (n k : Nat) : Nat :=
  match tfind h.tun.tags n with
  | none => 0
  | some t =>
    match k with
    | 0 => 2 ^ 31 + t.type * 2 ^ 28 + b2n t.toHost * 2 ^ 27 + t.dock % 64 * 2 ^ 16 + t.retSp * 2 ^ 8
    | 1 => t.retTid * 2 ^ 16 + t.dev % 1024
    | 2 => t.reqId * 2 ^ 16 + t.reqTag
    | _ => t.issued

def tunView (h : Hub) (base i j : Nat) : Option Nat :=
  match base with
  | 0x500008 => some (h.tun.tagHigh * 2 ^ 16 + h.tun.tags.length)
  | 0x50000C => some (h.tun.devs.length * 2 ^ 16 + (openPairs h.regs).length)
  | 0x510000 => if builtIn i j || groupTid h h.regs i j none then some 0 else none
  | 0x510004 => if builtIn i j || groupTid h h.regs i j none then some 0 else none
  | 0x5D0000 => some (devView h i j)
  | 0x5E0000 => some (tagView h i j)
  | 0x503020 =>
    match tfind h.tun.lockEdge i with
    | some e => some (putBits (rd h (aTunBrgLock i)).toNat 24 4 (min 8 (edgesSince h e)))
    | none => none
  | 0x5030C0 => some (putBits (rd h (aTunCpluse i)).toNat 0 16 (tget 0 h.tun.cplUse i))
  | _ => none

def swcView (h : Hub) (base i : Nat) : Option Nat :=
  match base with
  | 0x600008 => some (sharedTotal h)
  | 0x60000C => some (sharedFree h)
  | 0x600024 => some ((List.range 24).foldl (fun n j => n + portBarrels h j) 0)
  | 0x600034 => some (putBits (rd h aSwcFenceStatus).toNat 0 4 h.swc.fences.length)
  | 0x60010C => some (egressCells h i)
  | 0x600110 => some (putBits (rd h (aSwcPortVoquse i)).toNat 0 16 (voqCells h i))
  | 0x600114 => some (portBarrels h i)
  | 0x620000 => some (cellsOf (queueAt h i).cask + (queueAt h i).reserve.foldl (· + ·) 0)
  | 0x620004 =>
    let x := queueAt h i
    let waiting := x.spilled && x.written != [] && decide (cellsOf x.cask ≤ 16)
    some (b2n x.spilled * 2 ^ 31 + b2n waiting * 2 ^ 30 + x.written.length + b2n x.openSlot.isSome)
  | _ => none

/-- A credit in whole units as a 32-bit word. -/
def creditView (h : Hub) (k : Nat) : Nat := (ofInt (creditUnits_ (shaper h k))).toNat

def tmgView (h : Hub) (base i j : Nat) : Option Nat :=
  match base with
  | 0x700104 => some (if pausedNow h i then 2 ^ 31 + pauseLeft h i else 0)
  | 0x760000 => some (creditView h (shKeyQueue i))
  | 0x764000 => some (creditView h (shKeyDock i j))
  | 0x788000 => some (creditView h (shKeyPol i))
  | 0x774000 =>
    let st := if flag h (aTmgQmap i) 31 then 1 else if queueHolds h i then 2 else 0
    let ok := (heads h (queuePort h i)).any (fun x => decide (x.q = i) && x.ok)
    some (st * 2 ^ 30 + i % 4 * 2 ^ 28 + b2n ok * 2 ^ 27 + b2n (shaper h (shKeyQueue i)).sending * 2 ^ 26)
  | _ => none

def usbView (h : Hub) (base i : Nat) : Option Nat :=
  match base with
  | 0x900008 =>
    let taken := (List.range 256).foldl (fun n b =>
      let o := fld h (aUsbEpmOffset b) 0 19
      let l := if flag h (aUsbEpmCtl b) 31 then fld h (aUsbEpmLength b) 0 19 else 0
      let d := tget (0, 0) h.usb.drain b
      n + l + d.2 - (min (o + l) (d.1 + d.2) - max o d.1)) 0
    some (0x80000 - taken)
  | 0x900108 =>
    let on := match usbAssign h i with
      | some (d, v) => (vport h d (if 4 ≤ usbSpeed h i then 1 else 0) v).enabled
      | none => false
    some (putBits (rd h (aUsbPortStatus i)).toNat 6 1 (b2n on))
  | 0x90100C => some (putBits (rd h (aUsbEpmUse i)).toNat 0 8 (bufUse h i))
  | 0x902004 => some (usbTotal h i * 2 ^ 16 + usbFree h i)
  | _ => none

/-- Queues of a dock in a configuration, active or draining (R378, R542). -/
def dockQueues (h : Hub) (regs : Tab Word) (d : Nat) : List Nat :=
  (List.range h.part.res.queues).filter (fun q =>
    queueMapped h regs q && decide (bitsOf (cfg h regs (aTmgQmap q)) 8 6 = d))

/-- Open ends of a dock in a configuration; a group end is one entry (R218, R378). -/
def dockTunnels (regs : Tab Word) (d : Nat) : Nat := ((endsIn regs).filter (fun e => decide (e.dock = d))).length

/-- Distinct key slots bound to ends of a dock in a configuration (R378). -/
def dockSlots (regs : Tab Word) (d : Nat) : Nat :=
  (((endsIn regs).filter (fun e => decide (e.dock = d) && e.keyEn)).map (·.kslot)).eraseDups.length

def vdkView (h : Hub) (base i : Nat) : Option Nat :=
  match base with
  | 0xA00014 => some ((dockQueues h h.regs i).length * 2 ^ 16 + dockTunnels h.regs i)
  | 0xA00018 => some (devUse h i * 2 ^ 16 + dockSlots h.regs i)
  | 0xA80000 => some (vdkInstance h)
  | 0xA80004 => some (vdkInstance h / 2 ^ 32)
  | 0xA80010 => some h.dck.ops.length
  | _ => none

def ancSlot (k : KeySlot) (i : Nat) : Nat := ((k.anc[i]?).getD (0, 0)).1
def ancGen (k : KeySlot) (i : Nat) : Nat := ((k.anc[i]?).getD (0, 0)).2

def keyView (h : Hub) (base i : Nat) : Option Nat :=
  let k := slot h i
  match base with
  | 0xB00000 =>
    some (h.keys.nurseryEpoch * 2 ^ 24 + h.part.epoch.toNat * 2 ^ 16 + b2n h.keys.change.isSome * 2 ^ 10 +
      b2n (nurseryRoot h) * 2 ^ 9 + h.keys.lc)
  | 0xB00004 => some (b2n h.part.debugLock * 2 ^ 8 + h.part.lcBase.toNat)
  | 0xB00018 =>
    some ((h.keys.slots.filter (fun e => decide (e.2.state = 2))).length * 2 ^ 16 +
      (h.keys.slots.filter (fun e => decide (e.2.state ≠ 0))).length)
  | 0xB10000 =>
    some (k.state * 2 ^ 29 + k.usage * 2 ^ 25 + b2n k.nursery * 2 ^ 24 + k.depth * 2 ^ 21 + b2n k.imported * 2 ^ 20 +
      k.epoch * 2 ^ 12 + (if k.depth ≤ 1 then 0 else ancSlot k (k.anc.length - 1)))
  | 0xB10004 => some k.gen
  | 0xB10008 => some k.keyId.toNat
  | 0xB1000C => some (k.keyId.toNat / 2 ^ 32)
  | 0xB10010 => some (ancSlot k 0 + ancSlot k 1 * 2 ^ 10 + ancSlot k 2 * 2 ^ 20)
  | 0xB10014 => some (ancGen k 0)
  | 0xB10018 => some (ancGen k 1)
  | 0xB1001C => some (ancGen k 2)
  | _ => none

/-- What a register shows of state that it does not hold itself; none where it holds its value. -/
def viewOf (h : Hub) (ag : Reader) (base i j : Nat) : Option Nat :=
  match base / 0x100000 with
  | 1 => timView h base
  | 2 => trnView h ag base i
  | 5 => tunView h base i j
  | 6 => swcView h base i
  | 7 => tmgView h base i j
  | 9 => usbView h base i
  | 10 => vdkView h base i
  | 11 => keyView h base i
  | 13 =>
    if base = aTelRingLen then some (recordLen h.part.res (fld h aTelRingCfg 16 10))
    else if base = aTelMarkOpen then some (h.tel.open_.length + h.tel.closed.length)
    else none
  | 15 =>
    if base = aPwrPwcStatus 0 then some (putBits (rd h (aPwrPwcStatus i)).toNat 27 1 (b2n (decide (16 ≤ i) && pwcPresent h i)))
    else if base = aPwrPwcRetryLeft 0 then some (retryLeft h i)
    else none
  | _ => none

/-- The value an agent finds at an address now, without its latches (R6, R18, R34). -/
def liveVal (h : Hub) (ag : Reader) (a : Nat) : Nat :=
  if inMemWindow a then windowRead h a
  else match regRow a with
    | none => 0
    | some (r, ix) =>
      if absentReg h.part.res r.base ix then 0
      else
        let i := (ix.head?.map (·.1)).getD 0
        let j := (ix[1]?.map (·.1)).getD 0
        match viewOf h ag r.base i j with
        | some v => v % 2 ^ 32
        | none => (rd h a &&& ~~~r.wo).toNat

/-! ### Values the hub measures and the spec leaves open (notes/assumptions/3.md) -/

/-- Does a master use a memory group (R431)? -/
def masterUses (p : Part) (m g : Nat) : Bool :=
  if 52 < g then false
  else if m < 4 then decide (g < 32)
  else if m = 4 then true
  else if m = 6 then (decide (32 ≤ g) && decide (g < 36)) || decide (44 ≤ g)
  else if m < 8 then decide (32 ≤ g) && decide (g < 36)
  else if m < 10 then decide (36 ≤ g) && decide (g < 44) && decide (g - 36 < p.res.outputs)
  else decide (44 ≤ g)

/-- Bits of a register that a read finds at values nothing here determines: conflict counters, bandwidth that maintenance and the
fallback copies took, the current line of a scanning output. -/
def openBits (h : Hub) (a : Nat) : Nat :=
  if aMemConf 0 0 ≤ a ∧ a < aMemConf 12 0 then
    if 4 ≤ (a - aMemConf 0 0) / 0x100 ∧ masterUses h.part ((a - aMemConf 0 0) / 0x100) ((a - aMemConf 0 0) % 0x100 / 4) then 2 ^ 32 - 1 else 0
  else if a = aMemBwUse 7 then 2 ^ 32 - 1
  else if a = aMemBwUse 5 then (if (List.range 16).any (fun k => (fallbackAt h k).isSome) then 2 ^ 32 - 1 else 0)
  else if aDspStatus 0 ≤ a ∧ a < aDspStatus 8 ∧ (a - aDspStatus 0) % 0x10000 = 0 then
    if scanning h ((a - aDspStatus 0) / 0x10000) then 2 ^ 14 - 1 else 0
  else 0

/-! ### Latches (R20) -/

/-- Rows that are the low word of a 64-bit quantity whose high word follows. -/
def pairRows : List Nat :=
  [aTimEdgesLo, aTimStepLo, aTimPtpEpochLo, aTimPtpIdLo, aTimFrPeriodLo 0, aTimFrStartLo 0, aTrnTxDocksLo 0, aTrnAppliedTickLo,
   aTrnDspVintLo 0, aTrkPartnerIdLo 0, aTrkCntFecCorrLo 0, aLaneSeedLo 0 0, aLaneSeedLo 96 0, aLanePatUserLo 0, aLanePatErrLo 0, aLanePatBitsLo 0,
   aTunEthcMacLo 0 0, aTmgSampleTickLo, aDspLayerAddrLo 0 0, aVdkImageLenLo 0, aVdkFreezeTickLo 0, aVdkInstanceLo,
   aVdkSaveCountLo] ++
  [aKeySlotIdLo 0, aMemChErrLo 0, aTelRingBaseLo, aTelSeqLo, aTelRangeBaseLo 0, aTelRangeLimitLo 0, aTelSlotRetiredLo 0,
   aTelSlotWastedLo 0, aTelSlotFrontLo 0, aTelSlotBackLo 0, aTelSlotPendingLo 0, aTelCntLo 0 0, aTelSelFltLo 0 0, aPwrWakeTimeLo,
   aPwrTrimSrcLo]

/-- The addresses that a read of an address latches: the high word of a pair, or the rest of a group. Words 0 and 1 of a posted-error
log entry are a pair (R274). -/
def latchGroup (a : Nat) : List Nat :=
  if a = aTimNowLo then [aTimNowHi, aTimNowFrac]
  else if a = aTrnVintageLo then [aTrnVintageHi, aTrnDigest 0, aTrnDigest 1, aTrnDigest 2, aTrnDigest 3]
  else match regRow a with
    | some (r, _) => if pairRows.contains r.base ∨ (r.base = aTunPel 0 0 0 ∧ a % 16 = 0) then [a + 4] else []
    | none => []

/-- Is an address that of no register and in no memory window (R34)? -/
def unassigned (a : Nat) : Bool := !inMemWindow a && (regRow a).isNone

/-- A 32-bit read by an agent: the latched value of a high word or group member that its agent has latched, else the live
value; reading a low word loads the latches (R20). An address that is no register's reads 0 (R34). -/
def readWord (h : Hub) (ag : Reader) (a : Nat) : Hub × Nat :=
  if unassigned a then (h, 0)
  else match tfind h.latch (agentCode ag * 2 ^ 24 + a) with
  | some v => (h, v.toNat)
  | none =>
    let v := liveVal h ag a
    let free := openBits h a
    if free ≠ 0 then
      let r := drawFree h
      (r.1, v - (v &&& free) + (r.2.toNat &&& free))
    else
      ((latchGroup a).foldl (fun g m => loadLatch g ag m (W (liveVal h ag m))) h, v)

/-- TRN_SEM_TAKEn, whose read takes the semaphore (R101). -/
def semTakeAt (a : Nat) : Option Nat :=
  if aTrnSemTake 0 ≤ a ∧ a < aTrnSemTake 32 ∧ a % 4 = 0 then some ((a - aTrnSemTake 0) / 4) else none

/-- A read by an agent that acts for a port. -/
def readFor (h : Hub) (p : Port) (ag : Reader) (a : Nat) : Hub × Nat :=
  match semTakeAt a with
  | some n => semTake h p n
  | none => readWord h ag a

/-! ### Writes (R18, R99) -/

/-- What a write leaves in a register by its access codes alone: RW and WO fields take the value, W1C bits clear, and
self-clearing, shadowed and read-only fields stay (R18). -/
def writeFields (r : RegRow) (old v : Word) : Word :=
  let take := (r.rw ||| r.wo) &&& ~~~r.sc
  ((old &&& ~~~take) ||| (v &&& take)) &&& ~~~(r.w1c &&& v)

/-- TIM_RATE_NOW follows TIM_RATE_ADJ in output mode (R40). When MODE becomes 1 it starts from the last rate of output mode: the
manual names no value (DESIGN CHOICE, notes/assumptions/130.md). -/
def rateFollow (h : Hub) : Hub :=
  if tpIsInput h 1 then h else setRate h (ofInt (clampRate (signed (rd h aTimRateAdj).toNat 32)))

/-- A write to TIM_STEP_CMD (R41, R42). -/
def stepCmdWrite (v : Nat) (h : Hub) : Hub :=
  let h := if bitOf v 1 then setFlag h aTimStepCmd 1 false else h
  if bitOf v 0 then armStep h else cancelStep h

/-- REKEY: recomputation starts under the key then in the key registers (R132). A write of 1 while it runs starts nothing. -/
def rekeyStart (h : Hub) : Hub :=
  if h.txs.rekeyFrom.isSome then h else lateLatches { h with txs := { h.txs with rekeyFrom := some h.tim.edges } }

/-- A write to TRN_DIGEST_KEYk, discarded while a recomputation runs (R132). -/
def digestKeyWrite (k v : Nat) (h : Hub) : Hub :=
  if h.txs.rekeyFrom.isSome then h
  else { h with txs := { h.txs with keyRegs := BitVec.ofNat 256 (putWord h.txs.keyRegs.toNat k v) } }

/-- A write to TRN_SLICE_SEL latches the selected dock's slice values for the writer (R136). -/
def sliceSelWrite (ag : Reader) (v : Nat) (h : Hub) : Hub :=
  let d := v % 64
  let x := (BitVec.ofNat 6 d, tget 0 h.txs.sliceVintage d, tget 0 h.txs.sliceDigest d)
  { h with txs := { h.txs with sliceSel := tput h.txs.sliceSel (agentCode ag) x } }

/-- A write to DSP_AUX_CMD: GO starts a transaction; while one runs the fields stay (R331). -/
def auxCmdWrite (o v : Nat) (h : Hub) : Hub :=
  if bitOf v 31 then auxStart o (W v) h
  else if flag h (aDspAuxCmd o) 31 then h
  else wr h (aDspAuxCmd o) (W v &&& 0x7F0FFFFF)

/-- A write to a register of the TRN block that acts. -/
def trnWrite (p : Port) (ag : Reader) (base i v : Nat) (h : Hub) : Option Hub :=
  match base with
  | 0x200000 => some (if bitOf v 0 then setFlag h aTrnCtl 0 true else stopRun h none)
  | 0x200100 =>
    let h := setFlag h (aTrnCrCtl i) 0 (bitOf v 0)
    some (if bitOf v 1 then ringReset p i h else checkHeader h i)
  | 0x200104 => some (crTailWrite p i v h)
  | 0x200200 =>
    let h := setFld (setFlag h (aTrnCcCfg i) 7 (bitOf v 7)) (aTrnCcCfg i) 0 6 v
    some (if bitOf v 8 then ccReset p i h else h)
  | 0x200208 => some (ccHeadWrite p i v h)
  | 0x200480 => some (if bitOf v 0 then (semGive h p i).1 else h)
  | 0x200508 => some (breakSems h (fun n _ => bitOf v n))
  | 0x200920 => some (digestKeyWrite i v h)
  | 0x200940 => some (if bitOf v 0 then rekeyStart h else h)
  | 0x200980 => some (sliceSelWrite ag v h)
  | _ => none

/-- A write to another register that acts; none for a register that only holds its value. -/
def actWrite (m : Mem) (base i v : Nat) (h : Hub) : Option Hub :=
  match base with
  | 0x100028 => some (stepCmdWrite v h)
  | 0x100030 => some (rateFollow (wr h aTimRateAdj (W v)))
  | 0x300090 =>
    let h := setFld h (aLanePatCfg i) 0 8 v
    some (if bitOf v 8 then patternClear i h else h)
  | 0x80000C => some (if bitOf v 0 then safeClr i h else h)
  | 0x800300 => some (auxCmdWrite i v h)
  | 0xB00008 => some (lcCmd v h)
  | 0xB0000C => some (fuseCmd v h)
  | 0xB00044 => some (keyImport v h)
  | 0xF00048 => some (dockReset (W v) h)
  | 0xF00060 => some (trimRewrite (W v) m h)
  | _ => none

/-- A 32-bit write by an agent that acts for a port, to anything but an SH field: memory windows and registers, ring
registers of the other port excepted (R18, R34, R99). -/
def writeWord (m : Mem) (h : Hub) (p : Port) (ag : Reader) (a v : Nat) : Hub :=
  if otherRing p a then h
  else if inMemWindow a then windowWrite h a v
  else match regRow a with
    | none => h
    | some (r, ix) =>
      if absentReg h.part.res r.base ix then h
      else
        let i := (ix.head?.map (·.1)).getD 0
        match trnWrite p ag r.base i v h with
        | some h => h
        | none =>
          match actWrite m r.base i v h with
          | some h => h
          | none => wr h a (writeFields r (rd h a) (W v))

/-! ### Commands of the management ports and hosts -/

/-- LOW_WORD_READ (R20, R135, R247): an agent reads a word; reading the low word of a pair or group loads its latches. A
host's address is an offset of its control page. TRN_SEM_TAKEn has a row of its own. -/
def lowWordRead (ag : Reader) (a t : Nat) (h : Hub) : Hub :=
  let h := atClk h t
  match ag with
  | .host d =>
    hubPage d.val (fun h => let r := pageRead h d.val a; send r.1 (.data ag a (W r.2))) h
  | _ =>
    if a % 4 ≠ 0 ∨ 2 ^ 24 ≤ a ∨ (semTakeAt a).isSome then h
    else
      let r := readWord h ag a
      send r.1 (.data ag a (W r.2))

def execLowWordRead (ag : Reader) (a : Word) (t : Nat) (s : State) : Ans := s.act (lowWordRead ag a.toNat t)

/-- REGISTER_WRITE (R18, R21, R34, R99): a port's direct write to a register or window that is not SH. -/
def registerWrite (p : Port) (a v t : Nat) (m : Mem) (h : Hub) : Hub :=
  let h := atClk h t
  if a % 4 ≠ 0 ∨ 2 ^ 24 ≤ a ∨ shMask h.part a ≠ 0 then h else writeWord m h p (.port p) a v

def execRegisterWrite (p : Port) (a v : Word) (t : Nat) (s : State) : Ans :=
  s.actMem (fun m h => (m, registerWrite p a.toNat v.toNat t m h))

/-- A direct SH write that is discarded is counted and reported (R64, R117). -/
def mmioDiscard (h : Hub) : Hub := raise (count h aTrnMmioDiscards 1) 0x03 2 0 0

/-- MMIO_SH_WRITE (R36, R64, R117): a direct write to an SH register enters validation as an implicit transaction of one
record, or is discarded when its record lies in an open scope or a TIM_ field is out of range. While the commit queue is
full no such write arrives (R121). -/
def mmioShWrite (p : Port) (a v t : Nat) (h : Hub) : Hub :=
  let h := atClk h t
  if a % 4 ≠ 0 ∨ shMask h.part a = 0 ∨ 64 ≤ h.txs.queue.length + h.txs.delivering.toList.length then h
  else
    let recs : Recs := [(a, W v)]
    let regs := lay h.part (projected h) recs
    if timRecordBad h regs a v || decide (overlaps h (recScope h regs a) none ≠ 0) then mmioDiscard h
    else submit h .direct p recs none [] []

def execMmioShWrite (p : Port) (a v : Word) (t : Nat) (s : State) : Ans := s.act (mmioShWrite p a.toNat v.toNat t)

/-- SLICE_SEL_WRITE (R136). -/
def execSliceSelWrite (p : Port) (v : Word) (s : State) : Ans := s.act (sliceSelWrite (.port p) v.toNat)

/-! ### Turner's accesses (R91, R93) -/

/-- SIGNAL to the owning port or to a dock's event ring (R91). -/
def execSignal (th : Fin 4) (s : State) : Ans :=
  s.act (fun h => onInstr h th 0x03 (fun h c w =>
    if w.target = 0xF000 then
      if 64 ≤ w.operand then settle h c.id .invalid 0
      else settle (sendMsix h (cmdPort h c) w.operand) c.id .ok 0
    else if h.part.res.docks ≤ w.target ∨ !dockCreated h w.target then settle h c.id .invalid 0
    else if 2 ≤ dockState h w.target ∧ dockState h w.target ≤ 5 then settle h c.id .denied 0
    else settle (hfEvent h w.target 1 w.operand) c.id .ok 0))

/-- Is an address a register of the part or in a memory window: what a CSR.WR or CSR.RMW may name (R5, R34, R93)? -/
def csrAddrOk (h : Hub) (a : Nat) : Bool :=
  inMemWindow a || (match regRow a with
    | some (r, ix) => !absentReg h.part.res r.base ix
    | none => false)

/-- CSR.RD (R20, R93): 32 bits, sign-extended under SX, or two accesses, low address first. -/
def csrRd (th : Fin 4) (t : Nat) (h : Hub) : Hub :=
  onInstr (atClk h t) th 0x08 (fun h c w =>
    let a := w.operand
    let wide := bitOf w.target 0
    if 4 ≤ w.target ∨ a % (if wide then 8 else 4) ≠ 0 then settle h c.id .invalid 0
    else
      let p := cmdPort h c
      let r := readFor h p (.thread th) a
      if wide then
        let r2 := readFor r.1 p (.thread th) (a + 4)
        settle r2.1 c.id .ok (r.2 + r2.2 * 2 ^ 32)
      else settle r.1 c.id .ok (if bitOf w.target 1 then sext32 r.2 else r.2))

def execCsrRd (th : Fin 4) (t : Nat) (s : State) : Ans := s.act (csrRd th t)

/-- Does a write end the command that makes it: RUN = 0, or RESET of its own ring (R85, R103)? -/
def stopsSelf (c : Cmd) (e : Nat × Nat) : Bool :=
  (decide (e.1 = aTrnCtl) && !bitOf e.2 0) || (decide (e.1 = aTrnCrCtl c.ring) && bitOf e.2 1)

/-- The writes of a CSR.WR or CSR.RMW, each an address and a value: records of SH registers are staged, others act at once.
A write to the other port's rings is DENIED, a TIM_ field out of range INVALID, and nothing is written (R64, R93, R99). -/
def csrWrites (m : Mem) (h : Hub) (th : Fin 4) (c : Cmd) (w : IW) (es : List (Nat × Nat)) (result : Nat) : Hub :=
  let p := cmdPort h c
  let sh := es.filter (fun e => decide (shMask h.part e.1 ≠ 0))
  let plain := es.filter (fun e => decide (shMask h.part e.1 = 0))
  let recs : Recs := sh.map (fun e => (e.1, W e.2))
  let regs := standing h c recs
  let act := fun h => plain.foldl (fun h e => writeWord m h p (.thread th) e.1 e.2) h
  if es.any (fun e => !csrAddrOk h e.1) then settle h c.id .invalid 0
  else if es.any (fun e => otherRing p e.1) then settle h c.id .denied 0
  else if sh.any (fun e => timRecordBad h regs e.1 e.2) then settle h c.id .invalid 0
  else if recs ≠ [] then stageS (act h) c w recs Scope.empty result
  else if plain.any (stopsSelf c) then act (settle h c.id .ok result)
  else settle (act h) c.id .ok result

/-- CSR.WR (R93): VREG takes the value from a register; SIZE = 1 makes two accesses, low address first. -/
def csrWr (th : Fin 4) (t : Nat) (m : Mem) (h : Hub) : Hub :=
  onInstr (atClk h t) th 0x09 (fun h c w =>
    let a := w.operand
    let wide := bitOf w.target 12
    let vreg := bitOf w.target 8
    let v := if vreg then greg c (bitsOf w.target 0 5) else w.x 0
    if !onlyBits w.target 0x111F ∨ (!vreg ∧ bitsOf w.target 0 5 ≠ 0) ∨ a % (if wide then 8 else 4) ≠ 0 ∨
        (!vreg ∧ !wide ∧ 2 ^ 32 ≤ v) then settle h c.id .invalid 0
    else csrWrites m h th c w (if wide then [(a, v % 2 ^ 32), (a + 4, v / 2 ^ 32)] else [(a, v % 2 ^ 32)]) 0)

def execCsrWr (th : Fin 4) (t : Nat) (s : State) : Ans := s.actMem (fun m h => (m, csrWr th t m h))

/-- CSR.RMW (R93): (old AND NOT mask) OR (value AND mask), from the staged value of an SH register; the result is old. -/
def csrRmw (th : Fin 4) (t : Nat) (m : Mem) (h : Hub) : Hub :=
  onInstr (atClk h t) th 0x0A (fun h c w =>
    let a := w.operand
    if w.target ≠ 0 ∨ a % 4 ≠ 0 ∨ !csrAddrOk h a then settle h c.id .invalid 0
    else if otherRing (cmdPort h c) a then settle h c.id .denied 0
    else
      let r := if shMask h.part a ≠ 0 then (h, (stagedOr h c a).toNat) else readFor h (cmdPort h c) (.thread th) a
      let mask := w.x 0 / 2 ^ 32
      let v := (r.2 - (r.2 &&& mask)) ||| (w.x 0 % 2 ^ 32 &&& mask)
      csrWrites m r.1 th c w [(a, v)] r.2)

def execCsrRmw (th : Fin 4) (t : Nat) (s : State) : Ans := s.actMem (fun m h => (m, csrRmw th t m h))

/-! ### The sideband target (R37, R520) -/

/-- The registers that the SMBus target reaches. -/
def smbusReach (a : Nat) : Bool :=
  a % 4 = 0 && (decide (a ≤ aTopFuses) || (decide (aPwrStatus ≤ a) && decide (a < aPwrStatus + 0x100)) ||
    (decide (aPwrMonLevels 0 ≤ a) && decide (a < aPwrMonLevels 9) && a % 16 = 8) ||
    (decide (aPwrPwcCfg0 0 ≤ a) && decide (a < aPwrPwcCfg0 24) && (a % 32 = 8 || a % 32 = 12)))

/-- Those that it serves while the core is down. -/
def smbusAon (a : Nat) : Bool :=
  decide (a ≤ aTopFuses) || decide (a = aPwrStatus) || decide (a = aPwrResetCause) ||
    (decide (aPwrWakeEn ≤ a) && decide (a ≤ aPwrWakeTimer)) || (decide (aPwrWakeRecord ≤ a) && decide (a ≤ aPwrWakeCount)) ||
    decide (a = aPwrSbCfg) || decide (a = aPwrTemp) || decide (a = aPwrFeedStatus 0) || decide (a = aPwrFeedStatus 1) ||
    decide (aPwrPwcCfg0 0 ≤ a)

/-- Is the core up for the sideband target? -/
def coreUp (h : Hub) : Bool := h.runs || h.pwr.mode == .dozeEntry

/-- Does a transaction's PEC satisfy PWR_SB_CFG.PEC_REQ? -/
def pecOk (h : Hub) (pec : Pec) : Bool := !flag h aPwrSbCfg 8 || pec == .good

/-- The value that the target reads at an address. -/
def smbusValue (h : Hub) (a : Nat) : Nat :=
  if smbusReach a && (coreUp h || smbusAon a) then liveVal h (.port .m0) a else 0

/-- SET_PTR (R520). -/
def execSetPtr (ptr : Word) (pec : Pec) (s : State) : Ans :=
  s.actAon (fun h => if pecOk h pec then { h with pwr := { h.pwr with ptr := ptr } } else h)

/-- WRITE (R520): only PWR_EVENT and PWR_SB_CFG take a write; the pointer moves on by 4. -/
def smbusWrite (v : Word) (pec : Pec) (h : Hub) : Hub :=
  if !pecOk h pec then h
  else
    let a := h.pwr.ptr.toNat
    let h := { h with pwr := { h.pwr with ptr := h.pwr.ptr + 4 } }
    if a = aPwrSbCfg ∨ (a = aPwrEvent ∧ coreUp h) then
      match regRow a with
      | some (r, _) => wr h a (writeFields r (rd h a) v)
      | none => h
    else h

def execWrite (v : Word) (pec : Pec) (s : State) : Ans := s.actAon (smbusWrite v pec)

/-- READ (R520): the register at the pointer goes out; the pointer moves on by 4. -/
def smbusRead (pec : Pec) (h : Hub) : Hub :=
  if !pecOk h pec then h
  else
    let h' := { h with pwr := { h.pwr with ptr := h.pwr.ptr + 4 } }
    send h' (.smbus h.pwr.ptr.toNat (W (smbusValue h h.pwr.ptr.toNat)))

def execRead (pec : Pec) (s : State) : Ans := s.actAon (smbusRead pec)

end Sys2Proof.Machine
end

