-- ==== Sys2Proof/Machine/Validate.lean ====
section
/-!
DEFINITION. What validation checks (R119, R120): frozen docks, references, the block rules of every chapter, allowances and
pools. A record is judged against the configuration as it will stand.
-/
namespace Sys2Proof.Machine

/-- A transaction under validation: the projected configuration before it and after it, its records and its origin. -/
structure Val where
  h : Hub
  pri : Tab Word
  regs : Tab Word
  recs : Recs
  src : TxSrc
  opens : List (Nat × Option Bool)

/-- A register as it will stand. -/
def Val.g (v : Val) : Look := cfg v.h v.regs

/-- The value as staged: with what is not SH, and with fields that clear themselves. -/
def Val.staged (v : Val) (a : Nat) : Nat := ((v.recs.find? (fun e => decide (e.1 = a))).map (·.2.toNat)).getD (v.g a)

/-- A register before the transaction. -/
def Val.was (v : Val) : Look := cfg v.h v.pri

/-- The dock on which the transaction's own racking or destroy operation acts (R128). -/
def Val.own (v : Val) : Option Nat :=
  match v.src with
  | .internal (.destroy d _) => some d
  | .internal (.restore d) => some d
  | .internal (.thaw d) => some d
  | _ => none

/-- Is an address opened or created by an instruction of the transaction although it was so already (R252, R398)? -/
def Val.reopened (v : Val) (a : Nat) (before : Bool) : Bool :=
  v.opens.any (fun o => decide (o.1 = a) && o.2.getD before)

/-- The row base of a record's address and its first two indices. -/
def recRow (a : Nat) : Nat × Nat × Nat :=
  match regRow a with
  | some (r, ix) => (r.base, (ix.head?.map (·.1)).getD 0, (ix[1]?.map (·.1)).getD 0)
  | none => (0, 0, 0)

/-! ### Frozen docks and references (R119, R223) -/

/-- The docks of a scope. -/
def scopeDocks (s : Scope) : List Nat := bitsSet 64 s.docks.toNat

/-- The docks that a record touches: its element, those of an end, of a USB port or buffer, before and after (R112). -/
def touchedDocks (v : Val) (a : Nat) : List Nat :=
  let (b, i, j) := recRow a
  let ends := fun (regs : Tab Word) => ((endIn v.h regs i j).map (·.dock)).toList
  let onBit := fun (x : Nat) => if bitOf x 31 then [bitsOf x 0 6] else []
  scopeDocks (recScope v.h v.regs a) ++ scopeDocks (recScope v.h v.pri a) ++
    (if b = aTunT 0 0 ∨ b = aTunR 0 0 then ends v.regs ++ ends v.pri
     else if b = aUsbPortAssign 0 then onBit (v.g a) ++ onBit (v.was a)
     else if b = aUsbEpmCtl 0 ∨ b = aUsbEpmOffset 0 ∨ b = aUsbEpmLength 0 then
       onBit (v.g (aUsbEpmCtl i)) ++ onBit (v.was (aUsbEpmCtl i))
     else [])

/-- The end that a switch port and TID name in a configuration: a group's at its lowest member (R217). -/
def endNamed (h : Hub) (regs : Tab Word) (sp tid : Nat) : Option EndInfo :=
  match endIn h regs sp tid with
  | some e => some e
  | none =>
    if 8 ≤ sp then none
    else ((List.range 8).filterMap (fun m => endIn h regs m tid)).find? (fun e =>
      decide (lowest (maskIn h regs e.dock) = e.sp) && bitOf (maskIn h regs e.dock) sp)

/-- The routes of a configuration: switch port and TID of the ingress end, of the egress end. -/
def routesIn (regs : Tab Word) : List ((Nat × Nat) × (Nat × Nat)) :=
  regs.filterMap (fun e =>
    if 0x510000 ≤ e.1 ∧ e.1 < 0x5D0000 ∧ e.1 % 8 = 4 ∧ bitOf e.2.toNat 31 then
      some (((e.1 - 0x510000) / 0x8000, (e.1 - 0x510000) % 0x8000 / 8), (bitsOf e.2.toNat 24 5, bitsOf e.2.toNat 0 12))
    else none)

/-- Does a record refer to what will not exist (R119)? -/
def refBad (v : Val) (a : Nat) : Bool :=
  let (b, i, j) := recRow a
  let x := v.g a
  let gone := fun d => !createdIn v.h v.regs d
  let home := decide (a / 0x100000 ≠ 10) && decide (recVal v.h.part (a, W x) ≠ recVal v.h.part (a, resetVal v.h.part a)) &&
    (scopeDocks (recScope v.h v.regs a)).any gone
  home ||
  (if b = aTunT 0 0 then
    match endIn v.h v.regs i j, endIn v.h v.pri i j with
    | some e, _ => gone e.dock
    | none, some _ => (routesIn v.regs).any (fun r =>
        (endNamed v.h v.pri r.2.1 r.2.2).any (fun e => decide (e.sp = i) && decide (e.tid = j)) &&
          (endNamed v.h v.regs r.2.1 r.2.2).isNone)
    | none, none => bitOf x 15
  else if b = aTunR 0 0 then
    bitOf x 31 && ((endIn v.h v.regs i j).isNone ||
      (decide (bitsOf x 24 5 < 21) && (endNamed v.h v.regs (bitsOf x 24 5) (bitsOf x 0 12)).isNone))
  else if b = aUsbPortAssign 0 then bitOf x 31 && gone (bitsOf x 0 6)
  else if b = aUsbEpmCtl 0 then bitOf x 31 && gone (bitsOf x 0 6)
  else if b = aTunEthPort 0 then bitOf x 8 && gone (bitsOf x 0 6)
  else if b = aDspLayerCtl 0 0 then bitOf x 31 && bitOf x 0 && gone (bitsOf x 24 6)
  else if b = aDspChkCtl 0 0 then bitOf x 1 && gone (bitsOf x 16 6)
  else if b = aVdkCfg 0 then
    bitOf (v.was a) 31 && !bitOf x 31 && (endsIn v.regs).any (fun e => decide (e.dock = i))
  else false)

/-! ### Trunks and lanes (R183, R186, R212), tick programs (R95) -/

def bytesOf (x : Nat) : List Nat := (List.range 4).map (fun k => bitsOf x (8 * k) 8)

def trkRule (g : Look) (b n : Nat) : Option Nat :=
  let c := bytesOf (g (aTrkVcCredit0 n)) ++ bytesOf (g (aTrkVcCredit1 n))
  let bad := fun (l : List Nat) => l.any (fun x => decide (x < 4) || decide (127 < x))
  if b = aTrkVcCredit0 0 ∨ b = aTrkVcCredit1 0 then
    if 512 < c.foldl (· + ·) 0 then some 1
    else if bad (if b = aTrkVcCredit0 0 then c.take 4 else c.drop 4) then some 2 else none
  else if b = aTrkCtl 0 then
    if bitsOf (g (aTrkCtl n)) 1 2 = 3 then some 3
    else if bitOf (g (aTrkCtl n)) 0 ∧ bitsOf (g (aTrkCtl n)) 4 4 = 0 then some 4 else none
  else if b = aTrkReplayCfg 0 then
    if bitsOf (g (aTrkReplayCfg n)) 16 4 = 0 ∨ bitsOf (g (aTrkReplayCfg n)) 0 16 < 100 then some 5 else none
  else if b = aTrkIdleCfg 0 then if bitsOf (g (aTrkIdleCfg n)) 16 8 = 0 then some 5 else none
  else none

def laneRule (g : Look) (b l : Nat) : Option Nat :=
  if b = aLaneTxFfeOvr 0 then
    let x := g (aLaneTxFfeOvr l)
    let pre := bitsOf x 16 8
    let post := bitsOf x 0 8
    if 15 < pre ∨ 25 < pre + post ∨ bitsOf x 8 8 ≠ 63 - pre - post then some 1 else none
  else if b = aLaneCtl 0 then
    if 32 ≤ l ∧ l < 64 ∧ bitsOf (g (aLaneCtl l)) 1 3 ≠ 0 then some 2 else none
  else none

/-- Tick programs: the ring of an enabled one belongs to its owner, and a thread stays free (R95). -/
def tpRule (g : Look) (b n : Nat) : Option Nat :=
  if b ≠ aTrnTpCfg 0 then none
  else
    let x := g (aTrnTpCfg n)
    let tick := fun (t : Nat) => (List.range 8).any (fun k => bitOf (g (aTrnTpCfg k)) 0 && decide (bitsOf (g (aTrnTpCfg k)) 1 2 = t))
    if Port.toNat (ringPort (bitsOf x 4 3)) ≠ bitsOf x 3 1 ∨ (bitOf x 0 ∧ (List.range 4).all tick) then some 0 else none

/-! ### Tunnels and bridges (R216-R219, R243, R252, R274, R417) -/

/-- May a type be opened on a switch port (R216)? -/
def typeOn (sp type : Nat) : Bool :=
  if sp < 8 then decide (1 ≤ type) && decide (type ≤ 5)
  else if sp < 16 then decide (type = 1)
  else if sp < 20 then decide (type = 3)
  else decide (sp = 20) && decide (type = 2)

/-- Ends of a kind that R216 limits to one. -/
def limited (e x : EndInfo) : Bool :=
  if e.sp < 8 then decide (x.sp < 8) && decide (x.dock = e.dock) && decide (x.type = e.type) && decide (e.type = 1 ∨ e.type = 2 ∨ e.type = 4)
  else decide (x.sp = e.sp) && (decide (e.sp < 16) || decide (x.dock = e.dock))

/-- Is a TID of a trunk reserved by a group of another dock (R217)? -/
def tidReserved (h : Hub) (regs : Tab Word) (sp tid d : Nat) : Bool := groupTid h regs sp tid (some d)

/-- Does a record put bits into a word of a built-in end or of a reserved group TID, which cannot be written (R252)? -/
def fixedWord (v : Val) (a sp tid : Nat) : Option Nat :=
  if v.g a = 0 then none
  else if builtIn sp tid then some 4
  else if !bitOf (v.g a) 31 ∧ groupTid v.h v.regs sp tid none then some 7
  else none

def endRule (v : Val) (sp tid : Nat) : Option Nat :=
  match endIn v.h v.regs sp tid with
  | none => none
  | some e =>
    let was := endIn v.h v.pri sp tid
    let ends := endsIn v.regs
    let m := maskIn v.h v.regs e.dock
    let closed : Bool := v.opens.any (fun o => decide (o.1 = aTunT sp tid) && decide (o.2 = some false))
    let changed : Bool := match was with
      | some w => decide (w.type ≠ e.type) || decide (w.dock ≠ e.dock)
      | none => false
    if builtIn sp tid then some 4
    else if v.reopened (aTunT sp tid) was.isSome ∨ (changed ∧ !closed ∧ v.own.isNone) ∨
        (was.isNone ∧ tidReserved v.h v.regs sp tid e.dock) then some 1
    else if !typeOn sp e.type then some 2
    else if 1 < (ends.filter (limited e)).length then some 3
    else if e.keyEn ∧ 8 ≤ sp then some 5
    else if sp < 8 ∧ (!bitOf m sp ∨ lowest m ≠ sp) then some 7
    else if e.keyEn ∧ !keyOk v.h e.kslot 2 then some 0x10
    else if e.keyEn ∧ ends.any (fun x => x.keyEn && decide (x.kslot = e.kslot) && decide (x.dock ≠ e.dock)) then some 0x11
    else none

/-- Is a route permitted by R219? -/
def routeOk (v : Val) (e : EndInfo) (es et : Nat) : Bool :=
  let joins := fun (anyDock : Bool) =>
    match endNamed v.h v.regs es et with
    | some x => decide (x.type = e.type) && (anyDock || decide (x.dock = e.dock))
    | none => false
  match e.type with
  | 1 => if e.sp < 8 then decide (es = 31) && decide (et = 0) else decide (es < 8) && joins false
  | 2 => (if e.sp < 8 then decide (es = 20) else decide (es < 8)) && joins false
  | 3 => (if e.sp < 8 then decide (16 ≤ es) && decide (es < 20) else decide (es < 8)) && joins false
  | 5 => (decide (es = 23) && decide (et < 64)) || (decide (es < 8) && joins true)
  | _ => false

/-- Could two enabled classifier entries match one unicast frame (R243)? -/
def ethcClash (g : Look) (d k e m : Nat) : Bool :=
  let a := g (aTunEthcCtl d k)
  let b := g (aTunEthcCtl e m)
  let hi := fun d k => g (aTunEthcMacHi d k)
  bitOf a 31 && bitOf b 31 && decide (g (aTunEthcMacLo d k) = g (aTunEthcMacLo e m)) && decide (bitsOf (hi d k) 0 16 = bitsOf (hi e m) 0 16) &&
    decide (bitsOf a 0 4 &&& bitsOf b 0 4 ≠ 0) && (!bitOf a 8 || !bitOf b 8 || decide (bitsOf (hi d k) 16 12 = bitsOf (hi e m) 16 12))

def tunRule (v : Val) (a b i j : Nat) : Option Nat :=
  let x := v.g a
  if b = aTunT 0 0 then (fixedWord v a i j).orElse (fun _ => endRule v i j)
  else if b = aTunR 0 0 then
    if (fixedWord v a i j).isSome then fixedWord v a i j
    else if !bitOf x 31 then none
    else match endIn v.h v.regs i j with
      | some e => if routeOk v e (bitsOf x 24 5) (bitsOf x 0 12) then none else some 6
      | none => none
  else if b = aTunEthcMacLo 0 0 ∨ b = aTunEthcMacHi 0 0 ∨ b = aTunEthcCtl 0 0 then
    if (List.range 64).any (fun e => (List.range 4).any (fun m => (decide (e ≠ i) || decide (m ≠ j)) && ethcClash v.g i j e m)) then
      some 8 else none
  else if b = aTunFan 0 0 then
    if bitOf x 31 ∧ !(decide (bitsOf x 24 5 < 8) && (endNamed v.h v.regs (bitsOf x 24 5) (bitsOf x 0 12)).any (fun e => decide (e.type = 5)))
    then some 9 else none
  else if b = aTunHfCfg 0 then
    if bitsOf x 0 6 ≠ 0 ∧ (bitsOf x 0 6 < 20 ∨ 36 < bitsOf x 0 6) then some 0x0A else none
  else if b = aTunCplpool 0 then
    if 65536 < poolSum v.h v.regs then some 0x0B else if bitsOf x 0 17 < 51 then some 0x0C else none
  else if b = aTunBrgCfg then if bitsOf x 16 11 = 0 ∨ 1024 < bitsOf x 16 11 then some 0x0D else none
  else if b = aTunPf 0 ∨ b = aTunPfAper then if bitsOf x 0 7 = 0 ∨ 64 < bitsOf x 0 7 then some 0x0E else none
  else none

/-! ### Cellar regions (R303, R332, R436, R451, R467, R508) -/

/-- The fallback region of the dual-port banks: none while disabled (R436). -/
def fallbackRange (g : Look) : Nat × Nat :=
  if bitOf (g aMemDpFallback) 31 then (bitsOf (g aMemDpFallback) 0 16 * 2 ^ 20, 2 ^ 20) else (0, 0)

/-- The telemetry ring: none while disabled (R462). -/
def ringRange (h : Hub) (g : Look) : Nat × Nat :=
  let c := g aTelRingCfg
  if bitOf c 31 then (g aTelRingBaseLo + g aTelRingBaseHi * 2 ^ 32, bitsOf c 0 16 * recordLen h.part.res (bitsOf c 16 10)) else (0, 0)

/-- The Doze region: none while Doze is not permitted (R508). -/
def dozeRange (g : Look) : Nat × Nat :=
  if bitOf (g aPwrDozeCfg) 31 then (bitsOf (g aPwrDozeCfg) 0 10 * 2 ^ 24, 2 ^ 24) else (0, 0)

/-- Does a range leave the installed cellar or meet one of a list of ranges or an aperture window? -/
def rangeClash (h : Hub) (g : Look) (r : Nat × Nat) (others : List (Nat × Nat)) : Bool :=
  let meet := fun (x : Nat × Nat) => rangesMeet r.1 r.2 x.1 x.2
  (decide (r.2 ≠ 0) && decide (installedBytes h < r.1 + r.2)) || others.any meet ||
    (List.range 64).any (fun d => (List.range 16).any (fun w => meet ((apWindow g d w).1, (apWindow g d w).2.2)))

/-! ### Switch core and traffic manager (R303, R309, R325) -/

def swcRule (v : Val) (b i : Nat) : Option Nat :=
  let g := v.g
  if b = aSwcSpill then
    if (spillRange g).2 ≠ 0 ∧ installedBytes v.h < (spillRange g).1 + (spillRange g).2 then some 1
    else if g aSwcSpill ≠ v.was aSwcSpill ∧ (List.range 24).any (fun j => decide (portBarrels v.h j ≠ 0)) then some 3 else none
  else if b = aSwcCfg then if bitsOf (g aSwcCfg) 16 13 < 256 ∨ 4096 < bitsOf (g aSwcCfg) 16 13 then some 2 else none
  else if b = aSwcPortQuota 0 then if bitsOf (g (aSwcPortQuota i)) 0 19 < 64 then some 4 else none
  else if b = aSwcPortVoq 0 then if bitsOf (g (aSwcPortVoq i)) 0 16 < 64 then some 4 else none
  else if b = aSwcFenceCfg then if bitsOf (g aSwcFenceCfg) 16 8 = 0 then some 5 else none
  else none

/-- A scheduled egress with the dock and class of its packets that an end must find a role-0 queue for (R309). -/
structure Needs where
  sp : Nat
  tid : Nat
  esp : Nat
  etid : Nat
  port : Nat
  dock : Nat
  cls : Nat
deriving DecidableEq, Repr

/-- The member trunks that an egress end stands for. -/
def egressPorts (h : Hub) (regs : Tab Word) (e : EndInfo) : List Nat :=
  let m := maskIn h regs e.dock
  if e.sp < 8 ∧ 1 < popcount 8 m then bitsSet 8 m else [e.sp]

/-- What the routed ends of a configuration need (R305, R309). -/
def needsIn (h : Hub) (regs : Tab Word) : List Needs :=
  let ends := endsIn regs
  let dst := fun (e x : EndInfo) => (egressPorts h regs x).map (fun p => (⟨e.sp, e.tid, x.sp, x.tid, p, x.dock, x.cls⟩ : Needs))
  (routesIn regs).flatMap (fun r =>
    match endIn h regs r.1.1 r.1.2 with
    | none => []
    | some e =>
      if e.type = 4 then []
      else if r.2.1 = 31 then (ends.filter (fun x => decide (8 ≤ x.sp) && decide (x.sp < 16) && decide (x.dock = e.dock))).flatMap (dst e)
      else
        let direct := ((endNamed h regs r.2.1 r.2.2).toList).flatMap (dst e)
        let eth := if e.type = 3 ∧ e.sp < 8 then
            (ends.filter (fun x => decide (16 ≤ x.sp) && decide (x.sp < 20) && decide (x.dock = e.dock))).flatMap (dst e)
          else []
        direct ++ eth)

/-- Those without an enabled role-0 queue. -/
def missing (h : Hub) (regs : Tab Word) : List Needs :=
  (needsIn h regs).filter (fun n => !(queueSet h regs n.port n.dock n.cls).any (fun q => q.2 && decide (q.1 % 4 = 0)))

/-- Is a record concerned in a missing queue: the end's or egress end's, the queue that was there, the dock's mask? -/
def missedBy (v : Val) (b i j : Nat) (n : Needs) : Bool :=
  if b = aTunT 0 0 ∨ b = aTunR 0 0 then (decide (i = n.sp) && decide (j = n.tid)) || (decide (i = n.esp) && decide (j = n.etid))
  else if b = aTmgQmap 0 then
    let x := v.was (aTmgQmap i)
    bitOf x 31 && decide (bitsOf x 0 5 = n.port) && decide (bitsOf x 8 6 = n.dock) && decide (bitsOf x 16 3 = n.cls) && decide (i % 4 = 0)
  else b = aVdkCfg 0 && decide (i = n.dock) && bitOf (maskIn v.h v.regs i) n.port

/-- Are the five words of a shaper or policer out of their ranges (R325)? `a` is its first word, `off` the staged one's. -/
def shaperBad (g : Look) (a off : Nat) (staged : Nat) (init : Bool) : Bool :=
  match off with
  | 0 => decide (g a = 0) && decide (g (a + 4) ≠ 0)
  | 4 => decide (g a = 0) && decide (g (a + 4) ≠ 0)
  | 8 => bitOf staged 31
  | 12 => decide (0 < signed staged 32)
  | _ => init && decide (bitsOf staged 0 2 = 3)

def tmgRule (v : Val) (x b i j : Nat) : Option Nat :=
  let q := v.g (aTmgQmap i)
  let p := v.was (aTmgQmap i)
  let own := match v.src with
    | .internal (.restore d) => decide (bitsOf p 8 6 = d)
    | _ => false
  let sh := fun (a base : Nat) (init : Bool) => if shaperBad v.g a (b - base) x init then some 3 else none
  if b = aTmgQmap 0 then
    if bitOf q 31 ∧ (21 ≤ bitsOf q 0 5 ∨ !spPresent v.h.part.res (bitsOf q 0 5)) then some 1
    else if (bitsOf q 0 5 ≠ bitsOf p 0 5 ∨ bitsOf q 8 6 ≠ bitsOf p 8 6 ∨ bitsOf q 16 3 ≠ bitsOf p 16 3) ∧
        (queueHolds v.h i ∨ (queueAt v.h i).spilled) ∧ !own then some 2
    else none
  else if aTmgQsIdle 0 ≤ b ∧ b < aTmgQsIdle 0 + 32 then sh (aTmgQsIdle i) (aTmgQsIdle 0) true
  else if aTmgDsIdle 0 0 ≤ b ∧ b < aTmgDsIdle 0 0 + 32 then sh (aTmgDsIdle i j) (aTmgDsIdle 0 0) true
  else if aTmgPlIdle 0 ≤ b ∧ b < aTmgPlIdle 0 + 32 then sh (aTmgPlIdle i) (aTmgPlIdle 0) false
  else if b = aTmgCw 0 0 0 ∨ b = aTmgDw 0 0 then if x = 0 then some 5 else none
  else none

/-! ### USB and virtual docks (R355, R365, R374, R376, R378, R398) -/

def usbRule (v : Val) (a b i : Nat) : Option Nat :=
  let g := v.g
  if b = aUsbPortAssign 0 then
    let x := g a
    if !bitOf x 31 then none
    else if bitsOf x 8 4 = 0 ∨ bitsOf x 8 4 = 15 then some 1
    else if (List.range 16).any (fun u => decide (u ≠ i) && bitOf (g (aUsbPortAssign u)) 31 &&
        decide (bitsOf (g (aUsbPortAssign u)) 0 6 = bitsOf x 0 6) && decide (bitsOf (g (aUsbPortAssign u)) 8 4 = bitsOf x 8 4)) then some 2
    else none
  else if b = aUsbEpmCtl 0 ∨ b = aUsbEpmOffset 0 ∨ b = aUsbEpmLength 0 then
    let range := fun (k : Nat) => (bitsOf (g (aUsbEpmOffset k)) 0 19, bitsOf (g (aUsbEpmLength k)) 0 19)
    let r := range i
    if !bitOf (g (aUsbEpmCtl i)) 31 then none
    else if 524288 < r.1 + r.2 ∨ (List.range 256).any (fun k => decide (k ≠ i) &&
        ((bitOf (g (aUsbEpmCtl k)) 31 && rangesMeet r.1 r.2 (range k).1 (range k).2) ||
          rangesMeet r.1 r.2 (tget (0, 0) v.h.usb.drain k).1 (tget (0, 0) v.h.usb.drain k).2)) then some 3
    else if r.1 % 64 ≠ 0 ∨ r.2 % 64 ≠ 0 ∨ r.2 < 1088 ∨ 262144 < r.2 then some 4
    else none
  else if b = aUsbVhCfg 0 then if bitsOf (g a) 0 5 = 0 ∨ 16 < bitsOf (g a) 0 5 then some 5 else none
  else if b = aUsbCfg then if bitsOf (g a) 0 8 < 10 ∨ 100 < bitsOf (g a) 0 8 then some 5 else none
  else none

/-- Is the TID of a trunk end that moves with its dock's lowest member open or reserved there (R380)? -/
def movedTaken (v : Val) (d : Nat) : Bool :=
  let a := lowest (maskIn v.h v.pri d)
  let b := lowest (maskIn v.h v.regs d)
  decide (a < 8) && decide (b < 8) && decide (a ≠ b) &&
    ((endsIn v.pri).filter (fun e => decide (e.sp = a) && decide (e.dock = d))).any (fun e =>
      (endIn v.h v.regs a e.tid).isNone && (endIn v.h v.regs b e.tid).isSome &&
        ((endIn v.h v.pri b e.tid).isSome || tidReserved v.h v.pri b e.tid d))

def vdkRule (v : Val) (b d : Nat) : Option Nat :=
  if b ≠ aVdkCfg 0 then none
  else
    let m := maskIn v.h v.regs d
    let on := createdIn v.h v.regs d
    let was := createdIn v.h v.pri d
    let busy := decide (dockState v.h d ≠ 0) && decide (v.own ≠ some d)
    if on ∧ (popcount 8 m = 0 ∨ 4 < popcount 8 m ∨ (bitsSet 8 m).any (fun n => decide (v.h.part.res.trunks ≤ n))) then some 1
    else if on ∧ (List.range 64).any (fun e => decide (e ≠ d) && createdIn v.h v.regs e && decide (maskIn v.h v.regs e ≠ m) &&
        decide (maskIn v.h v.regs e &&& m ≠ 0)) then some 2
    else if movedTaken v d then some 5
    else if v.reopened (aVdkCfg d) (was || busy) ∨ (on ∧ !was ∧ busy) then some 6
    else none

/-- An allowance of a dock: 0 tunnel ends, 1 queues, 2 key slots, 3 device handles (R378). -/
def allowOf (g : Look) (k d : Nat) : Nat :=
  match k with
  | 0 => bitsOf (g (aVdkAllow0 d)) 0 13
  | 1 => bitsOf (g (aVdkAllow0 d)) 16 13
  | 2 => bitsOf (g (aVdkAllow1 d)) 0 11
  | _ => bitsOf (g (aVdkAllow1 d)) 16 11

/-- The device-wide pool of an allowance. -/
def poolOf (p : Part) (k : Nat) : Nat :=
  match k with
  | 0 => 4096
  | 1 => p.res.queues
  | 2 => 1024
  | _ => 1016

/-- A dock's use of a pool in a configuration. -/
def useOf (h : Hub) (regs : Tab Word) (k d : Nat) : Nat :=
  match k with
  | 0 => dockTunnels regs d
  | 1 => (dockQueues h regs d).length
  | 2 => dockSlots regs d
  | _ => devUse h d

/-- The sum of the allowances of all created docks. -/
def allowSum (h : Hub) (regs : Tab Word) (k : Nat) : Nat :=
  (List.range 64).foldl (fun n d => if createdIn h regs d then n + allowOf (cfg h regs) k d else n) 0

/-- Docks whose use of a pool exceeds their allowance; devices of the dock of an internal transaction go with it. -/
def overUsed (v : Val) (k : Nat) : List Nat :=
  (List.range v.h.part.res.docks).filter (fun d =>
    decide (allowOf v.g k d < useOf v.h v.regs k d) && (decide (k ≠ 3) || decide (v.own ≠ some d)))

/-- The detail of a record that breaks an allowance or a pool: VDK_ codes for the allowances themselves, else 0x0002 (R378). -/
def poolBad (v : Val) (excess : List (Nat × Nat)) (sums : List Nat) (n a : Nat) : Option Nat :=
  if excess = [] ∧ sums = [] then none
  else
    let p0 := lay v.h.part v.pri (v.recs.take n)
    let p1 := lay v.h.part v.pri (v.recs.take (n + 1))
    let b := (recRow a).1
    let d0 := (recRow a).2.1
    let allow := b = aVdkAllow0 0 ∨ b = aVdkAllow1 0
    if sums.any (fun k => decide (poolOf v.h.part k < allowSum v.h p1 k) && decide (allowSum v.h p0 k < allowSum v.h p1 k)) then
      some (if allow then 0x103 else 2)
    else if excess.any (fun e => decide (allowOf v.g e.1 e.2 < useOf v.h p1 e.1 e.2) &&
        (if allow then decide (d0 = e.2) && decide ((b = aVdkAllow0 0) = (e.1 < 2))
         else decide (useOf v.h p0 e.1 e.2 < useOf v.h p1 e.1 e.2))) then some (if allow then 0x104 else 2)
    else none

/-! ### Memory, telemetry, faults, power (R449, R451, R467, R486, R521) -/

def memRule (v : Val) (b : Nat) : Option Nat :=
  let g := v.g
  if b = aDspCfg ∨ b = aMemBwCfg0 ∨ b = aMemBwCfg1 then if fld v.h aMemCapacity 16 16 < reserveSum g then some 1 else none
  else if b = aMemDpFallback then if rangeClash v.h g (fallbackRange g) [spillRange g] then some 2 else none
  else if b = aMemScrubCfg then if bitsOf (g b) 0 8 = 0 ∨ 168 < bitsOf (g b) 0 8 then some 3 else none
  else none

def telRule (v : Val) (x b i j : Nat) : Option Nat :=
  let g := v.g
  if b = aTelSelSel 0 0 ∨ b = aTelSelFltLo 0 0 ∨ b = aTelSelFltHi 0 0 then
    let s := g (aTelSelSel i j)
    match selectCode i j (bitsOf s 0 16) (bitOf s 31) (g (aTelSelFltLo i j) + g (aTelSelFltHi i j) * 2 ^ 32) with
    | 0 => none
    | c => some c
  else if b = aTelMarkCfg 0 then if markRateOk (bitsOf x 0 5) then none else some 4
  else if b = aTelRingBaseLo ∨ b = aTelRingBaseHi ∨ b = aTelRingCfg then
    let c := g aTelRingCfg
    if bitOf c 31 ∧ (g aTelRingBaseLo % 65536 ≠ 0 ∨ rangeClash v.h g (ringRange v.h g) [spillRange g, fallbackRange g]) then some 5
    else if 512 < bitsOf c 16 10 ∨ (bitOf c 31 ∧ bitsOf c 0 16 = 0) then some 6
    else none
  else none

/-- Nominal voltage of a monitored rail in mV (R487). -/
def railNominal (m : Nat) : Nat := (([12000, 750, 800, 850, 1200, 1800, 1050, 500, 3300] : List Nat)[m]?).getD 3300

def pwrRule (v : Val) (x b i : Nat) : Option Nat :=
  let inR := fun (lo hi y : Nat) => decide (lo ≤ y) && decide (y ≤ hi)
  if b = aPwrMonLevels 0 then
    if bitsOf x 0 16 ≤ bitsOf x 16 16 ∨ bitsOf x 16 16 * 100 < railNominal i * 80 then some 1 else none
  else if b = aPwrPwcCfg0 0 then
    if inR 10 10000 (bitsOf x 0 16) && inR 1 100 (bitsOf x 16 8) && inR 1 (if i < 16 then 30 else 60) (bitsOf x 24 8) then none else some 2
  else if b = aPwrPwcCfg1 0 then
    if inR 1 255 (bitsOf x 0 8) && inR 1 255 (bitsOf x 8 8) && inR 1 1000 (bitsOf x 16 10) then none else some 2
  else if b = aPwrSentryCfg then if inR 1 1000 (bitsOf x 0 10) then none else some 3
  else if b = aPwrDozeCfg then
    if rangeClash v.h v.g (dozeRange v.g) [spillRange v.g, fallbackRange v.g, ringRange v.h v.g] then some 4 else none
  else if b = aPwrFeedShare then if 100 < bitsOf x 0 8 then some 5 else none
  else none

/-! ### The checks of a record and of a transaction (R119, R120) -/

/-- The block reason code of a record. -/
def blockRule (v : Val) (miss : List Needs) (a : Nat) : Option Nat :=
  let (b, i, j) := recRow a
  let x := v.g a
  match a / 0x100000 with
  | 1 => dspRecordBad v.h v.regs a
  | 2 => tpRule v.g b i
  | 3 => laneRule v.g b i
  | 4 => trkRule v.g b i
  | 5 => (tunRule v a b i j).orElse (fun _ => if miss.any (missedBy v b i j) then some 4 else none)
  | 6 => swcRule v b i
  | 7 => (tmgRule v (v.staged a) b i j).orElse (fun _ => if miss.any (missedBy v b i j) then some 4 else none)
  | 8 => (dspRecordBad v.h v.regs a).orElse (fun _ => memRule v b)
  | 9 => usbRule v a b i
  | 10 => (vdkRule v b i).orElse (fun _ => if miss.any (missedBy v b i j) then some 4 else none)
  | 12 => memRule v b
  | 13 => telRule v x b i j
  | 14 => if b = aFltClassCfg 0 ∧ bitsOf x 0 16 = 0 then some 1 else none
  | 15 => pwrRule v x b i
  | _ => none

/-- What is wrong with record n of a transaction: status and detail [15:0]. -/
def recordFault (v : Val) (bad : List Nat) (miss : List Needs) (excess : List (Nat × Nat)) (sums : List Nat) (n a : Nat) : Option (Status × Nat) :=
  if bad.contains n then some (.fault, 4)
  else if (touchedDocks v a).any (fun d => dockFrozen v.h d && decide (v.own ≠ some d)) then some (.denied, 1)
  else if refBad v a then some (.invalid, 3)
  else match blockRule v miss a with
    | some c => some (.invalid, 0x100 + c)
    | none => (poolBad v excess sums n a).map (fun c => (.invalid, c))

/-- The failure of the lowest record that fails (R120); a missing queue that no record explains is laid on record 0. -/
def validate (v : Val) (bad : List Nat) : Option (Status × Nat) :=
  let miss := missing v.h v.regs
  let excess := (List.range 4).flatMap (fun k => (overUsed v k).map (fun d => (k, d)))
  let sums := (List.range 4).filter (fun k => decide (poolOf v.h.part k < allowSum v.h v.regs k))
  let first := (List.range v.recs.length).findSome? (fun n =>
    match v.recs[n]? with
    | some e => (recordFault v bad miss excess sums n e.1).map (fun x => (x.1, 2 ^ 31 + n * 2 ^ 16 + x.2))
    | none => none)
  match first with
  | some x => some x
  | none => if miss = [] ∨ v.recs = [] then none else some (.invalid, 2 ^ 31 + 0x104)

end Sys2Proof.Machine
end

