-- ==== Sys2Proof/Machine/Commit.lean ====
section
/-!
DEFINITION. Acceptance, delivery and switch-over of transactions (R118-R136): validation, the vintage, the digests, and what a
switch-over sets off in the blocks (R123).
-/
namespace Sys2Proof.Machine

/-! ### Acceptance (R118-R121) -/

/-- The records of a submission as they stand when it is judged: those of an internal transaction follow its operation (R128). -/
def subRecs (h : Hub) (s : Sub) : Recs :=
  match s.src with
  | .internal (.destroy d force) => destroyRecs h d force
  | .internal (.move sp dst tid) =>
    if (endIn h (projected h) sp tid).isSome then moveRecs h (projected h) sp dst tid else s.recs
  | _ => s.recs

/-- Why a submission fails validation, if it does (R119, R120); bad lists records with an uncorrectable error. -/
def judge (h : Hub) (s : Sub) (bad : List Nat) : Option (Status × Nat) :=
  let moveGone : Bool := match s.src with
    | .internal (.move sp _ tid) => (endIn h (projected h) sp tid).isNone
    | _ => false
  if moveGone then some (.invalid, 2 ^ 31 + 3)
  else validate ⟨h, projected h, lay h.part (projected h) s.recs, s.recs, s.src, s.opens⟩ bad

/-- The records of a submission that stand in uncorrectable words of the staging store. -/
def badRecs (h : Hub) (s : Sub) : List Nat :=
  match s.src with
  | .handle n =>
    tget [] h.mst.badRec n.val ++
      (List.range s.recs.length).filter (fun i => fallbackBad h (8 + n.val / 2) (n.val % 2 * 32768 + 8 * i))
  | _ => []

/-- The handle of a submission becomes free (R104). -/
def dropHandle (h : Hub) (s : Sub) : Hub :=
  match s.src with
  | .handle n => markGone { h with
      txs := { h.txs with open_ := tdel h.txs.open_ n.val }
      mst := { h.mst with badRec := tset [] h.mst.badRec n.val [] } } n.val
  | _ => h

/-- Complete the command that waits for a submission. -/
def settleWaiter (h : Hub) (s : Sub) (st : Status) (value : Nat) : Hub :=
  match s.waiter with
  | some id => settle h id st value
  | none => h

/-- A transaction fails validation, or in delivery: it applies nothing and its command completes with the status (R119, R124, R137, R482). -/
def txFail (h : Hub) (s : Sub) (st : Status) (detail : Nat) : Hub :=
  let h := raise (dropHandle h s) 0x03 1 0 0
  match s.src with
  | .internal (.restore d) =>
    match h.dck.ops.find? (fun o => decide (o.dock = d) && !o.save) with
    | some op => restoreFail h op st detail
    | none => settleWaiter h s st detail
  | .internal (.destroy d _) => settleWaiter (setDockState h d 1) s st detail
  | _ => settleWaiter h s st detail

/-- Does a tick program wait? A run goes on when its implicit transaction is accepted (R97). -/
def waiterIsRun (h : Hub) (s : Sub) : Bool :=
  match s.waiter.bind (findCmd h) with
  | some c => c.tp.isSome
  | none => false

/-- Acceptance: the next place in the commit order and the core clock of R51 (R118). -/
def accept (h : Hub) (s : Sub) : Hub :=
  let run := waiterIsRun h s
  let open_ := match s.src with
    | .handle n => match tfind h.txs.open_ n.val with
      | some t => tput h.txs.open_ n.val { t with accepted := true, committing := false }
      | none => h.txs.open_
    | _ => h.txs.open_
  let h' := { h with txs := { h.txs with
    open_ := open_
    queue := h.txs.queue ++ [{ s with accClk := h.tim.coreClk, waiter := if run then none else s.waiter }] } }
  if run then settleWaiter h' s .ok 0 else h'

/-- Accepted transactions that have not yet applied. -/
def queueUse (h : Hub) : Nat := h.txs.queue.length + (if h.txs.delivering.isSome then 1 else 0)

/-- VALIDATION: the oldest submission is accepted or fails; with 64 transactions accepted it waits (R118-R121). -/
def validation (t : Nat) (bad : Option Nat) (h : Hub) : Hub :=
  let h := atClk h t
  match h.txs.submitted with
  | [] => h
  | s0 :: rest =>
    if 64 ≤ queueUse h then h
    else
      let s := { s0 with recs := subRecs h s0 }
      let h := { h with txs := { h.txs with submitted := rest } }
      match judge h s (bad.toList ++ badRecs h s) with
      | some (st, detail) => txFail h s st detail
      | none => accept h s

def execValidation (t : Nat) (badRecord : Option Nat) (s : State) : Ans := s.act (validation t badRecord)

/-! ### Delivery (R51, R122, R124, R125) -/

/-- Validate accepted transactions again, in commit order: those that fail complete, those that pass keep their place (R124). -/
def rejudge : List Sub → Hub → Hub
  | [], h => h
  | s :: rest, h =>
    match judge h s (badRecs h s) with
    | some (st, detail) => rejudge rest (txFail h s st detail)
    | none => rejudge rest { h with txs := { h.txs with queue := h.txs.queue ++ [s] } }

/-- P0 has ended its work, if it has none left: what waits for its end goes on (R46, R345). -/
def p0Ends (h : Hub) : Hub :=
  if p0Busy h then h else lateLatches { h with tim := { h.tim with p0End := max h.tim.coreClk h.txs.applyNext } }

/-- DELIVERY: in P0 the oldest accepted transaction old enough for this edge is delivered; none while the hub is in hold or the
digest is being recomputed (R45, R51, R122, R125, R132). -/
def delivery (bad : Option Nat) (h : Hub) : Hub :=
  match h.txs.queue with
  | [] => h
  | s :: rest =>
    if h.txs.delivering.isSome ∨ !p0Busy h then h
    else
      match (bad.toList ++ badRecs h s).filter (fun n => decide (n < s.recs.length)) with
      | [] => { h with txs := { h.txs with delivering := some s, queue := rest, applyFrom := max h.tim.coreClk h.txs.applyNext } }
      | n :: _ =>
        let h := { h with txs := { h.txs with queue := [] } }
        rejudge rest (txFail h s .fault (2 ^ 31 + n * 2 ^ 16 + 4))

def execDelivery (badRecord : Option Nat) (s : State) : Ans := s.act (fun h => p0Ends (delivery badRecord h))

/-! ### Digests (R130-R134) -/

/-- T(a, x): the AES-CMAC of address and value (R130). -/
def term (h : Hub) (a : Nat) (x : Word) : BitVec 128 :=
  BitVec.ofNat 128 (cmac h.txs.keyInUse.toNat (beBytes 4 a ++ beBytes 4 x.toNat))

/-- The value of a record in a configuration. -/
def recIn (h : Hub) (regs : Tab Word) (a : Nat) : Word := recVal h.part (a, tget (resetVal h.part a) regs a)

/-- The term of a record, zero at its reset value. -/
def termOf (h : Hub) (a : Nat) (x : Word) : BitVec 128 :=
  if x = recVal h.part (a, resetVal h.part a) then 0 else term h a x

/-- The digest of a switch-over (R131). -/
def digestAfter (h : Hub) (old new_ : Tab Word) (addrs : List Nat) : BitVec 128 :=
  addrs.foldl (fun dg a =>
    let o := recIn h old a
    let x := recIn h new_ a
    if o = x then dg else dg ^^^ termOf h a o ^^^ termOf h a x) h.txs.digest

/-- The digest of the hub's configuration from nothing (R130). -/
def digestWhole (h : Hub) : BitVec 128 :=
  h.regs.foldl (fun dg e => dg ^^^ termOf h e.1 (recVal h.part e)) 0

/-- The slice digest of a dock: terms in dock-0 form (R133). -/
def digestSlice (h : Hub) (d : Nat) : BitVec 128 :=
  ((slice h h.regs d).map (dockZero d)).foldl (fun dg e => dg ^^^ term h e.1 e.2) 0

/-- Docks whose slices hold a record of an address before or after. -/
def sliceDocks (h : Hub) (old new_ : Tab Word) (addrs : List Nat) : List Nat :=
  (addrs.flatMap (fun a => scopeDocks (recScope h old a) ++ scopeDocks (recScope h new_ a))).eraseDups

/-- Did the slice of a dock change? -/
def sliceChanged (h : Hub) (old : Tab Word) (d : Nat) : Bool := decide (slice h old d ≠ slice h h.regs d)

/-- The slice vintage and digest of a dock after a switch-over (R133, R134); a restore sets its own vintage. -/
def sliceAfter (old : Tab Word) (h : Hub) (d : Nat) : Hub :=
  let was := createdIn h old d
  let on := dockCreated h d
  let v := tget 0 h.txs.sliceVintage d
  let v := if was && !on then 0 else if !was && on then 1 else if sliceChanged h old d then v + 1 else v
  let dg := if was && !on then 0 else digestSlice h d
  { h with txs := { h.txs with
    sliceVintage := tset 0 h.txs.sliceVintage d v
    sliceDigest := tset 0 h.txs.sliceDigest d dg } }

/-! ### Consequences in the timebase, trunks and lanes (R40, R53, R60, R63, R167, R174, R188, R343) -/

/-- Addresses of one row among staged ones, by first index. -/
def stagedIx (addrs : List Nat) (b : Nat) : List Nat :=
  (addrs.filterMap (fun a => if (recRow a).1 = b then some (recRow a).2.1 else none)).eraseDups

/-- Is a port enabled for PTP with a zero clockIdentity (R60)? -/
def ptpNoId (h : Hub) (regs : Tab Word) : Bool :=
  decide (cfg h regs aTimPtpCfg % 2 ^ h.part.res.eth ≠ 0) && decide (cfg h regs aTimPtpIdLo = 0) && decide (cfg h regs aTimPtpIdHi = 0)

/-- A write of TIM_FRn_START: D starts from zero; a locked output realigns (R53, R343). -/
def frRestart (h : Hub) (n : Nat) : Hub :=
  let h := { h with tim := { h.tim with fr := tset ⟨none, 0⟩ h.tim.fr n { tget ⟨none, 0⟩ h.tim.fr n with d := 0 } } }
  if scanning h n ∧ bitOf (active h (aDspTctl n)) 5 then
    raise (setFlag { h with dsp := { h.dsp with frames := tset 0 h.dsp.frames n 0 } } (aDspStatus n) 25 false) 0x0A 4 n 0
  else h

/-- Staged timebase records (R40, R53, R56, R60, R63). When MODE becomes 1 a window begins; when it returns to 0 the rate is TIM_RATE_ADJ
again, and LOCKED, HOLDOVER and RANGE stay as they are (DESIGN CHOICE, notes/assumptions/130.md). -/
def timApply (old : Tab Word) (addrs : List Nat) (h : Hub) : Hub :=
  let h := if addrs.contains aTimTime1Cfg then rateFollow h else h
  let h := if flag h aTimTime1Cfg 0 && !bitOf (cfg h old aTimTime1Cfg) 0 then
      { h with tim := { h.tim with windowStart := h.tim.edges, inRange := 0 } }
    else h
  let h := (stagedIx addrs (aTimFrStartLo 0) ++ stagedIx addrs (aTimFrStartHi 0)).eraseDups.foldl frRestart h
  let h := (stagedIx addrs (aTimAudCfg 0)).foldl (fun h n =>
    { h with tim := { h.tim with aud := tset ⟨0, 0⟩ h.tim.aud n ⟨0, h.tim.edges⟩ } }) h
  if ptpNoId h h.regs && !ptpNoId h old then raise h 0x01 6 0 0 else h

/-- Lanes that LANE_MASK clears leave a running link by handshake, lanes that it sets start a return (R174); a link in training
starts again. -/
def laneMaskApply (old : Tab Word) (h : Hub) (n : Nat) : Hub :=
  let o := cfld h old (aTrkCtl n) 4 4
  let x := fld h (aTrkCtl n) 4 4
  let set := stripeSet h n
  let st := trkState h n
  let gone := set &&& (o &&& (15 ^^^ x))
  let left := set &&& (15 ^^^ gone)
  let come := (List.range 4).filter (fun k => bitOf x k && !bitOf o k && !bitOf set k && !laneRetired h (4 * n + k))
  if o = x ∨ st = 0 then h
  else if st ≤ 6 then toDetect h n
  else if gone ≠ 0 then
    if left = 0 then toDetect (linkDown h n) n
    else
      let h := (bitsSet 4 gone).foldl (fun h k => askChange h n false k none) (leaveIdle h n)
      come.foldl (fun h k => askChange h n true k none) h
  else if come = [] then h
  else come.foldl (fun h k => askChange h n true k none) (leaveIdle h n)

/-- A written TRK_CTL: EN, MAX_RATE and LANE_MASK (R164, R167, R174, R183). -/
def trkApply (old : Tab Word) (h : Hub) (n : Nat) : Hub :=
  let was := bitOf (cfg h old (aTrkCtl n)) 0
  let on := flag h (aTrkCtl n) 0
  let max_ := fld h (aTrkCtl n) 1 2
  if was && !on then trunkDisable h n
  else if !was && on then trunkEnable h n
  else if !on then h
  else
    let h := modTrk h n (fun t => { t with ceiling := max_ })
    if 7 ≤ trkState h n ∧ max_ < fld h (aTrkStatus n) 6 2 then toDetect (linkDown h n) n
    else laneMaskApply old h n

/-! ### Consequences in tunnels, keys and bridges (R180, R181, R223-R226, R354, R417, R419) -/

/-- Open units follow a moved end. -/
def moveSegs (h : Hub) (sp dst tid : Nat) : Hub :=
  let key := fun (k : Nat) => if k / 8 = endKey sp tid then endKey dst tid * 8 + k % 8 else k
  let seg := fun (s : Seg) => if s.egr = sp ∧ s.etid = tid then { s with egr := dst } else s
  { h with tun := { h.tun with segIn := h.tun.segIn.foldl (fun t e => tput t (key e.1) (seg e.2)) [] } }

/-- A trunk end has moved (R224 steps 2 and 3): the binding, open units and tags go with it. -/
def endMoved (h : Hub) (sp dst tid : Nat) : Hub :=
  match endAt h dst tid with
  | none => h
  | some e =>
    let h := moveSegs (moveBinding h sp tid dst) sp dst tid
    let h := { h with tun := { h.tun with tags := h.tun.tags.map (fun g =>
      if g.2.retSp = sp ∧ g.2.retTid = tid then (g.1, { g.2 with retSp := dst }) else g) } }
    notice (notice h sp 4 { e with sp := sp }) dst 3 e

/-- A closed end (R223, R226): its binding ends; completions toward it find no tunnel; a PCIe port gives up lock, prefetch and
handle. -/
def endClosed (h : Hub) (e : EndInfo) : Hub :=
  let h := if e.sp < 8 then notice h e.sp 2 e else h
  let h := unbindEnd h e.sp e.tid
  let h := discardTags h (fun g => decide (g.retSp = e.sp) && decide (g.retTid = e.tid))
  if 8 ≤ e.sp ∧ e.sp < 16 then
    let n := e.sp - 8
    detach (intxDrop (flushPf (lockRelease h n) n) e.dock n) n
  else h

/-- BAR2 holds the address bits of its size; with APER_LOG 0 it is absent (R246). -/
def aperApply (h : Hub) (d : Nat) : Hub :=
  cfgStore (cfgStore h d 1 6 (cfgStored h d 1 6 &&& cfgRw h d 1 6)) d 1 7 (cfgStored h d 1 7 &&& cfgRw h d 1 7)

/-- A slot that fails its check makes its end keyless (R419). -/
def keyCheck (h : Hub) (e : EndInfo) : Hub := if keyOk h e.kslot 2 then h else makeKeyless h e.sp e.tid

/-- An opened end (R221, R226, R241, R354). -/
def endOpened (h : Hub) (e : EndInfo) : Hub :=
  let h := if e.sp < 8 then notice h e.sp 1 e else h
  let h := if e.keyEn then keyCheck (bindEnd h e.sp e.tid none e.kslot) e else h
  let h := if 8 ≤ e.sp ∧ e.sp < 16 then attachPort h (e.sp - 8) else h
  if e.sp < 8 ∧ e.type = 2 then usbDefault h e.dock else h

/-- An end that stays open: bound anew by KEY.BIND, with another slot by another write, or with none (R180, R181, R226, R252). -/
def endKept (binds : List Nat) (h : Hub) (o e : EndInfo) : Hub :=
  let old := if o.keyEn then some o.kslot else none
  let bound := binds.contains (aTunT e.sp e.tid)
  if e.keyEn ∧ (bound ∨ o.kslot ≠ e.kslot ∨ !o.keyEn) then
    let h := if bound then bindEnd h e.sp e.tid old e.kslot else rebindEnd h e.sp e.tid old e.kslot
    keyCheck (if e.sp < 8 then notice h e.sp 5 e else h) e
  else if o.keyEn ∧ !e.keyEn then
    let h := unbindEnd h e.sp e.tid
    if e.sp < 8 then notice h e.sp 5 e else h
  else h

/-- Ends that move at a switch-over: from, to, TID (R224, R380). -/
def movedEnds (old : Tab Word) (addrs : List Nat) (src : TxSrc) (h : Hub) : List (Nat × Nat × Nat) :=
  match src with
  | .internal (.move sp dst tid) => [(sp, dst, tid)]
  | _ =>
    (stagedIx addrs (aVdkCfg 0)).flatMap (fun d =>
      let a := lowest (maskIn h old d)
      let b := lowest (dockMask h d)
      if a = b ∨ 8 ≤ a ∨ 8 ≤ b then []
      else ((endsIn old).filter (fun e => decide (e.sp = a) && decide (e.dock = d))).filterMap (fun e =>
        if (endAt h a e.tid).isNone ∧ (endAt h b e.tid).map (·.dock) = some d then some (a, b, e.tid) else none))

/-- Ends named by staged words that did not move, as they were and as they are. -/
def stagedEnds (old : Tab Word) (addrs : List Nat) (moved : List (Nat × Nat × Nat)) (h : Hub) : List (Option EndInfo × Option EndInfo) :=
  addrs.filterMap (fun a =>
    let (b, sp, tid) := recRow a
    if b ≠ aTunT 0 0 ∨ moved.any (fun m => decide (m.2.2 = tid) && (decide (m.1 = sp) || decide (m.2.1 = sp))) then none
    else some (endIn h old sp tid, endAt h sp tid))

/-- Is it the same end: open before and after, of one type and dock? -/
def sameEnd (o e : EndInfo) : Bool := decide (o.type = e.type) && decide (o.dock = e.dock)

def closeEnds (l : List (Option EndInfo × Option EndInfo)) (h : Hub) : Hub :=
  l.foldl (fun h p =>
    match p with
    | (some o, some e) => if sameEnd o e then h else endClosed h o
    | (some o, none) => endClosed h o
    | _ => h) h

/-- A moved end whose transaction also binds it (R180, R224). -/
def movedKept (old : Tab Word) (binds : List Nat) (h : Hub) (m : Nat × Nat × Nat) : Hub :=
  match endIn h old m.1 m.2.2, endAt h m.2.1 m.2.2 with
  | some o, some e => endKept binds h o e
  | _, _ => h

def openEnds (binds : List Nat) (l : List (Option EndInfo × Option EndInfo)) (h : Hub) : Hub :=
  l.foldl (fun h p =>
    match p with
    | (some o, some e) => if sameEnd o e then endKept binds h o e else endOpened h e
    | (none, some e) => endOpened h e
    | _ => h) h

/-! ### Consequences in the other blocks (R320, R356, R366, R377, R384, R456, R471, R472) -/

/-- Shapers and policers whose settings are staged: key, and the staged INIT. -/
def stagedShapers (recs : Recs) : List (Nat × Nat) :=
  let key := fun (a : Nat) =>
    let (b, i, j) := recRow a
    if aTmgQsIdle 0 ≤ b ∧ b < aTmgQsIdle 0 + 32 then some (shKeyQueue i)
    else if aTmgDsIdle 0 0 ≤ b ∧ b < aTmgDsIdle 0 0 + 32 then some (shKeyDock i j)
    else if aTmgPlIdle 0 ≤ b ∧ b < aTmgPlIdle 0 + 32 then some (shKeyPol i)
    else none
  ((recs.filterMap (fun e => key e.1)).eraseDups).map (fun k =>
    (k, match recs.find? (fun e => decide (e.1 = shAddr k + 16)) with
      | some e => if k < 0x20000 then bitsOf e.2.toNat 0 2 else 0
      | none => 0))

def shapersApply (recs : Recs) (h : Hub) : Hub :=
  (stagedShapers recs).foldl (fun h k => setShaper h k.1 (shaperApply (shSet h (shAddr k.1)) k.2 (shaper h k.1))) h

/-- Telemetry counters whose selection is staged start from 0, armed as they are (R455). -/
def telApply (addrs : List Nat) (h : Hub) : Hub :=
  ((addrs.filterMap (fun a =>
    let (b, i, j) := recRow a
    if b = aTelSelSel 0 0 ∨ b = aTelSelFltLo 0 0 ∨ b = aTelSelFltHi 0 0 then some (i, j) else none)).eraseDups).foldl (fun h e =>
      armOne (flag h (aTelCntHi e.1 e.2) 31) true e.1 h e.2) h

/-- Mark generators whose rate is staged start from the seed and their port. -/
def markApply (addrs : List Nat) (h : Hub) : Hub :=
  (stagedIx addrs (aTelMarkCfg 0)).foldl (fun h p =>
    if fld h (aTelMarkCfg p) 0 5 = 0 then h
    else
      let seed := (rd h aTelMarkSeed).toNat
      { h with tel := { h.tel with lfsr := tset 0 h.tel.lfsr p (BitVec.ofNat 32 ((if seed = 0 then 1 else seed) ^^^ p)) } }) h

/-- Bucket classes whose settings are staged: the leak counts from now; a bucket below the new warning level, or with THRESHOLD 0, is not
WARNED (R471, R472). -/
def bucketApply (addrs : List Nat) (h : Hub) : Hub :=
  (stagedIx addrs (aFltClassCfg 0)).foldl (fun h c =>
    let h := { h with flt := { h.flt with leakFrom := tset 0 h.flt.leakFrom c h.tim.edges } }
    let t := fld h (aFltClassCfg c) 16 16
    ((h.regs.map (·.1)).filter (fun a => decide ((recRow a).1 = aFltBkt 0 0) && decide ((recRow a).2.1 = c))).foldl
      (fun h a => if t = 0 ∨ fld h a 0 16 < (t + 1) / 2 then setFlag h a 16 false else h) h) h

/-- USB ports taken from a dock (R356). -/
def usbTaken (old : Tab Word) (addrs : List Nat) (h : Hub) : Hub :=
  (stagedIx addrs (aUsbPortAssign 0)).foldl (fun h u =>
    let o := cfg h old (aUsbPortAssign u)
    if bitOf o 31 ∧ usbAssign h u ≠ some (bitsOf o 0 6, bitsOf o 8 4) then usbReassign h u (bitsOf o 0 6, bitsOf o 8 4) else h) h

/-- USB ports given to a dock that had none: its virtual port reports a connection at once. -/
def usbGiven (old : Tab Word) (addrs : List Nat) (h : Hub) : Hub :=
  (stagedIx addrs (aUsbPortAssign 0)).foldl (fun h u =>
    match usbAssign h u with
    | some (d, v) =>
      if !bitOf (cfg h old (aUsbPortAssign u)) 31 ∧ usbSpeed h u ≠ 0 ∧ (tfind h.usb.resetFrom u).isNone then vpChange h d v 0 else h
    | none => h) h

/-- Buffers disabled or moved (R366). -/
def buffersApply (old : Tab Word) (addrs : List Nat) (h : Hub) : Hub :=
  (stagedIx addrs (aUsbEpmCtl 0) ++ stagedIx addrs (aUsbEpmOffset 0) ++ stagedIx addrs (aUsbEpmLength 0)).eraseDups.foldl (fun h b =>
    let same := [aUsbEpmCtl b, aUsbEpmOffset b, aUsbEpmLength b].all (fun a => decide (cfg h old a = (rd h a).toNat))
    if bitOf (cfg h old (aUsbEpmCtl b)) 31 && !same then
      bufDrain h b (cfld h old (aUsbEpmOffset b) 0 19) (cfld h old (aUsbEpmLength b) 0 19) else h) h

/-- Docks destroyed: what they held in the switch core is gone too (R384). -/
def docksGone (old : Tab Word) (addrs : List Nat) (h : Hub) : Hub :=
  (stagedIx addrs (aVdkCfg 0)).foldl (fun h d =>
    if createdIn h old d ∧ !dockCreated h d then
      let h := setMap (destroyed h d (maskIn h old d)) d 0 []
      setFlag { h with swc := { h.swc with fences := tdel h.swc.fences d, waiting := h.swc.waiting.filter (· ≠ d) } } (aSwcGrpStatus d) 30 false
    else h) h

/-- Docks created, but for one under a restore (R377), and docks whose mask changed (R300, R380). -/
def docksCome (old : Tab Word) (addrs : List Nat) (src : TxSrc) (h : Hub) : Hub :=
  (stagedIx addrs (aVdkCfg 0)).foldl (fun h d =>
    let was := createdIn h old d
    if !dockCreated h d then h
    else if !was then mapChange (if src = .internal (.restore d) then h else created h d) d
    else if maskIn h old d ≠ dockMask h d then mapChange h d else h) h

/-- Display records, and frame-start records that an output's timing follows (R126, R343); the demand is computed at every
switch-over (R346). -/
def displayApply (old : Tab Word) (addrs : List Nat) (h : Hub) : Hub :=
  if addrs.any (fun a => decide (a / 0x100000 = 8) || decide ((recRow a).1 = aTimFrCfg 0) || decide ((recRow a).1 = aTimFrPeriodLo 0) ||
      decide ((recRow a).1 = aTimFrPeriodHi 0)) then
    let r := dspTake h old addrs h.txs.vintage.toNat
    faults r.1 (r.2.map .train)
  else demandUpdate h

/-! ### Switch-over (R122, R123, R127, R128) -/

/-- Every consequence of applied records, but for the internal operation's own. `old` is the configuration before. -/
def consequences (old : Tab Word) (s : Sub) (h : Hub) : Hub :=
  let addrs := s.recs.map (·.1)
  let moved := movedEnds old addrs s.src h
  let ends := stagedEnds old addrs moved h
  let h := timApply old addrs h
  let h := (stagedIx addrs (aTrkCtl 0)).foldl (trkApply old) h
  let h := (stagedIx addrs (aLaneTxFfeOvr 0)).foldl ffeApply h
  let h := (stagedIx addrs (aTunHfCfg 0)).foldl aperApply h
  let h := bucketApply addrs (markApply addrs (telApply addrs (shapersApply s.recs h)))
  let h := buffersApply old addrs (usbTaken old addrs (closeEnds ends h))
  let h := docksCome old addrs s.src (docksGone old addrs h)
  let h := moved.foldl (fun h m => movedKept old s.binds (endMoved h m.1 m.2.1 m.2.2) m) h
  let h := usbGiven old addrs (openEnds s.binds ends h)
  displayApply old addrs h

/-- What an internal transaction's operation does at its switch-over (R128). The result of RACK.RESTORE is 0 by R88. -/
def finishOp (m : Mem) (h : Hub) (s : Sub) : Mem × Hub :=
  let v := h.txs.vintage.toNat
  match s.src with
  | .internal (.move sp dst tid) =>
    let mv : Move := ⟨sp, dst, tid, s.waiter.getD 0, h.tim.edges, h.swc.nextPkt, v, [], false, false⟩
    (m, { h with tun := { h.tun with moves := h.tun.moves ++ [mv] } })
  | .internal (.restore d) =>
    let r := restored m h d
    (r.1, settleWaiter r.2 s .ok 0)
  | .internal (.thaw d) => (m, settleWaiter (thawed h d) s .ok v)
  | _ =>
    let value := match s.waiter.bind (findCmd h) with
      | some c => match c.wait with
        | some (.tx _ (some x)) => x
        | _ => v
      | none => v
    (m, settleWaiter (dropHandle h s) s .ok value)

/-- Running docks whose slice changed, other than by their own creation or racking: VINTAGE goes to their event rings (R249). -/
def vintageEvents (old : Tab Word) (docks : List Nat) (src : TxSrc) (h : Hub) : Hub :=
  docks.foldl (fun h d =>
    let own := match src with
      | .internal (.restore e) => decide (e = d)
      | .internal (.thaw e) => decide (e = d)
      | _ => false
    if createdIn h old d && dockCreated h d && decide (dockState h d = 1) && !own && sliceChanged h old d then
      hfEvent h d 0x02 ((tget 0 h.txs.sliceVintage d).toNat % 2 ^ 32)
    else h) h

/-- The records become active; vintage, digest and slices follow in the same clock (R122, R127, R131, R133). -/
def applyRecs (h : Hub) (s : Sub) : Hub :=
  let old := h.regs
  let new_ := lay h.part old s.recs
  let addrs := s.recs.map (·.1)
  let h := { h with
    regs := new_
    txs := { h.txs with
      vintage := h.txs.vintage + 1
      digest := digestAfter h old new_ addrs
      delivering := none } }
  let h := (sliceDocks h old new_ addrs).foldl (sliceAfter old) (wr64 h aTrnAppliedTickLo (tickNo h))
  tally h 0x70 0x0702 1 none

/-- Records of a list bound for the block that receives the most of them (R122). -/
def busiestBlock (recs : Recs) : Nat :=
  (List.range 16).foldl (fun m b => max m (recs.filter (fun e => decide (e.1 / 0x100000 = b))).length) 0

/-- SWITCH_OVER, in the last clock of the apply (R122). -/
def switchOver (m : Mem) (h : Hub) : Mem × Hub :=
  match h.txs.delivering with
  | none => (m, h)
  | some s =>
    let h := runTo h (h.txs.applyFrom + 63 + busiestBlock s.recs)
    let h := { h with txs := { h.txs with applyNext := h.tim.coreClk + 1 } }
    let old := h.regs
    let h := applyRecs h s
    let docks := sliceDocks h old h.regs (s.recs.map (·.1))
    let r := finishOp m (consequences old s h) s
    (r.1, p0Ends (vintageEvents old docks s.src r.2))

def execSwitchOver (s : State) : Ans := s.actMem switchOver

/-! ### Recomputation of the digest (R132) -/

def execRekey (_port : Port) (s : State) : Ans := s.act rekeyStart

/-- REKEY_DONE: the digests are those under the key of the key registers. -/
def rekeyDone (h : Hub) : Hub :=
  if h.txs.rekeyFrom.isNone then h
  else
    let h := { h with txs := { h.txs with keyInUse := h.txs.keyRegs, rekeyFrom := none } }
    let h := { h with txs := { h.txs with digest := digestWhole h } }
    let h := (List.range h.part.res.docks).foldl (fun h d =>
      { h with txs := { h.txs with sliceDigest := tset 0 h.txs.sliceDigest d (digestSlice h d) } }) h
    raise h 0x03 3 0 0

def execRekeyDone (s : State) : Ans := s.act rekeyDone

end Sys2Proof.Machine
end

