-- ==== Sys2Proof/Machine/Dispatch.lean ====
section
/-!
DEFINITION. Which meaning each command has: one arm per constructor of Instr, in the order of Instr.
-/
namespace Sys2Proof.Machine

def exec (i : Instr) (s : State) : Host.Outcome State Fault Refusal :=
  match i with
  | .tickEdge clocks unfinished usb => Sys2Proof.Machine.execTickEdge clocks unfinished usb s
  | .harvesterLatch copyRunning badWord => Sys2Proof.Machine.execHarvesterLatch copyRunning badWord s
  | .eyeScanWindow lane counts => Sys2Proof.Machine.execEyeScanWindow lane counts s
  | .backgroundTest fails => Sys2Proof.Machine.execBackgroundTest fails s
  | .armStep port t => Sys2Proof.Machine.execArmStep port t s
  | .cancelStep port => Sys2Proof.Machine.execCancelStep port s
  | .frameStartInstant n => Sys2Proof.Machine.execFrameStartInstant n s
  | .timePulse n => Sys2Proof.Machine.execTimePulse n s
  | .codeFrame n => Sys2Proof.Machine.execCodeFrame n s
  | .disciplineWindow offset inputPresent => Sys2Proof.Machine.execDisciplineWindow offset inputPresent s
  | .sync t => Sys2Proof.Machine.execSync t s
  | .announce t => Sys2Proof.Machine.execAnnounce t s
  | .delayReq eth seqId requester t => Sys2Proof.Machine.execDelayReq eth seqId requester t s
  | .foreignAnnounce eth identity => Sys2Proof.Machine.execForeignAnnounce eth identity s
  | .ptpDiscard eth => Sys2Proof.Machine.execPtpDiscard eth s
  | .audioFeedback n => Sys2Proof.Machine.execAudioFeedback n s
  | .tokenSync trunk t => Sys2Proof.Machine.execTokenSync trunk t s
  | .tokenReq trunk token offset delay t => Sys2Proof.Machine.execTokenReq trunk token offset delay t s
  | .lowWordRead agent addr t => Sys2Proof.Machine.execLowWordRead agent addr t s
  | .registerWrite port addr value t => Sys2Proof.Machine.execRegisterWrite port addr value t s
  | .mmioShWrite port addr value t => Sys2Proof.Machine.execMmioShWrite port addr value t s
  | .crTailWrite port ring value => Sys2Proof.Machine.execCrTailWrite port ring value s
  | .ccHeadWrite port ring value => Sys2Proof.Machine.execCcHeadWrite port ring value s
  | .instructionBudget th => Sys2Proof.Machine.execInstructionBudget th s
  | .waitTimeout ring tag => Sys2Proof.Machine.execWaitTimeout ring tag s
  | .ringReset port ring => Sys2Proof.Machine.execRingReset port ring s
  | .ringResetDone ring => Sys2Proof.Machine.execRingResetDone ring s
  | .ccReset port ring => Sys2Proof.Machine.execCcReset port ring s
  | .runStop port => Sys2Proof.Machine.execRunStop port s
  | .runStart port => Sys2Proof.Machine.execRunStart port s
  | .tickProgramRun th => Sys2Proof.Machine.execTickProgramRun th s
  | .tpBudget th => Sys2Proof.Machine.execTpBudget th s
  | .mgmtLinkDown port => Sys2Proof.Machine.execMgmtLinkDown port s
  | .mgmtLinkUp link => Sys2Proof.Machine.execMgmtLinkUp link s
  | .semTakeRead port n => Sys2Proof.Machine.execSemTakeRead port n s
  | .semGiveWrite port n => Sys2Proof.Machine.execSemGiveWrite port n s
  | .semBreakWrite port mask => Sys2Proof.Machine.execSemBreakWrite port mask s
  | .nop th => Sys2Proof.Machine.execNop th s
  | .waitTick th => Sys2Proof.Machine.execWaitTick th s
  | .waitTickEnd ring tag => Sys2Proof.Machine.execWaitTickEnd ring tag s
  | .fence th => Sys2Proof.Machine.execFence th s
  | .fencePass ring tag => Sys2Proof.Machine.execFencePass ring tag s
  | .signal th => Sys2Proof.Machine.execSignal th s
  | .mov th => Sys2Proof.Machine.execMov th s
  | .alu th => Sys2Proof.Machine.execAlu th s
  | .br th => Sys2Proof.Machine.execBr th s
  | .haltMode0 th => Sys2Proof.Machine.execHaltMode0 th s
  | .haltMode1 th => Sys2Proof.Machine.execHaltMode1 th s
  | .haltMode2 th => Sys2Proof.Machine.execHaltMode2 th s
  | .csrRd th t => Sys2Proof.Machine.execCsrRd th t s
  | .csrWr th t => Sys2Proof.Machine.execCsrWr th t s
  | .csrRmw th t => Sys2Proof.Machine.execCsrRmw th t s
  | .txBegin th => Sys2Proof.Machine.execTxBegin th s
  | .txCommit th => Sys2Proof.Machine.execTxCommit th s
  | .txAbort th => Sys2Proof.Machine.execTxAbort th s
  | .txStatus th => Sys2Proof.Machine.execTxStatus th s
  | .validation t badRecord => Sys2Proof.Machine.execValidation t badRecord s
  | .lifetimeExpiry h => Sys2Proof.Machine.execLifetimeExpiry h s
  | .delivery badRecord => Sys2Proof.Machine.execDelivery badRecord s
  | .rekey port => Sys2Proof.Machine.execRekey port s
  | .sliceSelWrite port value => Sys2Proof.Machine.execSliceSelWrite port value s
  | .tunOpen th => Sys2Proof.Machine.execTunOpen th s
  | .tunClose th => Sys2Proof.Machine.execTunClose th s
  | .tunRoute th => Sys2Proof.Machine.execTunRoute th s
  | .tunMove th => Sys2Proof.Machine.execTunMove th s
  | .moveGraceEnd trunk tid => Sys2Proof.Machine.execMoveGraceEnd trunk tid s
  | .moveComplete trunk tid => Sys2Proof.Machine.execMoveComplete trunk tid s
  | .moveTimeout trunk tid => Sys2Proof.Machine.execMoveTimeout trunk tid s
  | .bwAllot th => Sys2Proof.Machine.execBwAllot th s
  | .shpSet th => Sys2Proof.Machine.execShpSet th s
  | .polSet th => Sys2Proof.Machine.execPolSet th s
  | .qMap th => Sys2Proof.Machine.execQMap th s
  | .dspLayer th => Sys2Proof.Machine.execDspLayer th s
  | .dspTiming th => Sys2Proof.Machine.execDspTiming th s
  | .dspCheck th => Sys2Proof.Machine.execDspCheck th s
  | .usbAssign th => Sys2Proof.Machine.execUsbAssign th s
  | .epmCarve th => Sys2Proof.Machine.execEpmCarve th s
  | .vdkCreate th => Sys2Proof.Machine.execVdkCreate th s
  | .vdkDestroy th => Sys2Proof.Machine.execVdkDestroy th s
  | .vdkResize th => Sys2Proof.Machine.execVdkResize th s
  | .rackFreeze th => Sys2Proof.Machine.execRackFreeze th s
  | .graceEnd dock => Sys2Proof.Machine.execGraceEnd dock s
  | .rackSave th => Sys2Proof.Machine.execRackSave th s
  | .saveComplete dock uncorr => Sys2Proof.Machine.execSaveComplete dock uncorr s
  | .rackRestore th => Sys2Proof.Machine.execRackRestore th s
  | .imageChecked dock uncorr => Sys2Proof.Machine.execImageChecked dock uncorr s
  | .rackThaw th => Sys2Proof.Machine.execRackThaw th s
  | .keyGraft th => Sys2Proof.Machine.execKeyGraft th s
  | .keyLoad th => Sys2Proof.Machine.execKeyLoad th s
  | .keyWrap th => Sys2Proof.Machine.execKeyWrap th s
  | .vaultOpComplete uncorr => Sys2Proof.Machine.execVaultOpComplete uncorr s
  | .keyKill th => Sys2Proof.Machine.execKeyKill th s
  | .keyBind th => Sys2Proof.Machine.execKeyBind th s
  | .cntSelect th => Sys2Proof.Machine.execCntSelect th s
  | .cntArm th => Sys2Proof.Machine.execCntArm th s
  | .markSet th => Sys2Proof.Machine.execMarkSet th s
  | .memCopy th => Sys2Proof.Machine.execMemCopy th s
  | .memFill th => Sys2Proof.Machine.execMemFill th s
  | .copyComplete ring tag uncorr => Sys2Proof.Machine.execCopyComplete ring tag uncorr s
  | .laneRetire th => Sys2Proof.Machine.execLaneRetire th s
  | .laneScan th => Sys2Proof.Machine.execLaneScan th s
  | .scanEnd lane => Sys2Proof.Machine.execScanEnd lane s
  | .laneLoop th => Sys2Proof.Machine.execLaneLoop th s
  | .patternClear port lane => Sys2Proof.Machine.execPatternClear port lane s
  | .resRestore th => Sys2Proof.Machine.execResRestore th s
  | .restoreTestEnd cls index pass => Sys2Proof.Machine.execRestoreTestEnd cls index pass s
  | .pwcOn th => Sys2Proof.Machine.execPwcOn th s
  | .pwcOff th => Sys2Proof.Machine.execPwcOff th s
  | .pwrStateActive th => Sys2Proof.Machine.execPwrStateActive th s
  | .pwrStateIdle th => Sys2Proof.Machine.execPwrStateIdle th s
  | .pwrStateDoze th => Sys2Proof.Machine.execPwrStateDoze th s
  | .pwrStateOff th => Sys2Proof.Machine.execPwrStateOff th s
  | .semTake th => Sys2Proof.Machine.execSemTake th s
  | .semGive th => Sys2Proof.Machine.execSemGive th s
  | .comma trunk k body mark => Sys2Proof.Machine.execComma trunk k body mark s
  | .commaTimeout trunk k => Sys2Proof.Machine.execCommaTimeout trunk k s
  | .staveReceive trunk header body wrong => Sys2Proof.Machine.execStaveReceive trunk header body wrong s
  | .replayTimer trunk => Sys2Proof.Machine.execReplayTimer trunk s
  | .staveTransmit trunk => Sys2Proof.Machine.execStaveTransmit trunk s
  | .ts1 trunk u0 u1 => Sys2Proof.Machine.execTs1 trunk u0 u1 s
  | .ts2 trunk u0 => Sys2Proof.Machine.execTs2 trunk u0 s
  | .eqReq trunk u0 => Sys2Proof.Machine.execEqReq trunk u0 s
  | .eqAck trunk u0 => Sys2Proof.Machine.execEqAck trunk u0 s
  | .eqDone trunk => Sys2Proof.Machine.execEqDone trunk s
  | .credit trunk u0 => Sys2Proof.Machine.execCredit trunk u0 s
  | .ready trunk => Sys2Proof.Machine.execReady trunk s
  | .trainingTimeout trunk => Sys2Proof.Machine.execTrainingTimeout trunk s
  | .lockWindowEnd trunk => Sys2Proof.Machine.execLockWindowEnd trunk s
  | .switchIdleEnd trunk => Sys2Proof.Machine.execSwitchIdleEnd trunk s
  | .recover trunk u0 => Sys2Proof.Machine.execRecover trunk u0 s
  | .idleTimer trunk => Sys2Proof.Machine.execIdleTimer trunk s
  | .idleReq trunk => Sys2Proof.Machine.execIdleReq trunk s
  | .idleAck trunk u0 => Sys2Proof.Machine.execIdleAck trunk u0 s
  | .fastExit trunk => Sys2Proof.Machine.execFastExit trunk s
  | .energyDetect lane => Sys2Proof.Machine.execEnergyDetect lane s
  | .tokenWake trunk => Sys2Proof.Machine.execTokenWake trunk s
  | .retireReq trunk u0 => Sys2Proof.Machine.execRetireReq trunk u0 s
  | .retireAck trunk u0 => Sys2Proof.Machine.execRetireAck trunk u0 s
  | .returnReq trunk u0 settled => Sys2Proof.Machine.execReturnReq trunk u0 settled s
  | .returnAck trunk u0 => Sys2Proof.Machine.execReturnAck trunk u0 s
  | .reqRepeat trunk => Sys2Proof.Machine.execReqRepeat trunk s
  | .stripeSwitch trunk => Sys2Proof.Machine.execStripeSwitch trunk s
  | .returnTimeout trunk => Sys2Proof.Machine.execReturnTimeout trunk s
  | .keyGraceEnd sp tid => Sys2Proof.Machine.execKeyGraceEnd sp tid s
  | .tapLimit lane => Sys2Proof.Machine.execTapLimit lane s
  | .laneHardFault lane => Sys2Proof.Machine.execLaneHardFault lane s
  | .tunnelPacket sp pkt => Sys2Proof.Machine.execTunnelPacket sp pkt s
  | .discardTimer tag => Sys2Proof.Machine.execDiscardTimer tag s
  | .cplTimeout tag => Sys2Proof.Machine.execCplTimeout tag s
  | .handleReturn h => Sys2Proof.Machine.execHandleReturn h s
  | .ethernetFrame eth frame fcsOk => Sys2Proof.Machine.execEthernetFrame eth frame fcsOk s
  | .stationAge h => Sys2Proof.Machine.execStationAge h s
  | .timeQuery trunk tid cookie t => Sys2Proof.Machine.execTimeQuery trunk tid cookie t s
  | .hello trunk u0 => Sys2Proof.Machine.execHello trunk u0 s
  | .fenceAck trunk u0 => Sys2Proof.Machine.execFenceAck trunk u0 s
  | .configRequest dock req => Sys2Proof.Machine.execConfigRequest dock req s
  | .deviceTlp p tlp => Sys2Proof.Machine.execDeviceTlp p tlp s
  | .doorbell dock k value => Sys2Proof.Machine.execDoorbell dock k value s
  | .evrCtlWrite dock value => Sys2Proof.Machine.execEvrCtlWrite dock value s
  | .evrBaseWrite dock high value => Sys2Proof.Machine.execEvrBaseWrite dock high value s
  | .evrHeadWrite dock value => Sys2Proof.Machine.execEvrHeadWrite dock value s
  | .mrdlk dock tlp => Sys2Proof.Machine.execMrdlk dock tlp s
  | .unlock dock reqId => Sys2Proof.Machine.execUnlock dock reqId s
  | .lockBreak p => Sys2Proof.Machine.execLockBreak p s
  | .prefetchExpiry p => Sys2Proof.Machine.execPrefetchExpiry p s
  | .pcieLinkUp p rate width => Sys2Proof.Machine.execPcieLinkUp p rate width s
  | .pcieLinkDown p => Sys2Proof.Machine.execPcieLinkDown p s
  | .packetEntry sp => Sys2Proof.Machine.execPacketEntry sp s
  | .barrelWrite q => Sys2Proof.Machine.execBarrelWrite q s
  | .barrelRead sp uncorr => Sys2Proof.Machine.execBarrelRead sp uncorr s
  | .fenceStart dock => Sys2Proof.Machine.execFenceStart dock s
  | .fenceEnd dock => Sys2Proof.Machine.execFenceEnd dock s
  | .fenceTimeout dock => Sys2Proof.Machine.execFenceTimeout dock s
  | .packetSelect sp => Sys2Proof.Machine.execPacketSelect sp s
  | .pauseFrame eth quanta => Sys2Proof.Machine.execPauseFrame eth quanta s
  | .pauseEnd eth => Sys2Proof.Machine.execPauseEnd eth s
  | .hpdRise o sink => Sys2Proof.Machine.execHpdRise o sink s
  | .hpdUnplug o => Sys2Proof.Machine.execHpdUnplug o s
  | .irqHpd o lostLock sink => Sys2Proof.Machine.execIrqHpd o lostLock sink s
  | .latchPoint o sink => Sys2Proof.Machine.execLatchPoint o sink s
  | .underrun o layer fetchError pixel => Sys2Proof.Machine.execUnderrun o layer fetchError pixel s
  | .checkWindow o w => Sys2Proof.Machine.execCheckWindow o w s
  | .safeClr port o => Sys2Proof.Machine.execSafeClr port o s
  | .auxNativeWrite port o value => Sys2Proof.Machine.execAuxNativeWrite port o value s
  | .auxNativeRead port o value => Sys2Proof.Machine.execAuxNativeRead port o value s
  | .auxI2cWrite port o value => Sys2Proof.Machine.execAuxI2cWrite port o value s
  | .auxI2cRead port o value => Sys2Proof.Machine.execAuxI2cRead port o value s
  | .auxReply o reply => Sys2Proof.Machine.execAuxReply o reply s
  | .reassignResetEnd u => Sys2Proof.Machine.execReassignResetEnd u s
  | .usbDevicePacket u pkt => Sys2Proof.Machine.execUsbDevicePacket u pkt s
  | .blockFree dock => Sys2Proof.Machine.execBlockFree dock s
  | .reservationExpiry dock => Sys2Proof.Machine.execReservationExpiry dock s
  | .getHubTime dock t => Sys2Proof.Machine.execGetHubTime dock t s
  | .getSlice dock => Sys2Proof.Machine.execGetSlice dock s
  | .usbDoorbell dock k value => Sys2Proof.Machine.execUsbDoorbell dock k value s
  | .getAudioCfg dock => Sys2Proof.Machine.execGetAudioCfg dock s
  | .functionReset dock => Sys2Proof.Machine.execFunctionReset dock s
  | .remoteWake dock vport => Sys2Proof.Machine.execRemoteWake dock vport s
  | .wakeReport dock vport => Sys2Proof.Machine.execWakeReport dock vport s
  | .hostResume dock vport => Sys2Proof.Machine.execHostResume dock vport s
  | .lcCmd port value => Sys2Proof.Machine.execLcCmd port value s
  | .fuseCmd port value => Sys2Proof.Machine.execFuseCmd port value s
  | .keyImport port value => Sys2Proof.Machine.execKeyImport port value s
  | .sramError site double => Sys2Proof.Machine.execSramError site double s
  | .cellarCorrection ch => Sys2Proof.Machine.execCellarCorrection ch s
  | .cellarUncorr ch addr row ppr => Sys2Proof.Machine.execCellarUncorr ch addr row ppr s
  | .patrolScrub corrected => Sys2Proof.Machine.execPatrolScrub corrected s
  | .cellarReady trained => Sys2Proof.Machine.execCellarReady trained s
  | .bucketError cls index cause => Sys2Proof.Machine.execBucketError cls index cause s
  | .bucketLeak cls => Sys2Proof.Machine.execBucketLeak cls s
  | .holdoffEnd port => Sys2Proof.Machine.execHoldoffEnd port s
  | .powerOnReset alwaysOnLimit => Sys2Proof.Machine.execPowerOnReset alwaysOnLimit s
  | .railFail m => Sys2Proof.Machine.execRailFail m s
  | .brownOut m => Sys2Proof.Machine.execBrownOut m s
  | .holdEnter m mv => Sys2Proof.Machine.execHoldEnter m mv s
  | .feedPresent x mv => Sys2Proof.Machine.execFeedPresent x mv s
  | .feedLost x => Sys2Proof.Machine.execFeedLost x s
  | .feedOver x => Sys2Proof.Machine.execFeedOver x s
  | .insertion c low => Sys2Proof.Machine.execInsertion c low s
  | .rampStart c => Sys2Proof.Machine.execRampStart c s
  | .trip c cause => Sys2Proof.Machine.execTrip c cause s
  | .powerGood c mv => Sys2Proof.Machine.execPowerGood c mv s
  | .retryEnd c => Sys2Proof.Machine.execRetryEnd c s
  | .removal c => Sys2Proof.Machine.execRemoval c s
  | .fetShort c => Sys2Proof.Machine.execFetShort c s
  | .dozeWake source index present => Sys2Proof.Machine.execDozeWake source index present s
  | .sentrySample sample => Sys2Proof.Machine.execSentrySample sample s
  | .thermalShutdown celsius => Sys2Proof.Machine.execThermalShutdown celsius s
  | .offExit source index => Sys2Proof.Machine.execOffExit source index s
  | .dockReset port value => Sys2Proof.Machine.execDockReset port value s
  | .trimRewrite port value => Sys2Proof.Machine.execTrimRewrite port value s
  | .trimDone verifyFails => Sys2Proof.Machine.execTrimDone verifyFails s
  | .setPtr ptr pec => Sys2Proof.Machine.execSetPtr ptr pec s
  | .write value pec => Sys2Proof.Machine.execWrite value pec s
  | .read pec => Sys2Proof.Machine.execRead pec s
  | .smbusAddressMatch addr => Sys2Proof.Machine.execSmbusAddressMatch addr s
  | .thermalWarn celsius => Sys2Proof.Machine.execThermalWarn celsius s
  | .pcieX1L0Timeout p => Sys2Proof.Machine.execPcieX1L0Timeout p s
  | .ethLinkDown e signalPresent => Sys2Proof.Machine.execEthLinkDown e signalPresent s
  | .ethLinkUp link => Sys2Proof.Machine.execEthLinkUp link s
  | .usbDeviceConnect u speed => Sys2Proof.Machine.execUsbDeviceConnect u speed s
  | .usbDeviceDisconnect u => Sys2Proof.Machine.execUsbDeviceDisconnect u s
  | .eqSettled trunk => Sys2Proof.Machine.execEqSettled trunk s
  | .p1Allot => Sys2Proof.Machine.execP1Allot s
  | .keyGenerationSweep => Sys2Proof.Machine.execKeyGenerationSweep s
  | .step => Sys2Proof.Machine.execStep s
  | .time1Holdover => Sys2Proof.Machine.execTime1Holdover s
  | .commandFetch => Sys2Proof.Machine.execCommandFetch s
  | .commandStart => Sys2Proof.Machine.execCommandStart s
  | .switchOver => Sys2Proof.Machine.execSwitchOver s
  | .rekeyDone => Sys2Proof.Machine.execRekeyDone s
  | .tagWaitEnd => Sys2Proof.Machine.execTagWaitEnd s
  | .poolWaitEnd => Sys2Proof.Machine.execPoolWaitEnd s
  | .spindleMatch => Sys2Proof.Machine.execSpindleMatch s
  | .relink => Sys2Proof.Machine.execRelink s
  | .lcChange => Sys2Proof.Machine.execLcChange s
  | .markAge => Sys2Proof.Machine.execMarkAge s
  | .railRetry => Sys2Proof.Machine.execRailRetry s
  | .holdExit => Sys2Proof.Machine.execHoldExit s
  | .wakeTimer => Sys2Proof.Machine.execWakeTimer s
  | .warmReset => Sys2Proof.Machine.execWarmReset s
  | .warmResetRelease => Sys2Proof.Machine.execWarmResetRelease s
  | .compatFuseBlown => Sys2Proof.Machine.execCompatFuseBlown s

end Sys2Proof.Machine
end

