-- ==== Sys2Proof/Safety.lean ====
section
/-!
DEFINITION. What claims are stated with: the canonical form of the cellar, and a thread that stands at an instruction.
-/
namespace Sys2Proof.Machine

/-- The cellar's canonical form: addresses strictly rising, no byte listed that is 0, what an unlisted byte reads as (R446). -/
def Memory.wf (m : Mem) : Bool := canonical 0 m.cellar

/-- Thread `th` of a running core stands before its next instruction, which has opcode `op` and the operands `w`; `c` is the
command or run it executes, and no word of it that an IMEM command reads has lost its bank (R69-R72, R77, R78, R430). -/
abbrev AtInstr (s : State) (th : Fin 4) (op : Nat) (c : Cmd) (w : IW) : Prop :=
  s.hub.runs = true ∧ threadCmd s.hub th = some c ∧ c.wait = none ∧ c.count < budget s.hub c ∧ c.started = true ∧
    fetchIW s.hub c c.pc = some w ∧ w.op = op ∧ w.bad = false ∧ (c.imem && imemBad s.hub c.pc w.words) = false

/-- The same for a command of a ring: an instruction that is long may not stand in a tick program (R97). -/
abbrev AtLong (s : State) (th : Fin 4) (op : Nat) (c : Cmd) (w : IW) : Prop := AtInstr s th op c w ∧ c.tp = none

/-- An S instruction with its checks passed: no transaction of its command was aborted or ended under it; its current transaction,
if it has one, is open, its owner's own, not committing, wide enough for what is touched, and has room for the records; without one,
no open transaction's scope meets what is touched (R80, R108, R109, R112, R113, R115). -/
def mayStage (h : Hub) (c : Cmd) (recs : Recs) (extra : Scope) : Bool :=
  let touch := (touches h (standing h c recs) recs).union extra
  !c.stale && !c.gone && (match c.curTx with
    | some n => match openTx h n.val with
      | some t => decide (t.owner = cmdPort h c) && !t.committing && touch.within t.scope &&
          decide ((stageRecs t.recs recs).length ≤ 4096)
      | none => false
    | none => decide (overlaps h touch none = 0))

/-- The hub after an S instruction: its records join the command's current transaction and it completes with its result; without one
they form an implicit transaction, whose apply it awaits with that result (R80, R113, R128). `opens` are the words that the
instruction opens or creates, `binds` those that it binds to a key slot. -/
def stagedBy (h : Hub) (c : Cmd) (w : IW) (recs : Recs) (result : Nat) (opens binds : List Nat) : Hub :=
  match c.curTx with
  | some n => match openTx h n.val with
    | some t =>
      let own := opens.map (fun a => (a, (t.recs.find? (fun e => decide (e.1 = a))).map (fun e => bitOf e.2.toNat 31)))
      let t := { t with recs := stageRecs t.recs recs, opens := t.opens ++ own, binds := t.binds ++ binds }
      settle { h with txs := { h.txs with open_ := tput h.txs.open_ n.val t } } c.id .ok result
    | none => h
  | none =>
    beginWait (submit h .implicit (cmdPort h c) recs (some c.id) (opens.map (fun a => (a, none))) binds) c w
      (.tx h.txs.nextId (some result))

/-- A CSR.WR or CSR.RMW with its checks passed: its writes name registers or windows, none is a ring register of the other port, no
TIM_ field is out of range, and its SH records may be staged once its other writes have acted (R64, R80, R93, R99). -/
def mayWriteCsr (m : Mem) (h : Hub) (th : Fin 4) (c : Cmd) (es : List (Nat × Nat)) : Bool :=
  let sh := es.filter (fun e => decide (shMask h.part e.1 ≠ 0))
  let plain := es.filter (fun e => decide (shMask h.part e.1 = 0))
  let recs : Recs := sh.map (fun e => (e.1, W e.2))
  let p := cmdPort h c
  let g := plain.foldl (fun h e => writeWord m h p (.thread th) e.1 e.2) h
  es.all (fun e => csrAddrOk h e.1 && !otherRing (cmdPort h c) e.1) && !sh.any (fun e => timRecordBad h (standing h c recs) e.1 e.2) &&
    (recs.isEmpty || mayStage g c recs Scope.empty)

/-- The hub after such writes: records of SH registers are staged, the others take effect at once, and the instruction completes with
its result; a write that ends its own command takes effect after that (R85, R93, R103). -/
def csrWritten (m : Mem) (h : Hub) (th : Fin 4) (c : Cmd) (w : IW) (es : List (Nat × Nat)) (result : Nat) : Hub :=
  let plain := es.filter (fun e => decide (shMask h.part e.1 = 0))
  let recs : Recs := (es.filter (fun e => decide (shMask h.part e.1 ≠ 0))).map (fun e => (e.1, W e.2))
  let p := cmdPort h c
  let act := fun h => plain.foldl (fun h e => writeWord m h p (.thread th) e.1 e.2) h
  if !recs.isEmpty then stagedBy (act h) c w recs result [] []
  else if plain.any (stopsSelf c) then act (settle h c.id .ok result)
  else settle (act h) c.id .ok result

/-- The commands that the always-on domain serves, whether or not the core runs: feeds, power channels, resets, wakes, the sideband
target, the sampled registers and the tick edge, which in Doze only samples and gives the time (R488-R514, R520). -/
def servedAlwaysOn : Instr → Bool
  | .tickEdge _ _ _ | .feedPresent _ _ | .feedLost _ | .feedOver _ | .insertion _ _ | .rampStart _ | .trip _ _ | .powerGood _ _
  | .retryEnd _ | .removal _ | .fetShort _ | .dozeWake _ _ _ | .sentrySample _ | .thermalShutdown _ | .offExit _ _ | .wakeTimer
  | .warmResetRelease | .powerOnReset _ | .railFail _ | .brownOut _ | .railRetry | .setPtr _ _ | .write _ _ | .read _
  | .smbusAddressMatch _ => true
  | _ => false

/-- The commands that may write the cellar: display surfaces, spilled barrels, telemetry, racking, wrapped keys, eye scans,
copies, Doze's image, restored channels, and the resets that fill it with zeros (R68, R446). -/
def mayWriteCellar : Instr → Bool
  | .switchOver | .saveComplete _ _ | .restoreTestEnd _ _ _ | .vaultOpComplete _ | .scanEnd _ | .copyComplete _ _ _ | .pwrStateDoze _
  | .barrelWrite _ | .relink | .harvesterLatch _ _ | .packetSelect _ | .powerOnReset _ | .brownOut _ | .railRetry | .offExit _ _
  | .wakeTimer | .smbusAddressMatch _ => true
  | _ => false

/-- The thread and opcode of a command that is an instruction of Turner's table, the three that access control space at an
instant apart (R88). -/
def turnerRow : Instr → Option (Fin 4 × Nat)
  | .nop th => some (th, 0x00)
  | .waitTick th => some (th, 0x01)
  | .fence th => some (th, 0x02)
  | .signal th => some (th, 0x03)
  | .mov th => some (th, 0x04)
  | .alu th => some (th, 0x05)
  | .br th => some (th, 0x06)
  | .haltMode0 th => some (th, 0x07)
  | .haltMode1 th => some (th, 0x07)
  | .haltMode2 th => some (th, 0x07)
  | .txBegin th => some (th, 0x10)
  | .txCommit th => some (th, 0x11)
  | .txAbort th => some (th, 0x12)
  | .txStatus th => some (th, 0x13)
  | .tunOpen th => some (th, 0x20)
  | .tunClose th => some (th, 0x21)
  | .tunRoute th => some (th, 0x22)
  | .tunMove th => some (th, 0x23)
  | .bwAllot th => some (th, 0x28)
  | .shpSet th => some (th, 0x29)
  | .polSet th => some (th, 0x2A)
  | .qMap th => some (th, 0x2B)
  | .dspLayer th => some (th, 0x30)
  | .dspTiming th => some (th, 0x31)
  | .dspCheck th => some (th, 0x32)
  | .usbAssign th => some (th, 0x38)
  | .epmCarve th => some (th, 0x39)
  | .vdkCreate th => some (th, 0x40)
  | .vdkDestroy th => some (th, 0x41)
  | .vdkResize th => some (th, 0x42)
  | .rackFreeze th => some (th, 0x44)
  | .rackSave th => some (th, 0x45)
  | .rackRestore th => some (th, 0x46)
  | .rackThaw th => some (th, 0x47)
  | .keyGraft th => some (th, 0x50)
  | .keyLoad th => some (th, 0x51)
  | .keyWrap th => some (th, 0x52)
  | .keyKill th => some (th, 0x53)
  | .keyBind th => some (th, 0x54)
  | .cntSelect th => some (th, 0x58)
  | .cntArm th => some (th, 0x59)
  | .markSet th => some (th, 0x5A)
  | .memCopy th => some (th, 0x60)
  | .memFill th => some (th, 0x61)
  | .laneRetire th => some (th, 0x68)
  | .laneScan th => some (th, 0x69)
  | .laneLoop th => some (th, 0x6A)
  | .resRestore th => some (th, 0x6B)
  | .pwcOn th => some (th, 0x70)
  | .pwcOff th => some (th, 0x71)
  | .semTake th => some (th, 0x78)
  | .semGive th => some (th, 0x79)
  | .pwrStateActive th => some (th, 0x72)
  | .pwrStateIdle th => some (th, 0x72)
  | .pwrStateDoze th => some (th, 0x72)
  | .pwrStateOff th => some (th, 0x72)
  | _ => none

/-- The opcodes of the long instructions that may not stand in a tick program (R79, R97). -/
def longOp (op : Nat) : Bool :=
  ([0x01, 0x02, 0x23, 0x41, 0x44, 0x45, 0x46, 0x47, 0x50, 0x51, 0x52, 0x60, 0x61, 0x68, 0x69, 0x6B, 0x70, 0x72] : List Nat).contains op

end Sys2Proof.Machine
end

