-- ==== Sys2Proof/WellFormed.lean ====
section
/-!
DEFINITION. Which commands are well formed: the bounds that the manual sets on the data of an event beyond what the types of
its operands say. No meaning asks for it.
-/
namespace Sys2Proof

/-- A tick takes 199,960 to 200,040 core clocks (R30). -/
def tickOk (clocks : Nat) : Bool := decide (199960 ≤ clocks) && decide (clocks ≤ 200040)

/-- An instant within a tick, in core clocks after its edge (R30). -/
def instantOk (t : Nat) : Bool := decide (t < 200040)

/-- An address of control space: 16 MiB of 32-bit words (R32, R34). -/
def controlAddrOk (a : Word) : Bool := decide (a.toNat < 2 ^ 24) && decide (a.toNat % 4 = 0)

/-- A tunnel packet carries at most 512 bytes, and a 16-byte tag exactly when it is encrypted (R153, R179). -/
def packetOk (p : TunPacket) : Bool :=
  decide (p.payload.length ≤ 512) && decide (p.gcmTag.length = if p.hdr.keyEn then 16 else 0)

/-- A transaction layer packet moves at most 4,096 bytes, and its data is as long as it says where it carries any. -/
def tlpOk (t : Tlp) : Bool :=
  decide (t.len ≤ 4096) && (decide (t.data = []) || decide (t.data.length = t.len))

/-- A SuperSpeed packet carries at most 1,024 bytes (R230). -/
def usbPacketOk (p : UsbPacket) : Bool := decide (p.data.length ≤ 1024)

/-- The outcome of a USB 2.0 transaction carries at most 1,024 bytes (R230). -/
def ttResultOk (r : TtResult) : Bool := decide (r.data.length ≤ 1024)

/-- The body of a stave is 31 units of 8 bytes (R150). -/
def staveOk (body : List (BitVec 64)) : Bool := decide (body.length = 31)

/-- An AUX reply brings at most 16 bytes (R331). -/
def auxOk : AuxReply → Bool
  | .ack data => decide (data.length ≤ 16)
  | .nack => true
  | .defer => true
  | .missing => true

/-- What the command itself must meet. -/
def Instr.wf : Instr → Bool
  | .tickEdge clocks _ usb => tickOk clocks && usb.all ttResultOk
  | .armStep _ t => instantOk t
  | .sync t => instantOk t
  | .announce t => instantOk t
  | .delayReq _ _ _ t => instantOk t
  | .tokenSync _ t => instantOk t
  | .tokenReq _ _ _ _ t => instantOk t
  | .timeQuery _ _ _ t => instantOk t
  | .getHubTime _ t => instantOk t
  | .lowWordRead _ addr t => controlAddrOk addr && instantOk t
  | .registerWrite _ addr _ t => controlAddrOk addr && instantOk t
  | .mmioShWrite _ addr _ t => controlAddrOk addr && instantOk t
  | .csrRd _ t => instantOk t
  | .csrWr _ t => instantOk t
  | .csrRmw _ t => instantOk t
  | .validation t _ => instantOk t
  | .staveReceive _ _ body _ => staveOk body
  | .tunnelPacket _ pkt => packetOk pkt
  | .deviceTlp _ tlp => tlpOk tlp
  | .mrdlk _ tlp => tlpOk tlp
  | .usbDevicePacket _ pkt => usbPacketOk pkt
  | .auxReply _ reply => auxOk reply
  | _ => true

end Sys2Proof
end

