-- ==== Sys2Proof/Certificates/Slice0/Obligations.lean ====
section
/-!
DEFINITION. The statements for the provers: what each command does and what the hub as a whole keeps.
-/
section
open Sys2Proof Sys2Proof.Machine

/-- For every command c and state s, a step of s with c at the front of its queue is exec of c on s with the queue's rest. On an
empty queue the block idles: that is the model's own choice (DESIGN CHOICE, notes/assumptions/2.md). -/
def Obligations.StepRunsTheCommandInFront : Prop :=
  (∀ (c : Instr) (s : State) (rest : List Instr), step { s with pending := c :: rest } = exec c { s with pending := rest }) ∧
  (∀ s : State, s.pending = [] → step s = .next s)

/-- Each engine-local instruction at a thread completes with its own effect: NOP with OK and 0; MOV and ALU write general
register d (g0 discards it) and give the value as result; BR jumps by OPERAND words from its own first word when its condition
holds and its target is the first word of an instruction, and goes on otherwise; HALT mode 0 ends the command with OK and g1;
HALT mode 1 stops Turner, then ends the command with OK and 0; SIGNAL with TARGET 0xF000 sends an MSI-X vector below 64 to the
owning port, or else a record to the event ring of a created dock that is not frozen.
Completion, that exec answers a next state with the command's own effect under hypotheses on the state and the operands
alone, is stated here for: nop, mov, alu, br, haltMode0, haltMode1, signal. -/
def Obligations.EngineLocalInstructions : Prop :=
  ∀ (s : State) (th : Fin 4) (c : Cmd) (w : IW),
    (AtInstr s th 0x00 c w → w.target = 0 → w.operand = 0 →
      exec (.nop th) s = .next (s.onHub fun h => settle h c.id .ok 0)) ∧
    (AtInstr s th 0x04 c w → onlyBits w.target 0x801F = true →
      exec (.mov th) s = .next (s.onHub fun h =>
        let v := if bitOf w.target 15 then w.x 0 else if w.ind then w.src else sext32 w.operand
        let c := setGreg c (w.target % 32) v
        settle (putCmd h c) c.id .ok (greg c (w.target % 32)))) ∧
    (AtInstr s th 0x05 c w → onlyBits w.target 0x71F = true →
      exec (.alu th) s = .next (s.onHub fun h =>
        let d := w.target % 32
        let b := if w.ind then w.src else sext32 w.operand
        let c := setGreg c d (alu (bitsOf w.target 8 3) (greg c d) b)
        settle (putCmd h c) c.id .ok (greg c d))) ∧
    (AtInstr s th 0x06 c w → onlyBits w.target 0x71F = true →
      brTaken (bitsOf w.target 8 3) (greg c (w.target % 32)) c.last = some false →
      exec (.br th) s = .next (s.onHub fun h => settle h c.id .ok 0)) ∧
    (AtInstr s th 0x06 c w → onlyBits w.target 0x71F = true →
      brTaken (bitsOf w.target 8 3) (greg c (w.target % 32)) c.last = some true →
      ∀ t : Nat, (t : Int) = (c.pc : Int) + signed w.operand 32 → (if c.imem then c.base else 0) ≤ t → t < cmdEnd c →
        firstWord s.hub c t 32768 (if c.imem then c.base else 0) = true →
        exec (.br th) s = .next (s.onHub fun h => settleTo h c.id .ok 0 (some t))) ∧
    (AtInstr s th 0x07 c w → w.target = 0 → w.operand = 0 →
      exec (.haltMode0 th) s = .next (s.onHub fun h => finish h { c with count := c.count + 1 } .ok (greg c 1))) ∧
    (AtInstr s th 0x07 c w → w.target = 0 → w.operand = 1 → c.tp = none →
      exec (.haltMode1 th) s = .next (s.onHub fun h => finish (stopRun h (some c.id)) c .ok 0)) ∧
    (AtInstr s th 0x03 c w → w.target = 0xF000 → w.operand < 64 →
      exec (.signal th) s = .next (s.onHub fun h => settle (sendMsix h (cmdPort h c) w.operand) c.id .ok 0)) ∧
    (AtInstr s th 0x03 c w → w.target < s.hub.part.res.docks → dockCreated s.hub w.target = true →
      (dockState s.hub w.target < 2 ∨ 5 < dockState s.hub w.target) → w.target ≠ 0xF000 →
      exec (.signal th) s = .next (s.onHub fun h => settle (hfEvent h w.target 1 w.operand) c.id .ok 0))

/-- WAIT.TICK begins a wait of OPERAND edges and completes with the tick number once they have passed within the limit of
TRN_CMD_TIMEOUT; FENCE with no condition passes at once, else waits, and passes with the vintage when its conditions hold. A wait
past the limit ends its command with TIMEOUT (that it does so under CONT too is the model's reading, notes/assumptions/11.md).
Completion, that exec answers a next state with the command's own effect under hypotheses on the state and the operands
alone, is stated here for: waitTick, waitTickEnd, fence, fencePass, waitTimeout. -/
def Obligations.WaitsAndFences : Prop :=
  ∀ (s : State) (th : Fin 4) (c : Cmd) (w : IW) (r : Fin 8) (tag : BitVec 8),
    (AtLong s th 0x01 c w → w.target = 0 → 0 < w.operand → w.operand ≤ 65535 →
      exec (.waitTick th) s = .next (s.onHub fun h => beginWait h c w (.tick w.operand h.tim.edges))) ∧
    (∀ n from_, s.hub.runs = true → findTag s.hub r.val tag = some c → c.wait = some (.tick n from_) →
      n ≤ edgesSince s.hub from_ → n ≤ waitLimit s.hub →
      exec (.waitTickEnd r tag) s = .next (s.onHub fun h => settle h c.id .ok (tickNo h))) ∧
    (AtLong s th 0x02 c w → w.target = 0 → w.operand = 0 →
      exec (.fence th) s = .next (s.onHub fun h => settle h c.id .ok h.txs.vintage.toNat)) ∧
    (AtLong s th 0x02 c w → w.target = 0 → 0 < w.operand → w.operand < 8 →
      exec (.fence th) s = .next (s.onHub fun h => beginWait h c w
        (.fence (bitOf w.operand 0) (bitOf w.operand 1) (bitOf w.operand 2) c.id h.txs.nextId h.tim.edges))) ∧
    (∀ ring port applied seq upto from_, s.hub.runs = true → findTag s.hub r.val tag = some c →
      c.wait = some (.fence ring port applied seq upto from_) → fenceOpen s.hub c ring port applied seq upto = true →
      edgesSince s.hub from_ ≤ waitLimit s.hub →
      exec (.fencePass r tag) s = .next (s.onHub fun h => settle h c.id .ok h.txs.vintage.toNat)) ∧
    (∀ n from_, s.hub.runs = true → findTag s.hub r.val tag = some c → c.wait = some (.tick n from_) →
      waitLimit s.hub + 1 ≤ edgesSince s.hub from_ → waitLimit s.hub < n →
      exec (.waitTimeout r tag) s = .next (s.onHub fun h => finishBad h c .timeout c.pc 0)) ∧
    (∀ ring port applied seq upto from_, s.hub.runs = true → findTag s.hub r.val tag = some c →
      c.wait = some (.fence ring port applied seq upto from_) → waitLimit s.hub + 1 ≤ edgesSince s.hub from_ →
      exec (.waitTimeout r tag) s = .next (s.onHub fun h => finishBad h c .timeout c.pc 0))

/-- COMMAND_FETCH takes a complete command of the first ring in rotating order that may be served; COMMAND_START starts the first
startable command on the lowest free thread; a tail or head write of a port's own ring moves its pointer; a command that has used
65,536 instructions, or a run that has used BUDGET, ends with TIMEOUT; RING_RESET, CC_RESET and the end of a reset act on the rings
of the port; RUN 0 and 1 stop and start Turner; at the start point of a tick, once P0 is over, the programs of a thread fall due
and the lowest pending one begins on its free thread. A command whose words lie in a fallback copy that has lost them completes
FAULT.
Completion, that exec answers a next state with the command's own effect under hypotheses on the state and the operands
alone, is stated here for: commandFetch, commandStart, crTailWrite, ccHeadWrite, instructionBudget, tpBudget, ringReset,
ringResetDone, ccReset, runStop, runStart, tickProgramRun. -/
def Obligations.CommandsStartAndStop : Prop :=
  ∀ s : State, s.hub.runs = true →
    (∀ (g : Hub) (r : Nat), g = (List.range 8).foldl checkHeader s.hub →
      ((List.range 8).map (fun i => (g.trn.lastRing + 1 + i) % 8)).find? (fetchable g) = some r →
      exec .commandFetch s = .next (s.onHub fun _ => if ringWordsBad g r then fetchFault g r else fetchFrom g r)) ∧
    (∀ (c : Cmd) (t : Fin 4), flag s.hub aTrnCtl 0 = true → startable s.hub = some c → freeThread s.hub = some t →
      exec .commandStart s = .next (s.onHub fun h => startOn h c t)) ∧
    (∀ (p : Port) (r : Fin 8) (v : Word), ringPort r.val = p →
      exec (.crTailWrite p r v) s = .next (s.onHub fun h => checkHeader (setFld h (aTrnCrTail r.val) 0 11 v.toNat) r.val)) ∧
    (∀ (p : Port) (r : Fin 8) (v : Word), ringPort r.val = p →
      exec (.ccHeadWrite p r v) s = .next (s.onHub fun h => drainHeld h.trn.cmds.length (setFld h (aTrnCcHead r.val) 0 10 v.toNat) r.val)) ∧
    (∀ (th : Fin 4) (c : Cmd), threadCmd s.hub th = some c → c.wait = none → c.tp = none → 65536 ≤ c.count →
      exec (.instructionBudget th) s = .next (s.onHub fun h => finishBad h c .timeout c.pc 0)) ∧
    (∀ (th : Fin 4) (c : Cmd) (n : Fin 8), threadCmd s.hub th = some c → c.wait = none → c.tp = some n →
      fld s.hub (aTrnTpStart n.val) 16 16 ≤ c.count →
      exec (.tpBudget th) s = .next (s.onHub fun h => finishBad (raise h 0x02 3 0 0) c .timeout c.pc 0)) ∧
    (∀ (p : Port) (r : Fin 8), ringPort r.val = p →
      exec (.ringReset p r) s = .next (s.onHub fun h =>
        let g := setFlag h (aTrnCrCtl r.val) 1 true
        let g := wr g (aTrnCrHead r.val) (rd g (aTrnCrTail r.val))
        ((g.trn.cmds.filter (fun c => decide (c.ring = r.val) && c.tp.isNone)).map (·.id)).foldl abortCmd g)) ∧
    (∀ r : Fin 8, flag s.hub (aTrnCrCtl r.val) 1 = true → ringOutstanding s.hub r.val = 0 →
      exec (.ringResetDone r) s = .next (s.onHub fun h =>
        setFlag (wr (wr (wr h (aTrnCrHead r.val) 0) (aTrnCrTail r.val) 0) (aTrnCrStatus r.val) 0) (aTrnCrCtl r.val) 1 false)) ∧
    (∀ (p : Port) (r : Fin 8), ringPort r.val = p → ringOutstanding s.hub r.val = 0 →
      exec (.ccReset p r) s = .next (s.onHub fun h => wr (wr h (aTrnCcTail r.val) (W 0x8000)) (aTrnCcHead r.val) 0)) ∧
    (∀ p : Port, exec (.runStop p) s = .next (s.onHub fun h => stopRun h none)) ∧
    (∀ p : Port, exec (.runStart p) s = .next (s.onHub fun h => setFlag h aTrnCtl 0 true)) ∧
    (∀ (th : Fin 4) (g : Hub) (n : Nat), flag s.hub aTrnCtl 0 = true → p0Busy s.hub = false →
      s.hub.trn.cmds.any (fun c => decide (c.thread = some th)) = false →
      g = (let r := runTo s.hub (startPoint s.hub)
        if tget 0 r.trn.tpEdge th.val < r.tim.edges then
          (if startPoint r < tget 0 r.trn.leftAt th.val then tpPassed r th else tpStartPoint r th)
        else r) →
      g.trn.cmds.any (fun c => decide (c.thread = some th)) = false →
      (List.range 8).find? (fun n => bitOf g.trn.tpPending.toNat n && flag g (aTrnTpCfg n) 0 &&
        decide (fld g (aTrnTpCfg n) 1 2 = th.val)) = some n →
      exec (.tickProgramRun th) s = .next (s.onHub fun _ => tpBegin g th n))

/-- The ring registers belong to the ring's own port: tail and head writes and resets by the other port change nothing. -/
def Obligations.OtherPortsRingsStay : Prop :=
  ∀ (s : State) (p : Port) (r : Fin 8) (v : Word), ringPort r.val ≠ p →
    exec (.crTailWrite p r v) s = .next s ∧ exec (.ccHeadWrite p r v) s = .next s ∧ exec (.ringReset p r) s = .next s ∧
      exec (.ccReset p r) s = .next s

/-- A free semaphore is taken by the port that asks, which reads 1; the owner reads 1 again and the other port 0; only the owner
gives it back, and giving a free one succeeds; SEM_BREAK_WRITE frees the semaphores of a mask; a management link that goes down
frees those of its port, and one that comes up, at whichever of its rates, sends each vector it held once and the message of the
fault log where one is due. The instruction forms answer the same as results: SEM.GIVE of another port's semaphore is DENIED, and
of a free one OK.
Completion, that exec answers a next state with the command's own effect under hypotheses on the state and the operands
alone, is stated here for: semTakeRead, semGiveWrite, semBreakWrite, mgmtLinkDown, mgmtLinkUp, semTake, semGive. -/
def Obligations.SemaphoresAndManagementLinks : Prop :=
  ∀ s : State, s.hub.runs = true →
    (∀ (p : Port) (n : Fin 32), tfind s.hub.trn.sem n.val = none →
      exec (.semTakeRead p n) s = .next (s.onHub fun h =>
        send { h with trn := { h.trn with sem := tput h.trn.sem n.val p } } (.data (.port p) (aTrnSemTake n.val) 1))) ∧
    (∀ (p o : Port) (n : Fin 32), tfind s.hub.trn.sem n.val = some o →
      exec (.semTakeRead p n) s = .next (s.onHub fun h =>
        send h (.data (.port p) (aTrnSemTake n.val) (if o = p then 1 else 0)))) ∧
    (∀ (p o : Port) (n : Fin 32), tfind s.hub.trn.sem n.val = some o →
      exec (.semGiveWrite p n) s = .next (s.onHub fun h =>
        if o = p then { h with trn := { h.trn with sem := tdel h.trn.sem n.val } } else h)) ∧
    (∀ (p : Port) (mask : Word), exec (.semBreakWrite p mask) s = .next (s.onHub fun h => breakSems h (fun n _ => bitOf mask.toNat n))) ∧
    (∀ (p : Port) (n : Fin 32), tfind s.hub.trn.sem n.val = none → exec (.semGiveWrite p n) s = .next s) ∧
    (∀ p : Port, exec (.mgmtLinkDown p) s = .next (s.onHub fun h =>
      breakSems (laneTo (setMgmt h p false) (96 + Port.toNat p) 0) (fun _ o => decide (o = p)))) ∧
    (∀ (p : Port) (rate : BitVec 4) (g : Hub),
      g = (let r := max 1 (min 4 rate.toNat)
        let l := 96 + Port.toNat p
        laneUp (if 3 ≤ r then partnerFfe s.hub l else s.hub) l (mgmtBaud r) false) →
      exec (.mgmtLinkUp ⟨p, rate⟩) s = .next (s.onHub fun _ =>
        let held := match p with
          | .m0 => g.trn.heldVec0.toNat
          | .m1 => g.trn.heldVec1.toNat
        let n := Port.toNat p
        let up := (bitsSet 64 held).foldl (fun h v => send h (.msix p v)) (match p with
          | .m0 => { g with trn := { g.trn with linkUp0 := true, heldVec0 := 0 } }
          | .m1 => { g with trn := { g.trn with linkUp1 := true, heldVec1 := 0 } })
        if tget false up.flt.due n && !tget false up.flt.holdoff n then
          fltMessage { up with flt := { up.flt with due := tset false up.flt.due n false } } p
        else up)) ∧
    (∀ (th : Fin 4) (c : Cmd) (w : IW), AtInstr s th 0x78 c w → w.target < 32 → w.operand = 0 →
      exec (.semTake th) s = .next (s.onHub fun h =>
        settle (semTake h (cmdPort h c) w.target).1 c.id .ok (semTake h (cmdPort h c) w.target).2)) ∧
    (∀ (th : Fin 4) (c : Cmd) (w : IW), AtInstr s th 0x79 c w → w.target < 32 → w.operand = 0 →
      tfind s.hub.trn.sem w.target = some (cmdPort s.hub c) →
      exec (.semGive th) s = .next (s.onHub fun h =>
        settle { h with trn := { h.trn with sem := tdel h.trn.sem w.target } } c.id .ok 0)) ∧
    (∀ (th : Fin 4) (c : Cmd) (w : IW), AtInstr s th 0x79 c w → w.target < 32 → w.operand = 0 →
      tfind s.hub.trn.sem w.target = none →
      exec (.semGive th) s = .next (s.onHub fun h => settle h c.id .ok 0)) ∧
    (∀ (th : Fin 4) (c : Cmd) (w : IW), AtInstr s th 0x79 c w → w.target < 32 → w.operand = 0 →
      tfind s.hub.trn.sem w.target = some (portOther (cmdPort s.hub c)) →
      exec (.semGive th) s = .next (s.onHub fun h => settle h c.id .denied 0))

/-- TX.BEGIN opens a transaction of its scope under the fixed or the lowest free handle, makes it the command's current one and
answers the handle; one whose scope meets an open transaction's is CONFLICT with the mask of those handles. TX.COMMIT of an empty
transaction frees the handle and answers the vintage, or 0 in a tick program, of another submits it and waits, and under a current transaction that was aborted it
completes ABORTED; TX.ABORT drops records and scope; TX.STATUS
reads state, owner and record count; a lifetime that ends aborts the transaction and sets EXPIRED.
Completion, that exec answers a next state with the command's own effect under hypotheses on the state and the operands
alone, is stated here for: txBegin, txCommit, txAbort, txStatus, lifetimeExpiry. -/
def Obligations.TransactionInstructions : Prop :=
  ∀ (s : State) (th : Fin 4) (c : Cmd) (w : IW),
    (∀ (sc : Scope) (n : Nat), AtInstr s th 0x10 c w →
      sc = ⟨BitVec.ofNat 64 (w.x 0), BitVec.ofNat 24 (bitsOf (w.x 1) 0 24), BitVec.ofNat 8 (bitsOf (w.x 1) 24 8), bitOf (w.x 1) 32⟩ →
      w.target = 0 → w.operand < 2 ^ 20 → w.x 1 < 2 ^ 33 → sc.isEmpty = false → scopePresent s.hub.part.res sc = true →
      (if bitOf w.operand 19 then (if (tfind s.hub.txs.open_ (w.o 16 3)).isNone then some (w.o 16 3) else none)
        else freeHandle s.hub) = some n →
      (overlaps s.hub sc none = 0 →
        exec (.txBegin th) s = .next (s.onHub fun h =>
          let t : Tx := ⟨cmdPort h c, sc, h.tim.edges, w.o 0 16, [], false, false, [], []⟩
          let g := { h with txs := { h.txs with open_ := tput h.txs.open_ n t }
                            mst := { h.mst with badRec := tset [] h.mst.badRec n [] } }
          settle (putCmd g { c with curTx := some (Fin.ofNat 8 n), stale := false, gone := false }) c.id .ok n)) ∧
      (overlaps s.hub sc none ≠ 0 →
        exec (.txBegin th) s = .next (s.onHub fun h => settle h c.id .conflict (overlaps h sc none)))) ∧
    (∀ (n : Nat) (t : Tx), AtInstr s th 0x11 c w → w.operand = 0 → (w.target < 8 ∨ w.target = 0xF000 ∧ c.stale = false) →
      txTarget c w.target = some n → tfind s.hub.txs.open_ n = some t →
      t.owner = cmdPort s.hub c → t.accepted = false → t.committing = false →
      (t.recs = [] →
        exec (.txCommit th) s = .next (s.onHub fun h =>
          settle { putCmd h (dropCurrent c n) with txs := { h.txs with open_ := tdel h.txs.open_ n } } c.id .ok
            (if c.tp.isSome then 0 else h.txs.vintage.toNat))) ∧
      (t.recs ≠ [] →
        exec (.txCommit th) s = .next (s.onHub fun h =>
          let g := putCmd h (dropCurrent c n)
          let g := { g with txs := { h.txs with open_ := tput h.txs.open_ n { t with committing := true } } }
          beginWait (submit g (.handle (Fin.ofNat 8 n)) t.owner t.recs (some c.id) t.opens t.binds) (dropCurrent c n) w
            (.tx h.txs.nextId none)))) ∧
    (AtInstr s th 0x11 c w → w.operand = 0 → w.target = 0xF000 → c.stale = true →
      exec (.txCommit th) s = .next (s.onHub fun h => settle (putCmd h { c with stale := false, curTx := none }) c.id .aborted 0)) ∧
    (∀ (n : Nat) (t : Tx), AtInstr s th 0x12 c w → w.operand < 2 → (w.target < 8 ∨ w.target = 0xF000) →
      txTarget c w.target = some n → tfind s.hub.txs.open_ n = some t →
      t.accepted = false → (t.owner = cmdPort s.hub c ∨ w.operand = 1) →
      exec (.txAbort th) s = .next (s.onHub fun h => settle (abortTx (putCmd h (dropCurrent c n)) n) c.id .ok 0)) ∧
    (AtInstr s th 0x13 c w → w.target < 8 → w.operand = 0 →
      exec (.txStatus th) s = .next (s.onHub fun h => settle h c.id .ok (txStatus h w.target))) ∧
    (∀ (n : Fin 8) (t : Tx), s.hub.runs = true → openTx s.hub n.val = some t → t.life ≠ 0 → t.life ≤ edgesSince s.hub t.lifeStart →
      exec (.lifetimeExpiry n) s = .next (s.onHub fun h => raise (abortTx h n.val) 0x03 0 0 0))


/-- TICK_EDGE, at a clock at which the edge may come (R30), lets the clocks of the tick pass, advances hub time by 125,000 ns and
TIM_EDGES by 1, suspends the work that it finds unfinished, and starts the USB frames of the edge; lanes adapt, patterns are checked
and the cellar serves over the tick that ends. In Doze and under a warm reset it only passes time; at the edge after Doze entry the
hub is in Doze. ARM_STEP takes a target that is a multiple of 125,000 ns, once armed leaves it armed, and else sets REJECT;
CANCEL_STEP clears ARM. STEP, when due, sets hub time to its target with fraction 0, tells open time tunnels and event rings, and
clears ARM; a target that is no longer a multiple is rejected. FRAME_START_INSTANT: reference n takes its next instant within the
tick and tells the docks that own an enabled layer on its output.
Completion, that exec answers a next state with the command's own effect under hypotheses on the state and the operands
alone, is stated here for: tickEdge, armStep, cancelStep, step, frameStartInstant. -/
def Obligations.TimeAdvancesAndSteps : Prop :=
  (∀ (s : State) (clocks : Nat) (u : BitVec 5) (usb : List TtResult),
    let edge := fun (g : Hub) => { g with tim := { g.tim with
      tickLen := clocks, coreClk := g.tim.edgeClk + clocks, edgeClk := g.tim.edgeClk + clocks, edges := g.tim.edges + 1
      edgeFx := g.tim.edgeFx + 125000 * 65536, baseFx := g.tim.edgeFx + 125000 * 65536, baseClk := g.tim.edgeClk + clocks
      rateTop := (rateNow g).natAbs, phase := 0 } }
    (s.hub.runs = true → edgeComes s.hub clocks = true →
      exec (.tickEdge clocks u usb) s = .next (s.onHub fun h =>
        let g := serveTick (patternTick (adaptAll (tallyAll (runTo h (h.tim.edgeClk + clocks)) 0x0002 1)))
        ep1Packets (ep2Packets (usb.foldl ttServe (usbFrames (lateLatches (overrun u.toNat (edge g)))))))) ∧
    (s.hub.runs = false → (s.hub.pwr.mode = .doze ∨ s.hub.pwr.mode = .warm) →
      exec (.tickEdge clocks u usb) s = .next (s.onHub edge)) ∧
    (s.hub.runs = false → s.hub.pwr.mode = .dozeEntry →
      exec (.tickEdge clocks u usb) s = .next (s.onHub fun h =>
        { edge h with pwr := { h.pwr with mode := .doze } }))) ∧
  ∀ s : State, s.hub.runs = true →
    (∀ (p : Port) (t : Nat), rd64 (atClk s.hub t) aTimStepLo % 125000 = 0 → flag (atClk s.hub t) aTimStepCmd 0 = false →
      exec (.armStep p t) s = .next (s.onHub fun h =>
        let g := setFlag (atClk h t) aTimStepCmd 0 true
        { g with tim := { g.tim with stepArmed := some g.tim.coreClk } })) ∧
    (∀ (p : Port) (t : Nat), rd64 (atClk s.hub t) aTimStepLo % 125000 = 0 → flag (atClk s.hub t) aTimStepCmd 0 = true →
      exec (.armStep p t) s = .next (s.onHub fun h => atClk h t)) ∧
    (∀ (p : Port) (t : Nat), rd64 (atClk s.hub t) aTimStepLo % 125000 ≠ 0 →
      exec (.armStep p t) s = .next (s.onHub fun h =>
        let g := setFlag (setFlag (atClk h t) aTimStepCmd 1 true) aTimStepCmd 0 false
        { g with tim := { g.tim with stepArmed := none } })) ∧
    (∀ p : Port, exec (.cancelStep p) s = .next (s.onHub fun h =>
        let g := setFlag h aTimStepCmd 0 false
        { g with tim := { g.tim with stepArmed := none } })) ∧
    (∀ c : Nat, s.hub.tim.stepArmed = some c → c + 3200 ≤ s.hub.tim.edgeClk → s.hub.tim.coreClk = s.hub.tim.edgeClk →
      rd64 s.hub aTimStepLo % 125000 = 0 →
      exec .step s = .next (s.onHub fun h =>
        let d : Int := (rd64 h aTimStepLo * 65536 : Nat) - (h.tim.edgeFx : Int)
        let fr := (List.range 8).foldl (fun t n =>
          tset ⟨none, 0⟩ t n { last := (tget (⟨none, 0⟩ : FrGen) t n).last.map (· + d), d := (tget (⟨none, 0⟩ : FrGen) t n).d + d }) h.tim.fr
        let g := setFlag h aTimStepCmd 0 false
        let g := { g with tim := { g.tim with
          edgeFx := rd64 h aTimStepLo * 65536, baseFx := rd64 h aTimStepLo * 65536, baseClk := h.tim.coreClk, stepArmed := none, fr := fr,
          syncAt := h.tim.syncAt.map (· + d), annAt := h.tim.annAt.map (· + d),
          stepped := tput (tput h.tim.stepped 0 true) 1 true } }
        let g := raise g 0x01 1 0 0
        let g := (timeEnds g).foldl (fun g e => sendTime g (timeTrunk g e) 2 e [rd64 h aTimStepLo, hubNs h]) g
        (createdDocks g).foldl (fun g d => hfEvent g d 0x05 0) g)) ∧
    (∀ c : Nat, s.hub.tim.stepArmed = some c → c + 3200 ≤ s.hub.tim.edgeClk → s.hub.tim.coreClk = s.hub.tim.edgeClk →
      rd64 s.hub aTimStepLo % 125000 ≠ 0 →
      exec .step s = .next (s.onHub fun h =>
        let g := setFlag (setFlag h aTimStepCmd 1 true) aTimStepCmd 0 false
        { g with tim := { g.tim with stepArmed := none } })) ∧
    (∀ (n : Fin 8) (k : Nat), k = frNext s.hub n.val → flag s.hub (aTimFrCfg n.val) 0 = true → dspPresent s.hub n.val = true →
      frInstant s.hub n.val k < s.hub.tim.edgeFx + 125000 * 65536 →
      exec (.frameStartInstant n) s = .next (s.onHub fun h =>
        let g := { h with tim := { h.tim with
          fr := tput h.tim.fr n.val { tget ⟨none, 0⟩ h.tim.fr n.val with last := some (frInstant h n.val k) } } }
        let owners := (timeEnds g).filter (fun e => (List.range 8).any (fun j =>
          bitOf (active g (aDspLayerCtl n.val j)) 31 && bitOf (active g (aDspLayerCtl n.val j)) 0 &&
            decide (bitsOf (active g (aDspLayerCtl n.val j)) 24 6 = e.dock)))
        owners.foldl (fun h e => sendTime h (timeTrunk h e) 3 e
          [n.val * 2 ^ 61, (frInstant g n.val (k + 1) / 65536).toNat, frPeriod (active h) n.val]) g))

/-- At an edge whose hub time is a multiple of the period a time port that is no input sends one pulse; the code frame of the pulse
before it goes out, Manchester coded, with SEQ, which advances, but is dropped once TIME1 is an input; an input window updates offset, lock and rate, the first after a holdover ends it
without a correction, one without input does neither; loss of the input sets HOLDOVER and clears LOCKED; an audio accumulator gives
the value of the interval that closes and keeps the remainder.
Completion, that exec answers a next state with the command's own effect under hypotheses on the state and the operands
alone, is stated here for: timePulse, codeFrame, disciplineWindow, time1Holdover, audioFeedback. -/
def Obligations.TimePortsAndDiscipline : Prop :=
  ∀ s : State, s.hub.runs = true →
    (∀ (n : Fin 2) (p : Nat), tpPeriod s.hub n.val = some p → tpIsInput s.hub n.val = false → stepDue s.hub = false → hubNs s.hub % p = 0 →
      s.hub.tim.coreClk = s.hub.tim.edgeClk → tget 0 s.hub.tim.lastPulse n.val < s.hub.tim.edges →
      exec (.timePulse n) s = .next (s.onHub fun h =>
        let us := fld h (aTimTpWidth n.val) 0 20
        let g := send h (.pulse n.val (hubNs h) (if p ≤ us * 1000 then p / 2 else us * 1000) (fld h (aTimTpAdvance n.val) 0 16))
        { g with tim := { g.tim with
            lastPulse := tset 0 h.tim.lastPulse n.val h.tim.edges
            pulseAt := if flag h (aTimTpCfg n.val) 3 then tput h.tim.pulseAt n.val (hubNs h) else h.tim.pulseAt } })) ∧
    (∀ (n : Fin 2) (ns : Nat), tfind s.hub.tim.pulseAt n.val = some ns → tpIsInput s.hub n.val = true →
      exec (.codeFrame n) s = .next (s.onHub fun h => { h with tim := { h.tim with pulseAt := tdel h.tim.pulseAt n.val } })) ∧
    (∀ (n : Fin 2) (ns : Nat), tfind s.hub.tim.pulseAt n.val = some ns → tpIsInput s.hub n.val = false →
      exec (.codeFrame n) s = .next (s.onHub fun h =>
        let seq := fld h (aTimTpSeq n.val) 0 16
        let g := send h (.code n.val (BitVec.ofNat 288 (manchester 144 (codeFrame (tget false h.tim.stepped n.val)
          (flag h aTimDiscStatus 0) (flag h aTimDiscStatus 1) ns seq (fld h aTimHubTag 0 16)).toNat)))
        let g := setFld g (aTimTpSeq n.val) 0 16 ((seq + 1) % 65536)
        { g with tim := { g.tim with pulseAt := tdel h.tim.pulseAt n.val, stepped := tset false h.tim.stepped n.val false } })) ∧
    (∀ (offset : Int), flag s.hub aTimTime1Cfg 0 = true →
      2 ^ fld s.hub aTimTime1Cfg 4 4 ≤ edgesSince s.hub s.hub.tim.windowStart →
      (exec (.disciplineWindow offset false) s = .next (s.onHub fun h =>
        { h with tim := { h.tim with windowStart := h.tim.edges } })) ∧
      (flag s.hub aTimDiscStatus 1 = true →
        exec (.disciplineWindow offset true) s = .next (s.onHub fun h =>
          setFlag { h with tim := { h.tim with windowStart := h.tim.edges } } aTimDiscStatus 1 false)) ∧
      (flag s.hub aTimDiscStatus 1 = false →
        exec (.disciplineWindow offset true) s = .next (s.onHub fun h =>
          measure { h with tim := { h.tim with windowStart := h.tim.edges } } offset))) ∧
    (flag s.hub aTimTime1Cfg 0 = true →
      exec .time1Holdover s = .next (s.onHub fun h =>
        let g := setFlag (setFlag h aTimDiscStatus 1 true) aTimDiscStatus 0 false
        raise { g with tim := { g.tim with inRange := 0 } } 0x01 3 0 0)) ∧
    (∀ n : Fin 8, flag s.hub (aTimAudCfg n.val) 31 = true →
      2 ^ fld s.hub (aTimAudCfg n.val) 24 2 ≤ edgesSince s.hub (tget ⟨0, 0⟩ s.hub.tim.aud n.val).from_ →
      exec (.audioFeedback n) s = .next (s.onHub fun h =>
        let m := 2 ^ fld h (aTimAudCfg n.val) 24 2
        let a := tget ⟨0, 0⟩ h.tim.aud n.val
        let acc := a.acc + fld h (aTimAudCfg n.val) 0 20 * (125000 * m) * 65536
        let g := wr h (aTimAudValue n.val) (W (acc / 1000000000))
        { g with tim := { g.tim with aud := tset ⟨0, 0⟩ h.tim.aud n.val ⟨acc % 1000000000, a.from_ + m⟩ } }))

/-- On every port on which PTP runs, at the end of the interval that SYNC_LOG or ANNOUNCE_LOG gives, SYNC sends Sync and Follow_Up with the port's next sequence number and ANNOUNCE sends Announce; a
Delay_Req on a running port is answered with its receive time; an Announce of another clock on an enabled port sets
PTP_FOREIGN_MASTER and nothing else; an unsupported frame is counted.
Completion, that exec answers a next state with the command's own effect under hypotheses on the state and the operands
alone, is stated here for: sync, announce, delayReq, foreignAnnounce, ptpDiscard. -/
def Obligations.GrandmasterMessages : Prop :=
  ∀ s : State, s.hub.runs = true →
    (∀ (t : Nat) (x : Int), ptpDue (atClk s.hub t) (fld (atClk s.hub t) aTimPtpCfg 8 4) (atClk s.hub t).tim.syncAt = some x →
      exec (.sync t) s = .next (s.onHub fun h => (List.range 4).foldl (fun g e =>
        if ptpOn g e then
          let q := (tget 0 g.tim.syncSeq e).toNat
          let x := sendPtp (sendPtp g e (.sync q)) e (.followUp q (ptpStamp g).1 (ptpStamp g).2.1 (ptpStamp g).2.2)
          { x with tim := { x.tim with syncSeq := tset 0 x.tim.syncSeq e (BitVec.ofNat 16 (q + 1)) } }
        else g) { (atClk h t) with tim := { (atClk h t).tim with syncAt := some x } })) ∧
    (∀ (t : Nat) (x : Int), ptpDue (atClk s.hub t) (fld (atClk s.hub t) aTimPtpCfg 12 4) (atClk s.hub t).tim.annAt = some x →
      exec (.announce t) s = .next (s.onHub fun h => (List.range 4).foldl (fun g e =>
        if ptpOn g e then
          let q := (tget 0 g.tim.annSeq e).toNat
          let x := sendPtp g e (.announce q (fld g aTimPtpClock 0 8) (fld g aTimPtpClock 8 8) (fld g aTimPtpClock 16 8)
            (fld g aTimPtpClock 24 8) 0xA0 (flag g aTimPtpCfg 24) (fld g aTimPtpUtc 0 16))
          { x with tim := { x.tim with annSeq := tset 0 x.tim.annSeq e (BitVec.ofNat 16 (q + 1)) } }
        else g) { (atClk h t) with tim := { (atClk h t).tim with annAt := some x } })) ∧
    (∀ (e : Fin 4) (q : BitVec 16) (r : BitVec 80) (t : Nat), ptpOn (atClk s.hub t) e.val = true →
      exec (.delayReq e q r t) s = .next (s.onHub fun h =>
        let g := atClk h t
        sendPtp g e.val (.delayResp q.toNat (ptpStamp g).1 (ptpStamp g).2.1 (ptpStamp g).2.2 r))) ∧
    (∀ (e : Fin 4) (id : BitVec 64), e.val < s.hub.part.res.eth → flag s.hub aTimPtpCfg e.val = true → id.toNat ≠ rd64 s.hub aTimPtpIdLo →
      exec (.foreignAnnounce e id) s = .next (s.onHub fun h => raise h 0x01 5 0 0)) ∧
    (∀ e : Fin 4, e.val < s.hub.part.res.eth → flag s.hub aTimPtpCfg e.val = true →
      exec (.ptpDiscard e) s = .next (s.onHub fun h =>
        { h with tim := { h.tim with ptpDiscards := tmod 0 h.tim.ptpDiscards e.val (· + 1) } }))

/-- A port's read answers the value that its latches or the register give; a direct write of a register that is not shadowed takes
effect by its access codes, of a shadowed one submits a transaction of one record while its element lies in no open scope; a slice
selection latches the dock's slice values; CSR.RD reads one or two words; CSR.WR and CSR.RMW, of one or two words that the command may
write, stage those of shadowed registers, in the current or an implicit transaction, and act at once on the others; the sideband sets its pointer, and reads and writes at it, which move it on by 4.
Completion, that exec answers a next state with the command's own effect under hypotheses on the state and the operands
alone, is stated here for: lowWordRead, registerWrite, mmioShWrite, sliceSelWrite, csrRd, csrWr, csrRmw, setPtr, write, read. -/
def Obligations.RegisterAccess : Prop :=
  (∀ s : State, s.hub.runs = true →
    (∀ (ag : Reader) (a : Word) (t : Nat), (∀ d, ag ≠ .host d) → a.toNat % 4 = 0 → a.toNat < 2 ^ 24 → semTakeAt a.toNat = none →
      exec (.lowWordRead ag a t) s = .next (s.onHub fun h =>
        send (readWord (atClk h t) ag a.toNat).1 (.data ag a.toNat (W (readWord (atClk h t) ag a.toNat).2)))) ∧
    (∀ (d : Fin 64) (a : Word) (t : Nat), gatesClosed (atClk s.hub t) d.val = false → (trunkEnd (atClk s.hub t) d.val 1).isSome = true →
      hfPresent (atClk s.hub t) = true → cfgCmd (atClk s.hub t) d.val 1 1 = true →
      exec (.lowWordRead (.host d) a t) s = .next (s.onHub fun h =>
        send (pageRead (atClk h t) d.val a.toNat).1 (.data (.host d) a.toNat (W (pageRead (atClk h t) d.val a.toNat).2)))) ∧
    (∀ (p : Port) (a v : Word) (t : Nat), a.toNat % 4 = 0 → a.toNat < 2 ^ 24 → shMask (atClk s.hub t).part a.toNat = 0 →
      exec (.registerWrite p a v t) s = .next (s.onHub fun h => writeWord s.mem (atClk h t) p (.port p) a.toNat v.toNat)) ∧
    (∀ (p : Port) (a v : Word) (t : Nat), a.toNat % 4 = 0 → shMask (atClk s.hub t).part a.toNat ≠ 0 →
      (atClk s.hub t).txs.queue.length + (atClk s.hub t).txs.delivering.toList.length < 64 →
      timRecordBad (atClk s.hub t) (lay (atClk s.hub t).part (projected (atClk s.hub t)) [(a.toNat, W v.toNat)]) a.toNat v.toNat = false →
      overlaps (atClk s.hub t) (recScope (atClk s.hub t) (lay (atClk s.hub t).part (projected (atClk s.hub t)) [(a.toNat, W v.toNat)]) a.toNat)
        none = 0 →
      exec (.mmioShWrite p a v t) s = .next (s.onHub fun h => submit (atClk h t) .direct p [(a.toNat, W v.toNat)] none [] [])) ∧
    (∀ (p : Port) (a v : Word) (t : Nat), a.toNat % 4 = 0 → shMask (atClk s.hub t).part a.toNat ≠ 0 →
      (atClk s.hub t).txs.queue.length + (atClk s.hub t).txs.delivering.toList.length < 64 →
      (timRecordBad (atClk s.hub t) (lay (atClk s.hub t).part (projected (atClk s.hub t)) [(a.toNat, W v.toNat)]) a.toNat v.toNat = true ∨
        overlaps (atClk s.hub t) (recScope (atClk s.hub t) (lay (atClk s.hub t).part (projected (atClk s.hub t)) [(a.toNat, W v.toNat)]) a.toNat)
          none ≠ 0) →
      exec (.mmioShWrite p a v t) s = .next (s.onHub fun h => raise (count (atClk h t) aTrnMmioDiscards 1) 0x03 2 0 0)) ∧
    (∀ (p : Port) (v : Word),
      exec (.sliceSelWrite p v) s = .next (s.onHub fun h =>
        let d := v.toNat % 64
        let x := (BitVec.ofNat 6 d, tget 0 h.txs.sliceVintage d, tget 0 h.txs.sliceDigest d)
        { h with txs := { h.txs with sliceSel := tput h.txs.sliceSel (Port.toNat p) x } }))) ∧
  (∀ (s : State) (th : Fin 4) (t : Nat) (c : Cmd) (w : IW),
    (AtInstr { s with hub := atClk s.hub t } th 0x08 c w → s.hub.runs = true → w.target % 2 = 0 → w.target < 4 → w.operand % 4 = 0 →
      exec (.csrRd th t) s = .next (s.onHub fun h =>
        let r := readFor (atClk h t) (cmdPort (atClk h t) c) (.thread th) w.operand
        settle r.1 c.id .ok (if bitOf w.target 1 then sext32 r.2 else r.2))) ∧
    (AtInstr { s with hub := atClk s.hub t } th 0x08 c w → s.hub.runs = true → w.target % 2 = 1 → w.target < 4 → w.operand % 8 = 0 →
      exec (.csrRd th t) s = .next (s.onHub fun h =>
        let r := readFor (atClk h t) (cmdPort (atClk h t) c) (.thread th) w.operand
        let r2 := readFor r.1 (cmdPort (atClk h t) c) (.thread th) (w.operand + 4)
        settle r2.1 c.id .ok (r.2 + r2.2 * 2 ^ 32))) ∧
    (∀ (v : Nat) (es : List (Nat × Nat)), AtInstr { s with hub := atClk s.hub t } th 0x09 c w → s.hub.runs = true →
      onlyBits w.target 0x111F = true → v = (if bitOf w.target 8 then greg c (bitsOf w.target 0 5) else w.x 0) →
      (bitOf w.target 8 = false → bitsOf w.target 0 5 = 0 ∧ (bitOf w.target 12 = false → v < 2 ^ 32)) →
      w.operand % (if bitOf w.target 12 then 8 else 4) = 0 →
      es = (if bitOf w.target 12 then [(w.operand, v % 2 ^ 32), (w.operand + 4, v / 2 ^ 32)] else [(w.operand, v % 2 ^ 32)]) →
      mayWriteCsr s.mem (atClk s.hub t) th c es = true →
      exec (.csrWr th t) s = .next (s.onHub fun h => csrWritten s.mem (atClk h t) th c w es 0)) ∧
    (∀ (v : Nat) (r : Hub × Nat), AtInstr { s with hub := atClk s.hub t } th 0x0A c w → s.hub.runs = true → w.target = 0 → w.operand % 4 = 0 →
      r = (if shMask (atClk s.hub t).part w.operand ≠ 0 then (atClk s.hub t, (stagedOr (atClk s.hub t) c w.operand).toNat)
        else readFor (atClk s.hub t) (cmdPort (atClk s.hub t) c) (.thread th) w.operand) →
      v = (r.2 - (r.2 &&& (w.x 0 / 2 ^ 32))) ||| (w.x 0 % 2 ^ 32 &&& (w.x 0 / 2 ^ 32)) →
      csrAddrOk (atClk s.hub t) w.operand = true → otherRing (cmdPort (atClk s.hub t) c) w.operand = false →
      mayWriteCsr s.mem r.1 th c [(w.operand, v)] = true →
      exec (.csrRmw th t) s = .next (s.onHub fun _ => csrWritten s.mem r.1 th c w [(w.operand, v)] r.2))) ∧
  (∀ (s : State) (v : Word) (pec : Pec), pecOk s.hub pec = true →
    exec (.setPtr v pec) s = .next (s.onHub fun h => { h with pwr := { h.pwr with ptr := v } }) ∧
    (s.hub.pwr.ptr.toNat = aPwrSbCfg →
      exec (.write v pec) s = .next (s.onHub fun h =>
        wr { h with pwr := { h.pwr with ptr := h.pwr.ptr + 4 } } aPwrSbCfg
          ((rd h aPwrSbCfg &&& ~~~0x17F) ||| (v &&& 0x17F)))) ∧
    (s.hub.pwr.ptr.toNat = aPwrEvent → coreUp s.hub = true →
      exec (.write v pec) s = .next (s.onHub fun h =>
        wr { h with pwr := { h.pwr with ptr := h.pwr.ptr + 4 } } aPwrEvent (rd h aPwrEvent &&& ~~~(0x3FFF &&& v)))) ∧
    (s.hub.pwr.ptr.toNat ≠ aPwrSbCfg → s.hub.pwr.ptr.toNat ≠ aPwrEvent →
      exec (.write v pec) s = .next (s.onHub fun h => { h with pwr := { h.pwr with ptr := h.pwr.ptr + 4 } })) ∧
    exec (.read pec) s = .next (s.onHub fun h =>
      send { h with pwr := { h.pwr with ptr := h.pwr.ptr + 4 } } (.smbus h.pwr.ptr.toNat (W (smbusValue h h.pwr.ptr.toNat)))))

/-- A valid submission is accepted in its order, an invalid one fails; the oldest accepted transaction at least 3,200 clocks old at
the edge is delivered while the hub is neither in hold nor recomputing its digest, and one whose records meet an uncorrectable word
fails, those after it being judged again; a switch-over makes the records active, advances
the vintage by 1 and gives every consequence; REKEY starts a recomputation and REKEY_DONE ends it under the new key.
Completion, that exec answers a next state with the command's own effect under hypotheses on the state and the operands
alone, is stated here for: validation, delivery, switchOver, rekey, rekeyDone. -/
def Obligations.ConfigurationApplies : Prop :=
  ∀ s : State, s.hub.runs = true →
    (∀ (t : Nat) (bad : Option Nat) (x : Sub) (rest : List Sub), (atClk s.hub t).txs.submitted = x :: rest → queueUse (atClk s.hub t) < 64 →
      let g := { atClk s.hub t with txs := { (atClk s.hub t).txs with submitted := rest } }
      let x := { x with recs := subRecs (atClk s.hub t) x }
      (judge g x (bad.toList ++ badRecs g x) = none → exec (.validation t bad) s = .next { s with hub := accept g x }) ∧
      (∀ st detail, judge g x (bad.toList ++ badRecs g x) = some (st, detail) →
        exec (.validation t bad) s = .next { s with hub := txFail g x st detail })) ∧
    (∀ (x : Sub) (rest : List Sub) (bad : Option Nat), s.hub.txs.queue = x :: rest → s.hub.txs.delivering = none → s.hub.tim.phase = 0 →
      inHold s.hub = false → s.hub.txs.rekeyFrom = none → x.accClk + 3200 ≤ s.hub.tim.edgeClk →
      ((∀ n ∈ bad.toList ++ badRecs s.hub x, x.recs.length ≤ n) →
        exec (.delivery bad) s = .next (s.onHub fun h => { h with txs := { h.txs with
          delivering := some x, queue := rest, applyFrom := max h.tim.coreClk h.txs.applyNext } })) ∧
      (∀ n ns, (bad.toList ++ badRecs s.hub x).filter (fun n => decide (n < x.recs.length)) = n :: ns →
        exec (.delivery bad) s = .next (s.onHub fun h =>
          p0Ends (rejudge rest (txFail { h with txs := { h.txs with queue := [] } } x .fault (2 ^ 31 + n * 2 ^ 16 + 4)))))) ∧
    (∀ (x : Sub) (b : Hub), s.hub.txs.delivering = some x →
      b = (let g := runTo s.hub (s.hub.txs.applyFrom + 63 + busiestBlock x.recs)
        { g with txs := { g.txs with applyNext := g.tim.coreClk + 1 } }) →
      let g := applyRecs b x
      let r := finishOp s.mem (consequences b.regs x g) x
      exec .switchOver s = .next { s with
        mem := r.1, hub := p0Ends (vintageEvents b.regs (sliceDocks g b.regs g.regs (x.recs.map (·.1))) x.src r.2) }) ∧
    (∀ p : Port, s.hub.txs.rekeyFrom = none →
      exec (.rekey p) s = .next (s.onHub fun h => lateLatches { h with txs := { h.txs with rekeyFrom := some h.tim.edges } })) ∧
    (s.hub.txs.rekeyFrom ≠ none →
      exec .rekeyDone s = .next (s.onHub fun h =>
        let g := { h with txs := { h.txs with keyInUse := h.txs.keyRegs, rekeyFrom := none } }
        let g := { g with txs := { g.txs with digest := digestWhole g } }
        raise ((List.range g.part.res.docks).foldl (fun g d =>
          { g with txs := { g.txs with sliceDigest := tset 0 g.txs.sliceDigest d (digestSlice g d) } }) g) 0x03 3 0 0))


/-- In the state of the link that awaits it each training event has its effect: a valid COMMA steps the lane's lock and deskew, an
invalid one is an uncorrectable error of its codeword, and COMMA_TIMEOUT loses the lock; LOCK_WINDOW_END and lock with deskew lead to
NEGOTIATE; TS1 shows the partner's identity and abilities, and TS2 is recorded; SWITCH_IDLE_END starts the stream at the new rate;
EQ_REQ is clipped to the limits, applied and answered, or answered with the override in force, EQ_ACK recorded; EQ_SETTLED sends
EQ_DONE, and EQ_DONE sent and received leads to CONFIRM; CREDIT and READY are recorded and lead to ACTIVE; RECOVER enters RECOVERY or
completes it; TRAINING_TIMEOUT starts the training again, or leaves RECOVERY with the lanes that have locked.
Completion, that exec answers a next state with the command's own effect under hypotheses on the state and the operands
alone, is stated here for: comma, commaTimeout, lockWindowEnd, ts1, ts2, switchIdleEnd, eqReq, eqAck, eqSettled, eqDone,
credit, ready, recover, trainingTimeout. -/
def Obligations.TrunkTraining : Prop :=
  ∀ (s : State) (n : Fin 8), s.hub.runs = true →
    (∀ (k : Fin 4) (body : BitVec 256) (cw arrival : Nat), commaOk body.toNat = true → trkState s.hub n.val ≠ 0 → trkState s.hub n.val ≠ 9 →
      exec (.comma n k body ⟨cw, arrival⟩) s = .next (s.onHub fun h =>
        let g := modTrk h n.val (fun t => { t with
          locks := tset LaneLock.none t.locks k.val
            (lockStep (tget LaneLock.none t.locks k.val) (bitsOf body.toNat 96 4) cw (bitsOf body.toNat 120 16) arrival) })
        lockEffects (setFlag g (aLaneStatus (4 * n.val + k.val)) 25 (bitOf (lockedLanes g n.val) k.val)) n.val)) ∧
    (∀ (k : Fin 4) (body : BitVec 256) (cw arrival : Nat), commaOk body.toNat = false → trkState s.hub n.val ≠ 0 → trkState s.hub n.val ≠ 9 →
      exec (.comma n k body ⟨cw, arrival⟩) s = .next (s.onHub fun h =>
        laneUncorr (if trkState h n.val = 7 then modTrk h n.val (fun t => { t with nak := true }) else h) (4 * n.val + k.val))) ∧
    (∀ k : Fin 4, bitOf (lockedLanes s.hub n.val) k.val = true →
      exec (.commaTimeout n k) s = .next (s.onHub fun h =>
        lockEffects (setFlag (modTrk h n.val (fun t => { t with locks := tdel t.locks k.val })) (aLaneStatus (4 * n.val + k.val)) 25 false)
          n.val)) ∧
    (trkState s.hub n.val = 2 →
      exec (.lockWindowEnd n) s = .next (s.onHub fun h => tryNegotiate (modTrk h n.val (fun t => { t with lockOver := true })) n.val)) ∧
    (∀ u0 u1 : BitVec 64, trkState s.hub n.val = 3 →
      exec (.ts1 n u0 u1) s = .next (s.onHub fun h =>
        let g := wr (wr64 h (aTrkPartnerIdLo n.val) u1.toNat) (aTrkPartnerCap n.val)
          (W (bitsOf u0.toNat 55 1 * 2 ^ 8 + bitsOf u0.toNat 47 4 * 2 ^ 4 + bitsOf u0.toNat 51 3))
        let t := trk g n.val
        let k := if !bitOf u0.toNat 46 then 0 else if t.ts1 = some (u0, u1) then t.ts1Acked + 1 else 1
        tryTs2 (setTrk g n.val { t with ts1 := some (u0, u1), ts1Acked := k }) n.val)) ∧
    (∀ u0 : BitVec 64, exec (.ts2 n u0) s = .next (s.onHub fun h => modTrk h n.val (fun t => { t with ts2 := some u0 }))) ∧
    (trkState s.hub n.val = 4 →
      exec (.switchIdleEnd n) s = .next (s.onHub fun h => lockEffects (modTrk h n.val (fun t => { t with idleDone := true })) n.val)) ∧
    (∀ (u0 : BitVec 64) (l pre main post : Nat) (lim : Bool), l = 4 * n.val + bitsOf u0.toNat 49 2 →
      (trkState s.hub n.val = 5 ∨ trkState s.hub n.val = 7) → flag s.hub (aLaneTxFfeOvr l) 31 = false →
      clipFfe (bitsOf u0.toNat 42 6) (bitsOf u0.toNat 36 6) (bitsOf u0.toNat 30 6) = (pre, main, post, lim) →
      exec (.eqReq n u0) s = .next (s.onHub fun h =>
        queueLink (wr h (aLaneTxFfe l) (W (pre * 2 ^ 16 + main * 2 ^ 8 + post + (if lim then 2 ^ 24 else 0)))) n.val
          [linkUnit 0x04 (bitsOf u0.toNat 49 2 * 2 ^ 49 + pre * 2 ^ 42 + main * 2 ^ 36 + post * 2 ^ 30 + (if lim then 2 ^ 29 else 0))])) ∧
    (∀ (u0 : BitVec 64) (l : Nat), l = 4 * n.val + bitsOf u0.toNat 49 2 →
      (trkState s.hub n.val = 5 ∨ trkState s.hub n.val = 7) → flag s.hub (aLaneTxFfeOvr l) 31 = true →
      exec (.eqReq n u0) s = .next (s.onHub fun h =>
        queueLink h n.val [linkUnit 0x04 (bitsOf u0.toNat 49 2 * 2 ^ 49 + fld h (aLaneTxFfeOvr l) 16 6 * 2 ^ 42 +
          fld h (aLaneTxFfeOvr l) 8 6 * 2 ^ 36 + fld h (aLaneTxFfeOvr l) 0 6 * 2 ^ 30 + 2 ^ 29)])) ∧
    (∀ u0 : BitVec 64, exec (.eqAck n u0) s = .next (s.onHub fun h =>
      modTrk h n.val (fun t => { t with partnerEq := tput t.partnerEq (bitsOf u0.toNat 49 2) u0 }))) ∧
    (trkState s.hub n.val = 5 → (trk s.hub n.val).eqMine = false →
      exec (.eqSettled n) s = .next (s.onHub fun h =>
        tryConfirm (modTrk (sendLink h n.val [linkUnit 0x05 0]) n.val (fun t => { t with eqMine := true })) n.val)) ∧
    (trkState s.hub n.val = 5 →
      exec (.eqDone n) s = .next (s.onHub fun h => tryConfirm (modTrk h n.val (fun t => { t with eqTheirs := true })) n.val)) ∧
    (∀ u0 : BitVec 64, trkState s.hub n.val = 6 →
      exec (.credit n u0) s = .next (s.onHub fun h => tryActive (modTrk h n.val (fun t => { t with
        init := tset 0 t.init (bitsOf u0.toNat 53 3) (bitsOf u0.toNat 46 7),
        creditSeen := t.creditSeen ||| 2 ^ bitsOf u0.toNat 53 3 })) n.val)) ∧
    (trkState s.hub n.val = 6 →
      exec (.ready n) s = .next (s.onHub fun h => tryActive (modTrk h n.val (fun t => { t with readySeen := true })) n.val)) ∧
    (∀ u0 : BitVec 64, trkState (toRecovery s.hub n.val) n.val = 8 →
      exec (.recover n u0) s = .next (s.onHub fun h =>
        tryRecovered (modTrk (toRecovery h n.val) n.val (fun t => { t with recoverAck := some (bitsOf u0.toNat 44 12) })) n.val)) ∧
    ((trkState s.hub n.val = 2 ∨ trkState s.hub n.val = 3) →
      exec (.trainingTimeout n) s = .next (s.onHub fun h => toDetect h n.val)) ∧
    ((trkState s.hub n.val = 4 ∨ trkState s.hub n.val = 5) →
      exec (.trainingTimeout n) s = .next (s.onHub fun h =>
        toDetect (modTrk h n.val (fun t => { t with ceiling := fld h (aTrkStatus n.val) 6 2 - 1 })) n.val)) ∧
    (trkState s.hub n.val = 6 →
      exec (.trainingTimeout n) s = .next (s.onHub fun h => toDetect (linkDown h n.val) n.val)) ∧
    (trkState s.hub n.val = 8 →
      exec (.trainingTimeout n) s = .next (s.onHub fun h =>
        let relocked := lockedLanes h n.val &&& stripeSet h n.val
        if relocked ≠ 0 ∧ (trk h n.val).recoverSent = true ∧ (trk h n.val).recoverAck.isSome = true then
          leaveRecovery (removeLanes h n.val (15 ^^^ relocked)) n.val
        else toDetect (linkDown h n.val) n.val))

/-- STAVE_RECEIVE: a stave in error sets the NAK that the next stave carries; a DATA stave in order advances the expected SEQ, returns
its credit and gives its packets to the switch port; a LINK stave gives its messages. STAVE_TRANSMIT sends in each state of the link
the stave of that state, in ACTIVE by R159. REPLAY_TIMER starts a replay; a quiet link with IDLE_EN asks for idle (IDLE_TIMER),
answers a request (IDLE_REQ, IDLE_ACK), and leaves idle for traffic (FAST_EXIT), for energy on a lane (ENERGY_DETECT) and for tokens
(TOKEN_WAKE); TOKEN_SYNC and the answer to TOKEN_REQ carry hub time.
Completion, that exec answers a next state with the command's own effect under hypotheses on the state and the operands
alone, is stated here for: staveReceive, staveTransmit, replayTimer, idleTimer, idleReq, idleAck, fastExit, energyDetect,
tokenWake, tokenSync, tokenReq. -/
def Obligations.TrunkStavesAndIdle : Prop :=
  ∀ (s : State) (n : Fin 8), s.hub.runs = true →
    (∀ (header : BitVec 64) (body : List (BitVec 64)) (wrong : List Nat), trkState s.hub n.val = 7 →
      staveBad (fld s.hub (aTrkStatus n.val) 6 2) header body wrong = true →
      exec (.staveReceive n header body wrong) s = .next (s.onHub fun h => modTrk h n.val (fun t => { t with nak := true }))) ∧
    (∀ (header : BitVec 64) (body : List (BitVec 64)) (wrong : List Nat) (g : Hub), trkState s.hub n.val = 7 →
      staveBad (fld s.hub (aTrkStatus n.val) 6 2) header body wrong = false →
      g = modTrk (takeAck s.hub n.val (bitsOf header.toNat 36 12)) n.val (fun t => { t with
        freed := tset 0 t.freed (bitsOf header.toNat 24 3) (bitsOf header.toNat 16 8) }) →
      bitOf header.toNat 35 = false → bitsOf header.toNat 60 4 = 1 → bitsOf header.toNat 48 12 = fld g (aTrkSeq n.val) 16 12 →
      exec (.staveReceive n header body wrong) s = .next (s.onHub fun _ =>
        let vc := bitsOf header.toNat 32 3
        let x := tally (setFld g (aTrkSeq n.val) 16 12 ((fld g (aTrkSeq n.val) 16 12 + 1) % 4096)) (0x10 + n.val) 0x0101 1 none
        let x := if creditWithheld x n.val vc then
            modTrk x n.val (fun t => { t with nak := false, owed := tmod 0 t.owed vc (· + 1) })
          else modTrk x n.val (fun t => { t with nak := false, freedMine := tmod 0 t.freedMine vc (fun c => (c + 1) % 256) })
        takeBody x n.val vc (bitsOf header.toNat 27 5) body)) ∧
    (∀ (header : BitVec 64) (body : List (BitVec 64)) (wrong : List Nat), 3 ≤ trkState s.hub n.val → trkState s.hub n.val ≠ 9 →
      staveBad (fld s.hub (aTrkStatus n.val) 6 2) header body wrong = false →
      exec (.staveReceive n header body wrong) s = .next (s.onHub fun h =>
        let g := if trkState h n.val = 7 then takeStave h n.val header body else h
        if bitsOf header.toNat 60 4 = 2 then (linkMessages 31 body).foldl (linkMessage n.val) g else g)) ∧
    (trkState s.hub n.val = 7 → exec (.staveTransmit n) s = .next (s.onHub fun h =>
      activeStave (if changeDue h n.val then stripeSwitch n.val h else h) n.val)) ∧
    ((trkState s.hub n.val = 1 ∨ trkState s.hub n.val = 2 ∨
        trkState s.hub n.val = 3 ∧ (trk s.hub n.val).sent % 16 ≠ 15 ∨ trkState s.hub n.val = 4 ∧ (trk s.hub n.val).idleDone = true) →
      exec (.staveTransmit n) s = .next (s.onHub fun h => sendStave h n.val 0 (fld h (aTrkSeq n.val) 0 12) 0 31 (List.replicate 31 0))) ∧
    (trkState s.hub n.val = 3 → (trk s.hub n.val).sent % 16 = 15 →
      exec (.staveTransmit n) s = .next (s.onHub fun h =>
        let g := sendLink h n.val (ts1Units h n.val)
        tryTs2 (if (trk h n.val).ts1.isSome then modTrk g n.val (fun t => { t with ts1Sent := t.ts1Sent + 1 }) else g) n.val)) ∧
    (trkState s.hub n.val = 5 → (trk s.hub n.val).linkq = [] →
      exec (.staveTransmit n) s = .next (s.onHub fun h =>
        match (askEq h n.val).2 with
        | some m => sendLink (askEq h n.val).1 n.val m
        | none => sendNull (askEq h n.val).1 n.val)) ∧
    (∀ m ms, trkState s.hub n.val = 5 → (trk s.hub n.val).linkq = m :: ms →
      exec (.staveTransmit n) s = .next (s.onHub fun h => sendLink (setTrk h n.val { trk h n.val with linkq := ms }) n.val m)) ∧
    (trkState s.hub n.val = 6 → exec (.staveTransmit n) s = .next (s.onHub fun h =>
      if (trk h n.val).creditSent then
        tryActive (modTrk (sendLink h n.val [linkUnit 0x07 0]) n.val (fun t => { t with readySent := t.readySent + 1 })) n.val
      else modTrk (sendLink h n.val (creditUnits h n.val)) n.val (fun t => { t with creditSent := true }))) ∧
    (trkState s.hub n.val = 8 → exec (.staveTransmit n) s = .next (s.onHub fun h =>
      tryRecovered (modTrk (sendLink h n.val [linkUnit 0x1F ((fld h (aTrkSeq n.val) 16 12 + 4095) % 4096 * 2 ^ 44)]) n.val
        (fun t => { t with recoverSent := true })) n.val)) ∧
    (trkState s.hub n.val = 7 → exec (.replayTimer n) s = .next (s.onHub fun h => startReplay h n.val)) ∧
    (trkState s.hub n.val = 7 → idleEn s.hub n.val = true → trunkQuiet s.hub n.val = true → (trk s.hub n.val).idleAsked = false →
      exec (.idleTimer n) s = .next (s.onHub fun h =>
        modTrk (queueLink h n.val [linkUnit 0x18 0]) n.val (fun t => { t with idleAsked := true }))) ∧
    (trkState s.hub n.val = 7 →
      exec (.idleReq n) s = .next (s.onHub fun h =>
        if idleEn h n.val = true ∧ trunkQuiet h n.val = true then toIdle (sendLink h n.val [linkUnit 0x19 0]) n.val
        else sendLink h n.val [linkUnit 0x19 (2 ^ 26)])) ∧
    (∀ u0 : BitVec 64, trkState s.hub n.val = 7 → (trk s.hub n.val).idleAsked = true →
      exec (.idleAck n u0) s = .next (s.onHub fun h =>
        if bitOf u0.toNat 26 then modTrk h n.val (fun t => { t with idleAsked := false }) else toIdle h n.val)) ∧
    (trkState s.hub n.val = 9 →
      exec (.fastExit n) s = .next (s.onHub fun h =>
        let m := stripeSet h n.val
        let g := modTrk (setFld (trkEnter h n.val 7) (aTrkStatus n.val) 16 16 0) n.val (fun t => { newStream t with sinceComma := some 0 })
        nextTodo 8 (setLanes (sendBurst g n.val m) n.val m 2 (fld g (aTrkStatus n.val) 6 2)) n.val)) ∧
    (∀ l : Fin 98, lanePresent s.hub.part.res l.val = true → (l.val < 32 ∨ 64 ≤ l.val) →
      exec (.energyDetect l) s = .next (s.onHub fun h =>
        let g := setFlag h (aLaneStatus l.val) 24 true
        if l.val < 32 ∧ bitOf (stripeSet g (l.val / 4)) (l.val % 4) = true then leaveIdle g (l.val / 4) else g)) ∧
    (trkState s.hub n.val = 9 → fld s.hub (aTrkIdleCfg n.val) 16 8 ≤ edgesSince s.hub (trk s.hub n.val).idleFrom →
      exec (.tokenWake n) s = .next (s.onHub fun h => leaveIdle h n.val)) ∧
    (∀ t : Nat, trkState (atClk s.hub t) n.val = 7 → (trk (atClk s.hub t) n.val).syncEdge < (atClk s.hub t).tim.edges →
      exec (.tokenSync n t) s = .next (s.onHub fun h =>
        let g := atClk h t
        let num := fld g (aTrkTokenSeq n.val) 0 16
        let x := sendLink g n.val [linkUnit 0x20 (num * 2 ^ 40 + hubFx g % 65536), BitVec.ofNat 64 (hubNs g)]
        let x := setFld x (aTrkTokenSeq n.val) 0 16 ((num + 1) % 65536)
        modTrk x n.val (fun k => { k with syncEdge := x.tim.edges }))) ∧
    (∀ (token : BitVec 16) (offset delay : Word) (t : Nat), trkState (atClk s.hub t) n.val = 7 →
      exec (.tokenReq n token offset delay t) s = .next (s.onHub fun h =>
        let g := setFld (atClk h t) (aTrkTokenSeq n.val) 16 16 token.toNat
        let g := wr (wr g (aTrkTokenOffset n.val) offset) (aTrkTokenDelay n.val) delay
        queueLink g n.val [linkUnit 0x22 (token.toNat * 2 ^ 40 + hubFx g % 65536), BitVec.ofNat 64 (hubNs g)]))

/-- RETIRE_REQ and RETURN_REQ of the partner are answered, a return of a lane that has not locked, or not settled (log 164), with REFUSE; RETIRE_ACK or RETURN_ACK
of the same ID confirms the hub's own request, which REQ_REPEAT sends up to 10 times more until then, after which the lane of a
retirement leaves through RECOVERY; a return that is refused, or not answered in time (RETURN_TIMEOUT), leaves the lane out and fails
the RES.RESTORE that asked for it; at the target comma STRIPE_SWITCH puts the set of the requests in force, of crossing ones the
intersection, with the lanes that the partner removed shown as excluded.
Completion, that exec answers a next state with the command's own effect under hypotheses on the state and the operands
alone, is stated here for: retireReq, returnReq, retireAck, returnAck, reqRepeat, returnTimeout, stripeSwitch. -/
def Obligations.StripeChanges : Prop :=
  ∀ (s : State) (n : Fin 8), s.hub.runs = true →
    (∀ u0 : BitVec 64, trkState s.hub n.val = 7 →
      exec (.retireReq n u0) s = .next (s.onHub fun h =>
        let v := u0.toNat
        modTrk (queueLink h n.val (changeUnit 0x11 (bitsOf v 47 4) (bitsOf v 31 16) (bitsOf v 27 4) false)) n.val
          (fun t => { t with theirs := some (bitsOf v 47 4, bitsOf v 31 16, true) }))) ∧
    (∀ (u0 : BitVec 64) (settled : Bool), trkState s.hub n.val = 7 →
      exec (.returnReq n u0 settled) s = .next (s.onHub fun h =>
        let v := u0.toNat
        let locked := settled && returnLocked h n.val (bitsOf v 47 4)
        let g := queueLink h n.val (changeUnit 0x13 (bitsOf v 47 4) (bitsOf v 31 16) (bitsOf v 27 4) (!locked))
        if locked then modTrk g n.val (fun t => { t with theirs := some (bitsOf v 47 4, bitsOf v 31 16, false) }) else g)) ∧
    (∀ (u0 : BitVec 64) (c : Change), (trk s.hub n.val).change = some c → c.id = bitsOf u0.toNat 27 4 →
      (c.isReturn = false → bitOf u0.toNat 26 = false →
        exec (.retireAck n u0) s = .next (s.onHub fun h => modTrk h n.val (fun t => { t with change := some { c with acked := true } }))) ∧
      (c.isReturn = true → bitOf u0.toNat 26 = false →
        exec (.returnAck n u0) s = .next (s.onHub fun h => modTrk h n.val (fun t => { t with change := some { c with acked := true } }))) ∧
      (c.isReturn = true → bitOf u0.toNat 26 = true →
        exec (.returnAck n u0) s = .next (s.onHub fun h =>
          nextTodo 8 (restoreFailed (modTrk h n.val (fun t => { t with
            change := none, joining := t.joining &&& (15 ^^^ 2 ^ c.lane) })) (4 * n.val + c.lane) c.waiter) n.val))) ∧
    (∀ c : Change, (trk s.hub n.val).change = some c → c.acked = false →
      (c.sends < 11 →
        exec (.reqRepeat n) s = .next (s.onHub fun h =>
          modTrk (queueLink h n.val (changeUnit (if c.isReturn then 0x12 else 0x10) c.mask c.target c.id false)) n.val
            (fun t => { t with change := some { c with sends := c.sends + 1 } }))) ∧
      (11 ≤ c.sends → c.isReturn = false →
        exec (.reqRepeat n) s = .next (s.onHub fun h => toRecovery (removeLanes h n.val (2 ^ c.lane)) n.val)) ∧
      (c.isReturn = true →
        exec (.returnTimeout n) s = .next (s.onHub fun h =>
          nextTodo 8 (restoreFailed (raise (modTrk h n.val (fun t => { t with
            change := none, joining := t.joining &&& (15 ^^^ 2 ^ c.lane) })) 0x05 5 n.val 0) (4 * n.val + c.lane) c.waiter) n.val))) ∧
    (∀ (mine : Option Change) (m1 m2 gone : Nat), trkState s.hub n.val = 7 → changeDue s.hub n.val = true →
      mine = (trk s.hub n.val).change.filter (·.acked) →
      m1 = (mine.map (·.mask)).getD 15 → m2 = ((trk s.hub n.val).theirs.map (·.1)).getD 15 →
      gone = (match (trk s.hub n.val).theirs with
        | some x => if x.2.2 then stripeSet s.hub n.val &&& (15 ^^^ x.1) else 0
        | none => 0) →
      exec (.stripeSwitch n) s = .next (s.onHub fun h =>
        let old := stripeSet h n.val
        let g := setFld h (aTrkStatus n.val) 12 4 ((fld h (aTrkStatus n.val) 12 4 ||| gone) &&& (15 ^^^ (m1 &&& m2)))
        let g := modTrk g n.val (fun t => { t with
          change := if mine.isSome then none else t.change, theirs := none, joining := t.joining &&& (15 ^^^ (m1 &&& m2)) })
        let g := (bitsSet 4 ((m1 &&& m2) &&& (15 ^^^ old))).foldl (fun g k => clearRetired g (4 * n.val + k)) (changeStripe g n.val (m1 &&& m2))
        match mine with
        | some c => nextTodo 8 (if c.isReturn then g else changeOver g n.val false c.lane c.waiter) n.val
        | none => g))


/-- LANE.RETIRE of a present lane outside a trunk retires it at once, a PCIe lane whose port must retrain as x1 completing with that,
and of a trunk lane in force by a handshake under GRACEFUL, else at once; of a retired lane it is OK, and while a change bars it
CONFLICT; LANE.SCAN of a lane in data or in a receiving loop starts a scan, EYE_SCAN_WINDOW adds the points that a tick's window
finishes, and SCAN_END writes the result and completes OK; LANE.LOOP puts a lane whose port is off, or that is retired, into a loop
or takes it out; PATTERN_CLEAR zeroes both pattern counts; TAP_LIMIT and LANE_HARD_FAULT are detected.
Completion, that exec answers a next state with the command's own effect under hypotheses on the state and the operands
alone, is stated here for: laneRetire, laneScan, eyeScanWindow, scanEnd, laneLoop, patternClear, tapLimit, laneHardFault. -/
def Obligations.LaneCommands : Prop :=
  ∀ s : State, s.hub.runs = true →
    (∀ (th : Fin 4) (c : Cmd) (w : IW), AtLong s th 0x68 c w → w.target < 96 → lanePresent s.hub.part.res w.target = true → w.operand < 2 →
      oConflict s.hub c (laneScope w.target) = none →
      (laneRetired s.hub w.target = true → exec (.laneRetire th) s = .next (s.onHub fun h => settle h c.id .ok 0)) ∧
      (laneRetired s.hub w.target = false → laneBusy s.hub w.target (decide (w.operand = 1)) = true →
        exec (.laneRetire th) s = .next (s.onHub fun h => settle h c.id .conflict 0)) ∧
      (laneRetired s.hub w.target = false → laneBusy s.hub w.target (decide (w.operand = 1)) = false → 32 ≤ w.target →
        exec (.laneRetire th) s = .next (s.onHub fun h =>
          let p := (w.target - 64) / 2
          let g := faults (beginWait h c w .op) [.retire 0 w.target 2 0]
          if 64 ≤ w.target ∧ w.target < 80 ∧ (tfind g.lns.x1 p).isSome = true then
            { g with lns := { g.lns with x1Cmd := tput g.lns.x1Cmd p c.id } }
          else settle (faults h [.retire 0 w.target 2 0]) c.id .ok 0)) ∧
      (∀ (l : Nat) (g : Hub) (waits : Bool), l = w.target → l < 32 → laneRetired s.hub l = false →
        laneBusy s.hub l (decide (w.operand = 1)) = false →
        waits = (bitOf (stripeSet s.hub (l / 4)) (l % 4) && decide (stripeSet s.hub (l / 4) ≠ 2 ^ (l % 4)) &&
          decide (trkState s.hub (l / 4) = 7) && decide (w.operand = 1)) →
        g = (let x := setFlag (setFlag s.hub (aFltRet 0 (l / 32)) (l % 32) true) (aLaneRetired (l / 32)) (l % 32) true
          count (faultRecord x 2 2 0 l 0 (bucketLevel s.hub 0 l)) aFltCntRetire 1) →
        exec (.laneRetire th) s = .next (s.onHub fun _ =>
          if waits = true then laneOut (beginWait g c w .op) l true (some c.id)
          else settle (laneOut g l false none) c.id .ok 0))) ∧
    (∀ (th : Fin 4) (c : Cmd) (w : IW), AtLong s th 0x69 c w → w.target < 96 → (w.target < 32 ∨ 64 ≤ w.target) →
      lanePresent s.hub.part.res w.target = true → w.operand < (if flag s.hub (aLaneStatus w.target) 21 then 3 else 1) →
      (fld s.hub (aLaneStatus w.target) 28 3 = 2 ∨ fld s.hub (aLaneStatus w.target) 28 3 = 4 ∧
        (fld s.hub (aLaneLoop w.target) 0 2 = 1 ∨ fld s.hub (aLaneLoop w.target) 0 2 = 3)) →
      hubRangeOk s.hub (w.x 0) 65088 = true → busDenied s.hub (cmdPort s.hub c) (w.x 0) = false →
      oConflict s.hub c (laneScope w.target) = none → scanOf s.hub w.target = none →
      s.hub.lns.scans.length < 16 → (onBus (w.x 0) = true ∨ cellarReady s.hub = true) →
      exec (.laneScan th) s = .next (s.onHub fun h => scanStart (beginWait h c w .op) w.target w.operand (w.x 0) c.id)) ∧
    (∀ (l : Fin 98) (counts : List Word) (x : Scan) (first last : Nat), scanOf s.hub l.val = some x → x.edge ≠ some s.hub.tim.edges →
      x.broken = false → first = max x.from_ (s.hub.tim.edgeClk + 64000) → last = s.hub.tim.edgeClk + 143999 → first ≤ last →
      exec (.eyeScanWindow l counts) s = .next (s.onHub fun h =>
        let g := runTo h last
        let ui := x.ui + x.baud * (last + 1 - first) * 5 / 8000
        let y := { x with counts := (x.counts ++ counts.take (ui / 2 ^ x.dwell)).take 16256, ui := ui % 2 ^ x.dwell, lastTick := tickNo g,
                          edge := some g.tim.edges, startTick := if x.edge.isNone then tickNo g else x.startTick }
        setFld { g with lns := { g.lns with scans := tput g.lns.scans l.val y } } (aLaneScanStatus l.val) 0 14 y.counts.length)) ∧
    (∀ (l : Fin 98) (x : Scan) (c : Cmd) (r : Mem × Hub), scanOf s.hub l.val = some x → (16256 ≤ x.counts.length ∨ x.broken = true) →
      findCmd s.hub x.cmd = some c → r = writeHub s.mem s.hub (cmdPort s.hub c) x.addr (scanResult l.val x) →
      exec (.scanEnd l) s = .next { s with
        mem := r.1, hub :=
          (let g := { r.2 with lns := { r.2.lns with scans := tdel r.2.lns.scans l.val } }
           let g := setFlag (setFlag g (aLaneStatus l.val) 22 false) (aLaneScanStatus l.val) 31 false
           settle (wr g aLaneScans (W g.lns.scans.length)) x.cmd .ok 0) }) ∧
    (∀ (th : Fin 4) (c : Cmd) (w : IW), AtInstr s th 0x6A c w → w.target < 96 → lanePresent s.hub.part.res w.target = true →
      w.operand < 4 → (w.target < 32 ∨ 64 ≤ w.target ∨ w.operand = 0) → oConflict s.hub c (laneScope w.target) = none →
      (lanePortOn s.hub w.target = false ∨ laneRetired s.hub w.target = true) →
      exec (.laneLoop th) s = .next (s.onHub fun h => settle (loopSet h w.target w.operand) c.id .ok 0)) ∧
    (∀ (p : Port) (l : Fin 98), l.val < 96 → lanePresent s.hub.part.res l.val = true →
      exec (.patternClear p l) s = .next (s.onHub fun h => wr64 (wr64 h (aLanePatErrLo l.val) 0) (aLanePatBitsLo l.val) 0)) ∧
    (∀ l : Fin 98, lanePresent s.hub.part.res l.val = true → (l.val < 32 ∨ 64 ≤ l.val) → fld s.hub (aLaneStatus l.val) 28 3 = 2 →
      flag s.hub (aLaneCtl l.val) 2 = false →
      exec (.tapLimit l) s = .next (s.onHub fun h => raise (setFlag h (aLaneStatus l.val) 23 true) 0x04 2 l.val 0)) ∧
    (∀ l : Fin 98, l.val < 96 → lanePresent s.hub.part.res l.val = true →
      exec (.laneHardFault l) s = .next (s.onHub fun h => faults h [.hard l.val]))

/-- BUCKET_ERROR: each error of a receiving lane counts and feeds its bucket, and each of a port its class's bucket with its weight;
BUCKET_LEAK, when due, lowers every bucket of its class above 0 by 1; HOLDOFF_END sends the message that fell due in a hold-off, if
the port's link is up; PCIE_X1_L0_TIMEOUT retires a port without L0 after its retrain as x1; ETH_LINK_DOWN rests the port's lane and
feeds its bucket while signal is present, ETH_LINK_UP trains the lane; RESTORE_TEST_END: a pass returns the resource, a lane of an
ACTIVE trunk through the handshake, and a failure completes FAULT.
Completion, that exec answers a next state with the command's own effect under hypotheses on the state and the operands
alone, is stated here for: bucketError, bucketLeak, holdoffEnd, pcieX1L0Timeout, ethLinkDown, ethLinkUp, restoreTestEnd. -/
def Obligations.FaultManagerCommands : Prop :=
  ∀ s : State, s.hub.runs = true →
    (∀ i : BitVec 12, lanePresent s.hub.part.res i.toNat = true → (i.toNat < 32 ∨ 64 ≤ i.toNat) →
      (∀ n, exec (.bucketError 0 i (.laneCorr n)) s = .next (s.onHub fun h => laneCorr h i.toNat n)) ∧
      exec (.bucketError 0 i .laneUncorr) s = .next (s.onHub fun h =>
        laneError (if i.toNat < 32 then count h (aTrkCntFecUncorr (i.toNat / 4)) 1 else h) i.toNat 1 (aLaneCntUncorr i.toNat) 0x0A01 1) ∧
      exec (.bucketError 0 i .laneLockLoss) s = .next (s.onHub fun h => laneError h i.toNat 1 (aLaneCntLockLoss i.toNat) 0 1) ∧
      exec (.bucketError 0 i .laneTrainFail) s = .next (s.onHub fun h => laneError h i.toNat 1 (aLaneCntTrainFail i.toNat) 0 1) ∧
      (i.toNat < 32 → exec (.bucketError 0 i .replay) s = .next (s.onHub fun h => faults h [.add 0 i.toNat 1 0]))) ∧
    (∀ i : BitVec 12,
      exec (.bucketError 5 i .recovery) s = .next (s.onHub fun h => faults h [.add 5 i.toNat 1 0]) ∧
      exec (.bucketError 6 i .recovery) s = .next (s.onHub fun h => faults h [.add 6 i.toNat 1 0]) ∧
      exec (.bucketError 5 i .linkLoss) s = .next (s.onHub fun h => faults h [.add 5 i.toNat 4 0]) ∧
      exec (.bucketError 6 i .linkLoss) s = .next (s.onHub fun h => faults h [.add 6 i.toNat 4 0]) ∧
      exec (.bucketError 7 i .localFault) s = .next (s.onHub fun h => faults h [.add 7 i.toNat 1 0])) ∧
    (∀ c : Fin 10, fld s.hub (aFltClassCfg c.val) 0 16 ≠ 0 →
      8 * fld s.hub (aFltClassCfg c.val) 0 16 ≤ edgesSince s.hub (tget 0 s.hub.flt.leakFrom c.val) →
      exec (.bucketLeak c) s = .next (s.onHub fun h =>
        let p := 8 * fld h (aFltClassCfg c.val) 0 16
        let t := threshold h c.val
        let g := { h with flt := { h.flt with leakFrom := tset 0 h.flt.leakFrom c.val (tget 0 h.flt.leakFrom c.val + p) } }
        (List.range (classCount c.val)).foldl (fun g i =>
          let lv := bucketLevel g c.val i
          if lv = 0 ∨ (c.val = 9 ∧ flag g aMemRetiredBanks (16 + i) = true ∧ t ≠ 0 ∧ t ≤ lv) then g
          else
            let g := setFld g (aFltBkt c.val i) 0 16 (lv - 1)
            if t = 0 ∨ lv - 1 < (t + 1) / 2 then setFlag g (aFltBkt c.val i) 16 false else g) g)) ∧
    (∀ p : Port, tget false s.hub.flt.holdoff (Port.toNat p) = true → tget false s.hub.flt.due (Port.toNat p) = true → mgmtUp s.hub p = true →
      exec (.holdoffEnd p) s = .next (s.onHub fun h => fltMessage { h with flt := { h.flt with
        holdoff := tset false h.flt.holdoff (Port.toNat p) false, due := tset false h.flt.due (Port.toNat p) false } } p)) ∧
    (∀ p : Port, tget false s.hub.flt.holdoff (Port.toNat p) = true →
      (tget false s.hub.flt.due (Port.toNat p) = false ∨ mgmtUp s.hub p = false) →
      exec (.holdoffEnd p) s = .next (s.onHub fun h => { h with flt := { h.flt with
        holdoff := tset false h.flt.holdoff (Port.toNat p) false } })) ∧
    (∀ (p : Fin 8) (e : Nat), tfind s.hub.lns.x1 p.val = some e → 1600 ≤ edgesSince s.hub e →
      exec (.pcieX1L0Timeout p) s = .next (s.onHub fun h =>
        pcieSettled (faults { h with lns := { h.lns with x1 := tdel h.lns.x1 p.val } }
          [.retire 5 p.val 4 (if laneRetired h (64 + 2 * p.val) then 64 + 2 * p.val else 65 + 2 * p.val)]) p.val)) ∧
    (∀ (e : Fin 4) (sig : Bool), bitOf s.hub.tun.ethUp.toNat e.val = true →
      exec (.ethLinkDown e sig) s = .next (s.onHub fun h =>
        let g := { h with tun := { h.tun with ethUp := h.tun.ethUp &&& ~~~(BitVec.ofNat 4 (2 ^ e.val)) } }
        let g := laneRest g (80 + e.val) 0
        if sig then faults g [.add 7 e.val 4 0] else g)) ∧
    (∀ (e : Fin 4) (rate : Fin 3), e.val < s.hub.part.res.eth → retired s.hub 7 e.val = false → laneRetired s.hub (80 + e.val) = false →
      exec (.ethLinkUp ⟨e, rate⟩) s = .next (s.onHub fun h =>
        let b := ethBaud h rate.val
        let g := laneUp (partnerFfe (drawFree h).1 (80 + e.val)) (80 + e.val) b.1 b.2
        { g with tun := { g.tun with ethUp := g.tun.ethUp ||| BitVec.ofNat 4 (2 ^ e.val) } })) ∧
    (∀ (c i : Nat) (id : Nat) (cls : Fin 9) (ix : BitVec 12) (r : Mem × Hub), cls.val = c → ix.toNat = i →
      s.hub.flt.restores.find? (fun r => decide (r.1 = c) && decide (r.2.1 = i) && (findCmd s.hub r.2.2).isSome) = some (c, i, id) →
      (c = 0 → i < 32 → ((((trk s.hub (i / 4)).change.bind (·.waiter)).toList ++
        (trk s.hub (i / 4)).todo.filterMap (fun e => e.2.2)).contains id) = false) →
      (retired s.hub c i = false → ∀ b, exec (.restoreTestEnd cls ix b) s = .next (s.onHub fun h => settleRestores h c i)) ∧
      (retired s.hub c i = true → restoreFit s.hub c i = true → ¬(c = 0 ∧ i < 32 ∧ trkState s.hub (i / 4) = 7) →
        r = restorePass s.mem s.hub c i → exec (.restoreTestEnd cls ix true) s = .next { s with mem := r.1, hub := r.2 }) ∧
      (retired s.hub c i = true → restoreFit s.hub c i = true → c = 0 → i < 32 → trkState s.hub (i / 4) = 7 →
        exec (.restoreTestEnd cls ix true) s = .next (s.onHub fun h => askChange h (i / 4) true (i % 4) (some id))) ∧
      (retired s.hub c i = true → exec (.restoreTestEnd cls ix false) s = .next (s.onHub fun h => resFailed h c i id)))

/-- RES.RESTORE of a present resource whose elements lie in no other open scope completes OK at once when the resource is in service;
for a retired one of classes 0 to 4 and 8, a cellar channel being one of the map, it waits for its test; a retired port of classes 5
to 7 needs none and returns at once when its port lanes are in service, and else fails.
Completion, that exec answers a next state with the command's own effect under hypotheses on the state and the operands
alone, is stated here for: resRestore. -/
def Obligations.RestoreInstruction : Prop :=
  ∀ (s : State) (th : Fin 4) (c : Cmd) (w : IW) (k i : Nat), AtLong s th 0x6B c w → w.operand = 0 → k = w.target / 4096 → i = w.target % 4096 →
    k < 9 → resPresent s.hub k i = true → oConflict s.hub c (resScope k i) = none →
    (retired s.hub k i = false → exec (.resRestore th) s = .next (s.onHub fun h => settle h c.id .ok 0)) ∧
    (∀ g : Hub, g = { beginWait s.hub c w .op with flt := { s.hub.flt with restores := s.hub.flt.restores ++ [(k, i, c.id)] } } →
      retired s.hub k i = true → (k = 3 → (chanMap s.hub).contains i = true) →
      ((k < 5 ∨ k = 8) → exec (.resRestore th) s = .next { s with hub := g }) ∧
      (5 ≤ k → k ≤ 7 → restoreFit g k i = true → exec (.resRestore th) s = .next { s with hub := restoredRes g k i }) ∧
      (5 ≤ k → k ≤ 7 → restoreFit g k i = false → exec (.resRestore th) s = .next { s with hub := resFailed g k i c.id }))

/-- MEM.COPY or MEM.FILL of whole lines that the port may reach takes a channel and waits; COPY_COMPLETE writes the data and ends OK,
and on an unreadable line some of the lines before it and ends FAULT; once a tick in P3 BACKGROUND_TEST tests a region of each
enabled group; a single SRAM_ERROR, or any in a configuration record, is corrected and counted, a double one has its effect and feeds
its bucket; CELLAR_CORRECTION counts, CELLAR_UNCORR poisons, records and watches a line, a second error of a watched row retiring the
channel; PATROL_SCRUB goes on; CELLAR_READY ends training and the zero fill.
Completion, that exec answers a next state with the command's own effect under hypotheses on the state and the operands
alone, is stated here for: memCopy, memFill, copyComplete, backgroundTest, sramError, cellarCorrection, cellarUncorr,
patrolScrub, cellarReady. -/
def Obligations.MemoryCommands : Prop :=
  ∀ s : State, s.hub.runs = true →
    (∀ (th : Fin 4) (c : Cmd) (w : IW), AtLong s th 0x60 c w → w.target = 0 → w.operand % 64 = 0 → hubRangeOk s.hub (w.x 0) w.operand = true →
      hubRangeOk s.hub (w.x 1) w.operand = true → busDenied s.hub (cmdPort s.hub c) (w.x 0) = false →
      busDenied s.hub (cmdPort s.hub c) (w.x 1) = false → (cellarReady s.hub = true ∨ onBus (w.x 0) = true ∧ onBus (w.x 1) = true) →
      exec (.memCopy th) s = .next (s.onHub fun h =>
        let g := takeChannel (beginWait h c w .op) c.id
        { g with mst := { g.mst with copies := g.mst.copies ++ [⟨c.id, false, w.x 0, w.x 1, w.operand⟩] } })) ∧
    (∀ (th : Fin 4) (c : Cmd) (w : IW), AtLong s th 0x61 c w → w.target = 0 → w.operand % 64 = 0 → hubRangeOk s.hub (w.x 0) w.operand = true →
      busDenied s.hub (cmdPort s.hub c) (w.x 0) = false → (cellarReady s.hub = true ∨ onBus (w.x 0) = true) →
      exec (.memFill th) s = .next (s.onHub fun h =>
        let g := takeChannel (beginWait h c w .op) c.id
        { g with mst := { g.mst with copies := g.mst.copies ++ [⟨c.id, true, w.x 1, w.x 0, w.operand⟩] } })) ∧
    (∀ (r : Fin 8) (tag : BitVec 8) (uncorr : Bool) (c : Cmd) (x : Copy) (g : Hub) (d : Hub × List Byte × Bool),
      findTag s.hub r.val tag = some c → s.hub.mst.copies.find? (fun x => decide (x.cmd = c.id)) = some x → channelHeld s.hub c.id = true →
      g = freeChannel { s.hub with mst := { s.hub.mst with copies := s.hub.mst.copies.filter (fun y => decide (y.cmd ≠ c.id)) } } c.id →
      d = copyData s.mem g x →
      (d.2.2 = true → (uncorr = false ∨ x.fill = true) → ∀ v : Mem × Hub, v = writeHub s.mem d.1 (cmdPort s.hub c) x.dst d.2.1 →
        exec (.copyComplete r tag uncorr) s = .next { s with mem := v.1, hub := settle v.2 c.id .ok 0 }) ∧
      ((d.2.2 = false ∨ uncorr = true ∧ x.fill = false) → ∀ (n : Nat) (v : Mem × Hub),
        n = (drawFree d.1).2.toNat % ((if onBus x.src then x.len / 64 else goodLines s.hub x.src x.len) + 1) →
        v = writeHub s.mem (drawFree d.1).1 (cmdPort s.hub c) x.dst (d.2.1.take (64 * n)) →
        exec (.copyComplete r tag uncorr) s = .next { s with mem := v.1, hub := settle v.2 c.id .fault 0 })) ∧
    (∀ fails : List RegionFail, phaseOpen s.hub 3 = true →
      (phaseSuspended s.hub 3 = true →
        exec (.backgroundTest fails) s = .next (s.onHub fun h => (List.range 53).foldl (testGroup fails) (resumed (enterPhase h 3) 3))) ∧
      (phaseSuspended s.hub 3 = false → s.hub.mst.testEdge < s.hub.tim.edges →
        exec (.backgroundTest fails) s = .next (s.onHub fun h =>
          let g := enterPhase h 3
          (List.range 53).foldl (testGroup fails) { g with mst := { g.mst with testEdge := g.tim.edges } }))) ∧
    (∀ x : SramSite, (siteBucket x).1 ≠ 4 ∨ (siteBucket x).2.1 < s.hub.part.res.outputs →
      (∀ double, (double = false ∨ ∃ g b, x = .state g b (some .record)) →
        exec (.sramError x double) s = .next (s.onHub fun h =>
          faults (tally (count h aMemCntSramCorr 1) 0x90 0x0902 1 none) [.add (siteBucket x).1 (siteBucket x).2.1 1 (siteBucket x).2.2])) ∧
      ((∀ g b, x ≠ .state g b (some .record)) →
        exec (.sramError x true) s = .next (s.onHub fun h =>
          faults (sramEffect (raise (count h aMemCntSramUncorr 1) 0x0E 0 0 0) x)
            [.add (siteBucket x).1 (siteBucket x).2.1 8 (siteBucket x).2.2]))) ∧
    (∀ c : Fin 8, channelOn s.hub c.val = true →
      exec (.cellarCorrection c) s = .next (s.onHub fun h =>
        let g := tally (count h (aMemChCntCorr c.val) 1) 0x90 0x0903 1 none
        let n := tget 0 g.mst.corr c.val + 1
        let u := 2 ^ fld g aMemCfg 8 5
        faults { g with mst := { g.mst with corr := tset 0 g.mst.corr c.val (n % u) } } [.add 3 c.val (n / u) 0])) ∧
    (∀ (c : Fin 8) (a : BitVec 64) (row : Nat) (ppr : Bool) (g : Hub), channelOn s.hub c.val = true → chanOf s.hub a.toNat = c.val →
      a.toNat < installedBytes s.hub → tget false s.hub.mst.poison (a.toNat / 64) = false →
      g = raise (wr64 (count { s.hub with mst := { s.hub.mst with poison := tset false s.hub.mst.poison (a.toNat / 64) true } }
        (aMemChCntUncorr c.val) 1) (aMemChErrLo c.val) a.toNat) 0x0E 3 0 c.val →
      ((tget [] g.mst.watch c.val).contains row = true →
        exec (.cellarUncorr c a row ppr) s = .next (s.onHub fun _ => faults g [.add 3 c.val 1 0, .retire 3 c.val 1 0])) ∧
      (∀ (rows : List Nat) (x : Hub), (tget [] g.mst.watch c.val).contains row = false →
        rows = (if 64 ≤ (tget [] g.mst.watch c.val).length then (tget [] g.mst.watch c.val).drop 1 ++ [row]
          else tget [] g.mst.watch c.val ++ [row]) →
        x = setFld { g with mst := { g.mst with watch := tset [] g.mst.watch c.val rows } } (aMemChStatus c.val) 0 7 rows.length →
        exec (.cellarUncorr c a row ppr) s = .next (s.onHub fun _ =>
          faults (if ppr then setFld x (aMemChStatus c.val) 8 8 (min 255 (fld x (aMemChStatus c.val) 8 8 + 1)) else x) [.add 3 c.val 1 0]))) ∧
    (∀ l : List (Fin 8), flag s.hub aMemScrubCfg 31 = true → cellarReady s.hub = true → flag s.hub aMemCellarStatus 30 = false →
      exec (.patrolScrub l) s = .next (s.onHub fun h =>
        let g := l.foldl (fun h c => cellarCorr c.val h) h
        let full := max 1 (fld g aMemScrubCfg 0 8 * 28800000)
        let gone := edgesSince g g.mst.scrubFrom
        let at_ := if full ≤ gone then installedBytes g / 64 else installedBytes g / 64 * gone / full
        let x := moved g 6 false (at_ - g.mst.scrubAt)
        let x := { x with mst := { x.mst with scrubAt := if full ≤ gone then 0 else at_ } }
        if full ≤ gone then
          let y := setFld (setFld x aMemScrubStatus 0 10 0) aMemScrubStatus 16 16 (min 65535 (fld x aMemScrubStatus 16 16 + 1))
          { y with mst := { y.mst with scrubFrom := y.tim.edges } }
        else setFld x aMemScrubStatus 0 10 (gone * 1000 / full))) ∧
    (∀ t : BitVec 8, cellarReady s.hub = false →
      exec (.cellarReady t) s = .next (s.onHub fun h =>
        scrubRestart (setFlag (if fld h aMemCellarStatus 8 8 = 0 then cellarMap h t.toNat else h) aMemCellarStatus 31 true)))

/-- CNT.SELECT and MARK.SET stage their records into the command's transaction or an implicit one; CNT.ARM arms or disarms counters,
clears them on demand and answers the count before; HARVESTER_LATCH in P2 samples the queues, writes the record of the tick to the
buffer and the ring, and is skipped where the previous copy still runs or the buffer's bank is lost; MARK_AGE closes marks open for
8,000 edges with fate 0xFF.
Completion, that exec answers a next state with the command's own effect under hypotheses on the state and the operands
alone, is stated here for: cntSelect, cntArm, markSet, harvesterLatch, markAge. -/
def Obligations.TelemetryCommands : Prop :=
  ∀ s : State,
    (∀ (th : Fin 4) (c : Cmd) (w : IW) (recs : Recs), AtInstr s th 0x58 c w →
      w.target % 256 < bankSize s.hub.part.res (w.target / 256) → onlyBits w.operand 0x8000FFFF = true → (w.o 31 1 = 1 ∨ w.x 0 = 0) →
      selectCode (w.target / 256) (w.target % 256) (w.o 0 16) (decide (w.o 31 1 = 1)) (w.x 0) ≠ 1 →
      selectCode (w.target / 256) (w.target % 256) (w.o 0 16) (decide (w.o 31 1 = 1)) (w.x 0) ≠ 2 →
      recs = [(aTelSelSel (w.target / 256) (w.target % 256), W w.operand), (aTelSelFltLo (w.target / 256) (w.target % 256), W (w.x 0)),
        (aTelSelFltHi (w.target / 256) (w.target % 256), W (w.x 0 / 2 ^ 32))] → mayStage s.hub c recs scGlobal = true →
      exec (.cntSelect th) s = .next (s.onHub fun h => stagedBy h c w recs 0 [] [])) ∧
    (∀ (th : Fin 4) (c : Cmd) (w : IW), AtInstr s th 0x59 c w → 0 < bankSize s.hub.part.res (w.target / 256) →
      (w.target % 256 < bankSize s.hub.part.res (w.target / 256) ∨ w.target % 256 = 255) → w.operand < 4 →
      exec (.cntArm th) s = .next (s.onHub fun h =>
        let b := w.target / 256
        let k := w.target % 256
        let ks := if k = 255 then List.range (bankSize h.part.res b) else k :: chainAbove h b 32 k
        settle (ks.foldl (armOne (decide (w.o 0 1 = 1)) (decide (w.o 1 1 = 1)) b) h) c.id .ok (if k = 255 then 0 else telValue h b k))) ∧
    (∀ (th : Fin 4) (c : Cmd) (w : IW), AtInstr s th 0x5A c w → w.target < 24 → spPresent s.hub.part.res w.target = true →
      onlyBits w.operand 0x1F = true → markRateOk w.operand = true →
      mayStage s.hub c [(aTelMarkCfg w.target, W w.operand)] (scPort w.target) = true →
      exec (.markSet th) s = .next (s.onHub fun h => stagedBy h c w [(aTelMarkCfg w.target, W w.operand)] 0 [] [])) ∧
    (∀ (running bad : Bool) (g : Hub), s.hub.runs = true → phaseOpen s.hub 1 = true → g = resumed (enterPhase s.hub 2) 2 →
      (running = false → phaseSuspended (enterPhase s.hub 2) 2 = false → bitOf g.mst.dpLost 12 = false → bitOf g.mst.dpLost 13 = false →
        ∀ r : Mem × Hub, r = writeRecord_ s.mem (sampleQueues g) bad →
          exec (.harvesterLatch running bad) s = .next { s with mem := r.1, hub := r.2 }) ∧
      (running = true ∨ phaseSuspended (enterPhase s.hub 2) 2 = true → ∀ r : Mem × Hub, r = markLate s.mem g →
        exec (.harvesterLatch running bad) s = .next { s with
          mem := r.1, hub := raise (count { r.2 with tel := { r.2.tel with skipped := r.2.tel.skipped + 1 } } aTelCntSkipped 1) 0x0F 0 0 0 }) ∧
      (running = false → phaseSuspended (enterPhase s.hub 2) 2 = false → (bitOf g.mst.dpLost 12 = true ∨ bitOf g.mst.dpLost 13 = true) →
        exec (.harvesterLatch running bad) s = .next (s.onHub fun _ =>
          raise (count { g with tel := { g.tel with skipped := g.tel.skipped + 1 } } aTelCntSkipped 1) 0x0F 0 0 0))) ∧
    (s.hub.runs = true →
      exec .markAge s = .next (s.onHub fun h => { h with tel := { h.tel with
        open_ := h.tel.open_.filter (fun m => decide (edgesSince h m.edge < 8000)),
        closed := h.tel.closed ++ (h.tel.open_.filter (fun m => decide (8000 ≤ edgesSince h m.edge))).map (fun m => { m with fate := 0xFF }) } }))


/-- In a life-cycle state that allows keys and with the vault not busy, a graft of a fillable slot under a fit parent makes it PENDING
and waits, as do a load of a 72-byte blob and a wrap of a READY slot with current ancestry; the operation that completes first fills,
loads or writes, and its command ends; a kill empties the slot with its GEN up by 1 and answers that; a bind stages KEY_EN and KSLOT of
its end; an import in NURSERY or DEBUG fills a slot with a higher GEN; a sweep makes slots of dead ancestry STALE; and the grace of a
rebind ends after TRK_KEY_GRACE edges.
Completion, that exec answers a next state with the command's own effect under hypotheses on the state and the operands
alone, is stated here for: keyGraft, keyLoad, keyWrap, vaultOpComplete, keyKill, keyBind, keyImport, keyGenerationSweep,
keyGraceEnd. -/
def Obligations.KeyVaultCommands : Prop :=
  ∀ s : State,
    (∀ (th : Fin 4) (c : Cmd) (w : IW), AtLong s th 0x50 c w → w.target < 1024 → onlyBits w.operand 0xF83FF = true →
      (bitOf w.operand 15 = true → w.o 0 10 = 0) → usageOk (w.o 16 4) = true → lcForbids s.hub = false → vaultBusy s.hub w.target = false →
      fillable (slot s.hub w.target) = true → (slot s.hub w.target).gen < 0xFFFFFFFF →
      graftParentBad s.hub (bitOf w.operand 15) (w.o 0 10) = false →
      exec (.keyGraft th) s = .next (s.onHub fun h =>
        queueOp (setSlot h w.target { slot h w.target with state := 1 }) c w
          (.graft c.id w.target (slot h w.target).state (bitOf w.operand 15) (w.o 0 10) (w.o 16 4) (w.x 0 * 2 ^ 64 + w.x 1)))) ∧
    (∀ (th : Fin 4) (c : Cmd) (w : IW), AtLong s th 0x51 c w → w.target < 1024 → w.operand = 72 → lcForbids s.hub = false →
      hubRangeOk s.hub (w.x 0) 72 = true → busDenied s.hub (cmdPort s.hub c) (w.x 0) = false →
      (onBus (w.x 0) = true ∨ cellarReady s.hub = true) → vaultBusy s.hub w.target = false →
      (fillable (slot s.hub w.target) = true →
        exec (.keyLoad th) s = .next (s.onHub fun h =>
          queueOp (setSlot h w.target { slot h w.target with state := 1 }) c w
            (.load c.id w.target (some (slot h w.target).state) (w.x 0)))) ∧
      (fillable (slot s.hub w.target) = false →
        exec (.keyLoad th) s = .next (s.onHub fun h => queueOp h c w (.load c.id w.target none (w.x 0))))) ∧
    (∀ (th : Fin 4) (c : Cmd) (w : IW), AtLong s th 0x52 c w → w.target < 1024 → w.operand = 0 → lcForbids s.hub = false →
      hubRangeOk s.hub (w.x 0) 72 = true → busDenied s.hub (cmdPort s.hub c) (w.x 0) = false →
      (onBus (w.x 0) = true ∨ cellarReady s.hub = true) → vaultBusy s.hub w.target = false →
      (slot s.hub w.target).state = 2 → ancestryCurrent s.hub (slot s.hub w.target) = true →
      exec (.keyWrap th) s = .next (s.onHub fun h => queueOp h c w (.wrap c.id w.target (w.x 0)))) ∧
    (s.hub.runs = true →
      (∀ (u : Bool) (cmd n prev parent usage ctx : Nat) (root : Bool) (rest : List VaultOp),
        s.hub.keys.ops = .graft cmd n prev root parent usage ctx :: rest →
        exec (.vaultOpComplete u) s = .next (s.onHub fun h =>
          tally (finishGraft { h with keys := { h.keys with ops := rest } } cmd n prev root parent usage ctx) 0x80 0x0803 1 none)) ∧
      (∀ (u : Bool) (cmd n addr : Nat) (prev : Option Nat) (rest : List VaultOp), s.hub.keys.ops = .load cmd n prev addr :: rest →
        exec (.vaultOpComplete u) s = .next (s.onHub fun h =>
          finishLoad s.mem { h with keys := { h.keys with ops := rest } } cmd n prev addr u)) ∧
      (∀ (u : Bool) (cmd n addr : Nat) (rest : List VaultOp) (g : Hub) (v : Mem × Hub), s.hub.keys.ops = .wrap cmd n addr :: rest →
        g = { s.hub with keys := { s.hub.keys with ops := rest } } → (slot g n).state = 2 → ancestryCurrent g (slot g n) = true →
        v = writeHub s.mem g (idPort g cmd) addr (blobOf g n) →
        exec (.vaultOpComplete u) s = .next { s with mem := v.1, hub := settle v.2 cmd .ok 72 })) ∧
    (∀ (th : Fin 4) (c : Cmd) (w : IW), AtInstr s th 0x53 c w → w.target < 1024 → w.operand = 0 → lcForbids s.hub = false →
      exec (.keyKill th) s = .next (s.onHub fun h =>
        let g := min 0xFFFFFFFF ((slot h w.target).gen + 1)
        settle (dropOps (setSlot h w.target { KeySlot.empty with gen := g }) w.target) c.id .ok g)) ∧
    (∀ (th : Fin 4) (c : Cmd) (w : IW) (sp tid : Nat) (recs : Recs), AtInstr s th 0x54 c w → w.target < 1024 →
      w.operand < 2 ^ 17 → sp = w.o 12 5 → tid = w.o 0 12 → sp < 24 → spPresent s.hub.part.res sp = true → builtIn sp tid = false →
      lcForbids s.hub = false →
      recs = [(aTunT sp tid, W (putBits (putBits (cfg s.hub (standing s.hub c []) (aTunT sp tid)) 15 1 1) 0 10 w.target))] →
      mayStage s.hub c recs (endScope s.hub (standing s.hub c []) sp tid) = true →
      exec (.keyBind th) s = .next (s.onHub fun h => stagedBy h c w recs 0 [] [aTunT sp tid])) ∧
    (∀ (p : Port) (v : Word) (g : Hub) (key : Nat), s.hub.runs = true → bitOf v.toNat 31 = true →
      g = setFld (setFld s.hub aKeyImportCtl 16 4 (bitsOf v.toNat 16 4)) aKeyImportCtl 0 10 (bitsOf v.toNat 0 10) →
      (g.keys.lc = 1 ∨ g.keys.lc = 3) → g.keys.change = none → usageOk (bitsOf v.toNat 16 4) = true →
      fillable (slot g (bitsOf v.toNat 0 10)) = true → (slot g (bitsOf v.toNat 0 10)).gen < (rd g aKeyImportGen).toNat →
      key = (List.range 8).foldl (fun a k => a + (rd g (aKeyImport k)).toNat * 2 ^ (32 * k)) 0 →
      exec (.keyImport p v) s = .next (s.onHub fun _ =>
        setFld (fillSlot ((List.range 8).foldl (fun h k => wr h (aKeyImport k) 0) (wr g aKeyImportGen 0)) (bitsOf v.toNat 0 10)
          (bitsOf v.toNat 16 4) (nurseryRoot g) 1 true (rootEpoch g) (rd g aKeyImportGen).toNat key []) aKeyImportCtl 28 3 0)) ∧
    (s.hub.runs = true → s.hub.tim.sweepAt ≠ some s.hub.tim.edges → exec .keyGenerationSweep s = .next (s.onHub fun h =>
      let h := atClk h 64000
      let h := { h with tim := { h.tim with sweepAt := some h.tim.edges } }
      keylessScan ((h.keys.slots.map (·.1)).foldl (fun h n =>
        if (slot h n).state = 2 ∧ !ancestryCurrent h (slot h n) then staleSlot h n else h) h))) ∧
    (∀ (sp : Fin 24) (tid : BitVec 12) (old edge : Nat), s.hub.runs = true → tfind s.hub.keys.grace (endKey sp.val tid.toNat) = some (old, edge) →
      fld s.hub (aTrkKeyGrace sp.val) 0 8 ≤ edgesSince s.hub edge →
      exec (.keyGraceEnd sp tid) s = .next (s.onHub fun h =>
        { h with keys := { h.keys with grace := tdel h.keys.grace (endKey sp.val tid.toNat) } }))

/-- A KEY_LC_CMD with its code and a change that the table permits, and that no change precedes, begins the change; one that is not
permitted sets LC_REFUSED and nothing else; when the change takes effect the slots follow the table, the state is the target and
LC_CHANGED sets. A KEY_FUSE_CMD with its code in a base state begins to blow the fuse, which then reads 1.
Completion, that exec answers a next state with the command's own effect under hypotheses on the state and the operands
alone, is stated here for: lcCmd, lcChange, fuseCmd, compatFuseBlown. -/
def Obligations.LifeCycleCommands : Prop :=
  ∀ s : State, s.hub.runs = true →
    (∀ (p : Port) (v : Word), bitsOf v.toNat 16 16 = 0x4C43 → s.hub.keys.change = none → bitsOf v.toNat 0 3 ≠ s.hub.keys.lc →
      (lcPermits s.hub (bitsOf v.toNat 0 3) = true → (lcDestroys s.hub (bitsOf v.toNat 0 3) = true → s.hub.part.epoch.toNat ≠ 255) →
        exec (.lcCmd p v) s = .next (s.onHub fun h => { h with keys := { h.keys with change := some (bitsOf v.toNat 0 3) } })) ∧
      (lcPermits s.hub (bitsOf v.toNat 0 3) = false → exec (.lcCmd p v) s = .next (s.onHub fun h => raise h 0x0D 1 0 0))) ∧
    (∀ t : Nat, s.hub.keys.change = some t →
      exec .lcChange s = .next (s.onHub fun h =>
        let g := lcEffects h t
        raise (keylessScan { g with
          part := { g.part with lcBase := if t = 3 then g.part.lcBase else BitVec.ofNat 3 t }
          keys := { g.keys with lc := t, change := none } }) 0x0D 0 0 0)) ∧
    (∀ (p : Port) (v : Word), bitsOf v.toNat 16 16 = 0x4346 → bitOf v.toNat 0 = true → s.hub.keys.change = none → s.hub.part.compat = false →
      s.hub.keys.lc ≠ 3 → (s.hub.part.lcBase = 0 ∨ s.hub.part.lcBase = 1) →
      exec (.fuseCmd p v) s = .next (s.onHub fun h => { h with keys := { h.keys with fuse := true } })) ∧
    (s.hub.keys.fuse = true →
      exec .compatFuseBlown s = .next (s.onHub fun h => { h with part := { h.part with compat := true }, keys := { h.keys with fuse := false } }))

/-- A rail below WARN puts the hub into hold, which ends eight edges after its last low sample; a feed in range comes on, a lost one
goes off, one over its limit is reported; PWC.ON of a channel that is not retired waits for it, or answers the output of one that is
on; PWC.OFF turns a channel off; DET# changes restart the debounce; a channel that debounced ramps, is good when its output is in the
window, trips in the state of its cause, and comes back after its retry wait; a board's removal returns it to DEBOUNCE; and a shorted
FET retires it.
Completion, that exec answers a next state with the command's own effect under hypotheses on the state and the operands
alone, is stated here for: holdEnter, holdExit, feedPresent, feedLost, feedOver, pwcOn, pwcOff, insertion, rampStart, trip,
powerGood, retryEnd, removal, fetShort. -/
def Obligations.SupplyAndChannelCommands : Prop :=
  ∀ s : State,
    (s.hub.runs = true →
      (∀ (m : Fin 9) (mv : BitVec 16), fld s.hub (aPwrMonLevels m.val) 16 16 ≤ mv.toNat → mv.toNat < fld s.hub (aPwrMonLevels m.val) 0 16 →
        inHold s.hub = false →
        exec (.holdEnter m mv) s = .next (s.onHub fun h =>
          let g := monRead { h with pwr := { h.pwr with holdFrom := h.tim.edges, holdMin := [] } } m.val mv.toNat
          lateLatches (pwrEvent (tally (count (setFlag g aPwrStatus 30 true) aPwrCntHold 1) 0xB0 0x0B01 1 none) 0))) ∧
      (∀ (m : Fin 9) (mv : BitVec 16), fld s.hub (aPwrMonLevels m.val) 16 16 ≤ mv.toNat → inHold s.hub = true →
        mv.toNat < fld s.hub (aPwrMonLevels m.val) 0 16 + fld s.hub (aPwrMonHyst m.val) 0 16 →
        exec (.holdEnter m mv) s = .next (s.onHub fun h => monRead h m.val mv.toNat)) ∧
      (inHold s.hub = true → 8 ≤ edgesSince s.hub s.hub.pwr.holdLow →
        exec .holdExit s = .next (s.onHub fun h =>
          let x := lowestMonitor h
          let g := wr (wr h aPwrHoldLast (W (x.2 * 2 ^ 16 + x.1 * 2 ^ 12))) aPwrHoldTicks (W (edgesSince h h.pwr.holdFrom))
          let g := (List.range 9).foldl (fun h m => setFld h (aPwrMonStatus m) 16 16 0xFFFF) (setFlag g aPwrStatus 30 false)
          pwrEvent { g with pwr := { g.pwr with holdMin := [] } } 1))) ∧
    (∀ (x : Fin 2) (mv : BitVec 16), feedIn s.hub x.val mv.toNat = true → feedOn s.hub x.val = false →
      exec (.feedPresent x mv) s = .next (s.onHub fun h =>
        let g := setFld (setFld h (aPwrFeedStatus x.val) 30 2 3) (aPwrFeedStatus x.val) 0 16 mv.toNat
        let g := { g with pwr := { g.pwr with lost := tset false g.pwr.lost x.val false } }
        if tget false h.pwr.lost x.val then pwrEvent g 3 else g)) ∧
    (∀ x : Fin 2, feedOn s.hub x.val = true →
      exec (.feedLost x) s = .next (s.onHub fun h =>
        let g := setFld h (aPwrFeedStatus x.val) 30 2 0
        pwrEvent { g with pwr := { g.pwr with lost := tset false g.pwr.lost x.val true } } 2) ∧
      exec (.feedOver x) s = .next (s.onHub fun h => pwrEvent h 4)) ∧
    (∀ (th : Fin 4) (c : Cmd) (w : IW) (n : Nat) (g x : Hub), AtLong s th 0x70 c w → w.operand = 0 → n = w.target →
      pwcOnPart s.hub n = true → oConflict s.hub c (resScope 8 n) = none → pwcState s.hub n ≠ 5 →
      g = setFlag s.hub (aPwrPwcStatus n) 26 true →
      (pwcState g n = 3 → exec (.pwcOn th) s = .next (s.onHub fun _ => settle g c.id .ok (fld g (aPwrPwcMeas n) 0 16))) ∧
      (x = (if pwcState g n = 0 then setPwc g n 1 else g) → pwcState x n ≠ 3 → (n < 16 ∨ tget false x.pwr.det n = true) →
        exec (.pwcOn th) s = .next (s.onHub fun _ =>
          let y := beginWait x c w .op
          { y with pwr := { y.pwr with waiting := tset [] y.pwr.waiting n (tget [] y.pwr.waiting n ++ [c.id]) } }))) ∧
    (∀ (th : Fin 4) (c : Cmd) (w : IW) (n : Nat), AtInstr s th 0x71 c w → w.operand = 0 → n = w.target → pwcOnPart s.hub n = true →
      oConflict s.hub c (resScope 8 n) = none →
      (pwcState s.hub n = 5 → exec (.pwcOff th) s = .next (s.onHub fun h => settle h c.id .ok 0)) ∧
      (pwcState s.hub n ≠ 5 → exec (.pwcOff th) s = .next (s.onHub fun h =>
        let x := setPwc (setFlag (setFlag h (aPwrPwcStatus n) 26 false) (aPwrPwcStatus n) 28 false) n 0
        let g := if pwcState h n = 2 ∨ pwcState h n = 3 then gateOff x n else x
        settle (pwcSettle { g with pwr := { g.pwr with retry := tdel g.pwr.retry n } } n .ok 0) c.id .ok 0))) ∧
    (∀ (c : Fin 24) (low : Bool), s.hub.pwr.mode ≠ .off → 16 ≤ c.val → pwcOnPart s.hub c.val = true → tget false s.hub.pwr.det c.val ≠ low →
      exec (.insertion c low) s = .next (s.onHub fun h => pwrEvent { h with pwr := { h.pwr with
        det := tset false h.pwr.det c.val low, detEdge := tput h.pwr.detEdge c.val h.tim.edges } } 8)) ∧
    (∀ (c : Fin 24) (low : Bool), s.hub.pwr.mode = .off → 16 ≤ c.val →
      exec (.insertion c low) s = .next (s.onHub fun h => { h with pwr := { h.pwr with det := tset false h.pwr.det c.val low } })) ∧
    (∀ c : Fin 24, pwcState s.hub c.val = 1 → (c.val < 16 ∨ pwcPresent s.hub c.val = true) → inHold s.hub = false →
      exec (.rampStart c) s = .next (s.onHub fun h =>
        let g := setPwc h c.val 2
        { g with pwr := { g.pwr with rampFrom := tput g.pwr.rampFrom c.val g.tim.edges } })) ∧
    (∀ c : Fin 24, (pwcState s.hub c.val = 2 →
        exec (.trip c 1) s = .next (s.onHub fun h => tripDo c.val 1 h) ∧
        (16 * fld s.hub (aPwrPwcCfg0 c.val) 16 8 ≤ edgesSince s.hub (tget 0 s.hub.pwr.rampFrom c.val) →
          exec (.trip c 4) s = .next (s.onHub fun h => tripDo c.val 4 h))) ∧
      (pwcState s.hub c.val = 3 → ∀ k : BitVec 4, (k = 2 ∨ k = 3 ∨ k = 5) → exec (.trip c k) s = .next (s.onHub fun h => tripDo c.val k.toNat h))) ∧
    (∀ (c : Fin 24) (mv : BitVec 16), pwcState s.hub c.val = 2 → pwcWindow c.val mv.toNat = true →
      8 * fld s.hub (aPwrPwcCfg1 c.val) 0 8 ≤ edgesSince s.hub (tget 0 s.hub.pwr.rampFrom c.val) →
      exec (.powerGood c mv) s = .next (s.onHub fun h =>
        let g := setFld (setFlag (setPwc h c.val 3) (aPwrPwcStatus c.val) 28 true) (aPwrPwcMeas c.val) 0 16 mv.toNat
        let g := pwcSettle (pwrEvent g 7) c.val .ok mv.toNat
        if c.val < 16 then usbPowerGood g c.val else g)) ∧
    (∀ c : Fin 24, pwcState s.hub c.val = 4 → retryLeft s.hub c.val = 0 →
      exec (.retryEnd c) s = .next (s.onHub fun h => { (setPwc h c.val 1) with pwr := { h.pwr with retry := tdel h.pwr.retry c.val } })) ∧
    (∀ c : Fin 24, 16 ≤ c.val → pwcState s.hub c.val = 3 →
      exec (.removal c) s = .next (s.onHub fun h => setPwc (gateOff (detChange c.val false h) c.val) c.val 1)) ∧
    (∀ c : Fin 24, pwcOnPart s.hub c.val = true →
      (∀ e : Nat, tfind s.hub.pwr.gateDown c.val = some e → 400 ≤ edgesSince s.hub e) →
      (pwcState s.hub c.val = 0 ∨ pwcState s.hub c.val = 1 ∨ pwcState s.hub c.val = 4) →
      exec (.fetShort c) s = .next (s.onHub fun h =>
        faults (setFlag (tripDo c.val 6 (pwrEvent h 6)) (aPwrPwcStatus c.val) 25 true) [.retire 8 c.val 1 0]))

/-- PWR.STATE sets Active or Idle, enters Doze when nothing denies it, and enters Off; a junction above 115 °C enters Off, one above
WARN_C is reported; an enabled source wakes the hub from Doze, and from Off an address match, a management port or the timer does so
by a power-on reset; a dock reset of a dock that runs puts its host side into the default state; a trim rewrite that is allowed begins
if its image is readable and valid and else is INVALID, and at its end the store holds the image.
Completion, that exec answers a next state with the command's own effect under hypotheses on the state and the operands
alone, is stated here for: pwrStateActive, pwrStateIdle, pwrStateDoze, pwrStateOff, thermalShutdown, thermalWarn, dozeWake,
sentrySample, offExit, smbusAddressMatch, wakeTimer, dockReset, trimRewrite, trimDone. -/
def Obligations.PowerStateCommands : Prop :=
  ∀ s : State,
    (∀ (th : Fin 4) (c : Cmd) (w : IW), AtLong s th 0x72 c w → w.target = 0 →
      (w.operand = 0 → exec (.pwrStateActive th) s = .next (s.onHub fun h => settle (setFld h aPwrStatus 0 2 0) c.id .ok 0)) ∧
      (w.operand = 1 → exec (.pwrStateIdle th) s = .next (s.onHub fun h => settle (setFld h aPwrStatus 0 2 1) c.id .ok 0)) ∧
      (w.operand = 2 → dozeDenied s.hub c.id = none → ∀ r : Mem × Hub,
        r = dozeEntry s.mem (settle (setFld s.hub aPwrStatus 0 2 0) c.id .ok 0) →
        exec (.pwrStateDoze th) s = .next { s with mem := r.1, hub := r.2 }) ∧
      (w.operand = 3 → exec (.pwrStateOff th) s = .next (s.onHub fun h => enterOff false (settle h c.id .ok 0)))) ∧
    (∀ t : Int, 115 < t → s.hub.pwr.mode ≠ .off →
      exec (.thermalShutdown t) s = .next (s.onHub fun h => enterOff true (setTemp h t))) ∧
    (∀ t : Int, s.hub.runs = true → (fld s.hub aPwrTherm 0 8 : Int) < t →
      exec (.thermalWarn t) s = .next (s.onHub fun h => pwrEvent (setTemp h t) 10)) ∧
    (∀ (src : BitVec 4) (ix : BitVec 5) (all : BitVec 8) (p : Nat), dozing s.hub = true → 1 ≤ src.toNat → src.toNat ≤ 8 →
      p = all.toNat ||| 2 ^ (src.toNat - 1) → (wakeCodes p).find? (wakeEnabled s.hub) = some src.toNat →
      exec (.dozeWake src ix all) s = .next (s.onHub fun h => wakeUp src.toNat ix.toNat p h)) ∧
    (∀ (x : SentrySample) (g : Hub), s.hub.pwr.mode = .doze →
      g = sentryRead x s.hub →
      ((sentryFinds s.hub x).find? (fun e => wakeEnabled g e.1) = none →
        exec (.sentrySample x) s = .next (s.onHub fun _ => g)) ∧
      (∀ e, (sentryFinds s.hub x).find? (fun e => wakeEnabled g e.1) = some e →
        exec (.sentrySample x) s = .next (s.onHub fun _ => wakeUp e.1 e.2 ((sentryFinds s.hub x).foldl (fun p f => p ||| 2 ^ (f.1 - 1)) 0) g))) ∧
    (s.hub.pwr.mode = .off →
      (∀ (src : BitVec 4) (ix : BitVec 5), (src = 1 ∨ src = 5 ∨ src = 7) → wakeEnabled s.hub src.toNat = true →
        exec (.offExit src ix) s = .next { s with
          mem := ⟨[]⟩, hub := wakeRecord (bringUp .offExit (if s.hub.pwr.thermal then 6 else 5) s.hub) false src.toNat ix.toNat (2 ^ (src.toNat - 1)) }) ∧
      (∀ a : BitVec 7, a.toNat = fld s.hub aPwrSbCfg 0 7 → wakeEnabled s.hub 1 = true →
        exec (.smbusAddressMatch a) s = .next { s with
          mem := ⟨[]⟩, hub := wakeRecord (bringUp .offExit (if s.hub.pwr.thermal then 6 else 5) s.hub) false 1 0 1 }) ∧
      (wakeEnabled s.hub 5 = true → (rd s.hub aPwrWakeTimer).toNat ≠ 0 →
        exec .wakeTimer s = .next { s with
          mem := ⟨[]⟩, hub := wakeRecord (bringUp .offExit (if s.hub.pwr.thermal then 6 else 5) s.hub) false 5 0 16 })) ∧
    (∀ a : BitVec 7, dozing s.hub = true → a.toNat = fld s.hub aPwrSbCfg 0 7 → wakeEnabled s.hub 1 = true →
      exec (.smbusAddressMatch a) s = .next (s.onHub fun h => wakeUp 1 0 1 h)) ∧
    (dozing s.hub = true → wakeEnabled s.hub 5 = true → (rd s.hub aPwrWakeTimer).toNat ≠ 0 →
      8 * (rd s.hub aPwrWakeTimer).toNat * 98 ≤ edgesSince s.hub s.hub.pwr.dozeFrom * 100 →
      exec .wakeTimer s = .next (s.onHub fun h => wakeUp 5 0 16 h)) ∧
    (∀ (p : Port) (v : Word) (d : Nat) (g : Hub), s.hub.runs = true → bitOf v.toNat 31 = true → d = bitsOf v.toNat 0 6 →
      g = (if bitOf v.toNat 30 then setFlag (setFld s.hub aPwrDockReset 0 6 d) aPwrDockReset 30 false
        else setFld s.hub aPwrDockReset 0 6 d) → dockCreated g d = true → dockFrozen g d = false →
      exec (.dockReset p v) s = .next (s.onHub fun _ =>
        let x := dockDiscard g d
        let x := (dockPorts x d).foldl (fun h n => pcieLinkDown n h) x
        pwrEvent (usbDefault (hostDefault x d) d) 13)) ∧
    (∀ (p : Port) (v : Word) (r : Hub × List Byte × Bool), s.hub.runs = true → bitsOf v.toNat 16 16 = 0x5452 → bitOf v.toNat 0 = true →
      flag s.hub aPwrTrimStatus 31 = false → s.hub.keys.lc ≠ 0 → s.hub.keys.lc ≠ 4 → r = readHub s.mem s.hub (rd64 s.hub aPwrTrimSrcLo) 65536 →
      exec (.trimRewrite p v) s = .next (s.onHub fun _ =>
        if r.2.2 = true ∧ trimValid (some r.2.1) = true then
          let g := setFlag r.1 aPwrTrimStatus 31 true
          { g with pwr := { g.pwr with trimNew := some r.2.1 } }
        else trimRefused r.1 .invalid)) ∧
    (∀ (f : Bool) (img : List Byte), s.hub.runs = true → s.hub.pwr.trimNew = some img →
      exec (.trimDone f) s = .next (s.onHub fun h =>
        let g := setFld (setFlag h aPwrTrimStatus 31 false) aPwrTrimStatus 0 3 (if f then 7 else 0)
        pwrEvent { g with pwr := { g.pwr with trim := some (if f then [] else img), trimNew := none } } 12))

/-- A power-on reset empties the cellar and brings the hub up with cause 0, or 1 where the always-on regulator passed its limit; a
brown-out of a rail that acts does so with cause 2; a rail that fails in bring-up drops every enable and counts, and the retry
repeats the bring-up; RESET# holds the core, and its release brings it up with the cellar as it was; HALT mode 2 with its key starts
a software reset, after which Turner runs.
Completion, that exec answers a next state with the command's own effect under hypotheses on the state and the operands
alone, is stated here for: powerOnReset, brownOut, railFail, railRetry, warmReset, warmResetRelease, haltMode2. -/
def Obligations.Resets : Prop :=
  ∀ s : State,
    (∀ lim : Bool, exec (.powerOnReset lim) s = .next { s with mem := ⟨[]⟩, hub := bringUp .powerOn (if lim then 1 else 0) s.hub }) ∧
    (∀ m : Fin 9, m.val < 8 → s.hub.pwr.mode ≠ .off → s.hub.pwr.mode ≠ .railWait →
      (s.hub.pwr.mode = .doze → m.val = 0 ∨ m.val = 2 ∨ m.val = 6 ∨ m.val = 7) →
      exec (.brownOut m) s = .next { s with mem := ⟨[]⟩, hub := setFld (bringUp .brownOut 2 s.hub) aPwrResetCause 8 4 m.val }) ∧
    (∀ m : Fin 9, s.hub.pwr.mode ≠ .off → s.hub.pwr.mode ≠ .railWait →
      exec (.railFail m) s = .next (s.onHub fun h =>
        let g := setFld h aPwrResetCause 16 16 (min 65535 (fld h aPwrResetCause 16 16 + 1))
        let g := setFld g aPwrResetCause 8 4 m.val
        { g with pwr := { g.pwr with mode := .railWait } })) ∧
    (s.hub.pwr.mode = .railWait →
      exec .railRetry s = .next { s with mem := ⟨[]⟩, hub := bringUp .brownOut (fld s.hub aPwrResetCause 0 3) s.hub }) ∧
    (s.hub.runs = true → exec .warmReset s = .next (s.onHub fun h =>
      let g := selfRefresh h true
      { g with trn := { g.trn with linkUp0 := false, linkUp1 := false }, pwr := { g.pwr with mode := .warm } })) ∧
    (s.hub.pwr.mode = .warm →
      exec .warmResetRelease s = .next (s.onHub fun h => selfRefresh (showRetired (setFld (seedsLoad (warmHub h)) aPwrResetCause 0 3 3)) false)) ∧
    (∀ (th : Fin 4) (c : Cmd) (w : IW), AtInstr s th 0x07 c w → w.target = 0 → w.operand = 0xC0DE0002 → c.tp = none →
      exec (.haltMode2 th) s = .next (s.onHub fun h =>
        let g := softHub (softLanes (softTrunks h))
        setFld (setFlag ((createdDocks g).foldl usbDefault g) aTrnCtl 0 true) aPwrResetCause 0 3 4))


/-- With operands in their ranges and the transaction's checks passed, USB.ASSIGN stages the port's record, EPM.CARVE the three of the
buffer, VDK.CREATE the dock's and its allowances as a record that opens, VDK.RESIZE the new mask and allowances; VDK.DESTROY of a
dock that holds nothing, or with FORCE, discards the dock's packets at once and submits its internal transaction.
Completion, that exec answers a next state with the command's own effect under hypotheses on the state and the operands
alone, is stated here for: usbAssign, epmCarve, vdkCreate, vdkResize, vdkDestroy. -/
def Obligations.DockInstructions : Prop :=
  ∀ (s : State) (th : Fin 4) (c : Cmd) (w : IW) (recs : Recs) (extra : Scope),
    (AtInstr s th 0x38 c w → onlyBits w.operand 0x80000F3F = true → w.target < 16 → usbPresent s.hub.part.res w.target = true →
      w.o 0 6 < s.hub.part.res.docks → (w.o 31 1 = 1 → w.o 8 4 ≠ 0 ∧ w.o 8 4 ≠ 15) → recs = [(aUsbPortAssign w.target, W w.operand)] →
      extra = ((scPort 20).union (scDock (w.o 0 6))).union
        (if bitOf (cfg s.hub (standing s.hub c []) (aUsbPortAssign w.target)) 31 then
          scDock (bitsOf (cfg s.hub (standing s.hub c []) (aUsbPortAssign w.target)) 0 6) else Scope.empty) →
      mayStage s.hub c recs extra = true →
      exec (.usbAssign th) s = .next (s.onHub fun h => stagedBy h c w recs 0 [] [])) ∧
    (AtInstr s th 0x39 c w → onlyBits w.operand 0x8000003F = true → onlyBits (w.x 0) 0x0007FFFF0007FFFF = true → w.target < 256 →
      w.o 0 6 < s.hub.part.res.docks → bitsOf (w.x 0) 0 19 % 64 = 0 → bitsOf (w.x 0) 32 19 % 64 = 0 →
      (w.o 31 1 = 1 → 1088 ≤ bitsOf (w.x 0) 32 19 ∧ bitsOf (w.x 0) 32 19 ≤ 262144 ∧ bitsOf (w.x 0) 0 19 + bitsOf (w.x 0) 32 19 ≤ 524288) →
      recs = [(aUsbEpmCtl w.target, W w.operand), (aUsbEpmOffset w.target, W (bitsOf (w.x 0) 0 19)), (aUsbEpmLength w.target, W (bitsOf (w.x 0) 32 19))] →
      extra = ((scPort 20).union (scDock (w.o 0 6))).union
        (if bitOf (cfg s.hub (standing s.hub c []) (aUsbEpmCtl w.target)) 31 then
          scDock (bitsOf (cfg s.hub (standing s.hub c []) (aUsbEpmCtl w.target)) 0 6) else Scope.empty) →
      mayStage s.hub c recs extra = true →
      exec (.epmCarve th) s = .next (s.onHub fun h => stagedBy h c w recs 0 [] [])) ∧
    (AtInstr s th 0x40 c w → w.operand < 256 → allowOk (w.x 0) = true → w.target < s.hub.part.res.docks → dockState s.hub w.target ≠ 5 →
      recs = (aVdkCfg w.target, W (2 ^ 31 + w.operand)) :: allowRecs w.target (w.x 0) →
      extra = (scDock w.target).union (scTrunks (maskIn s.hub (standing s.hub c []) w.target ||| w.operand)) →
      mayStage s.hub c recs extra = true →
      exec (.vdkCreate th) s = .next (s.onHub fun h => stagedBy h c w recs 0 [aVdkCfg w.target] [])) ∧
    (∀ old new_ : Nat, AtInstr s th 0x42 c w → w.operand < 256 → allowOk (w.x 0) = true → w.target < s.hub.part.res.docks →
      dockState s.hub w.target ≠ 5 → bitOf (cfg s.hub (standing s.hub c []) (aVdkCfg w.target)) 31 = true → moveRuns s.hub w.target = false →
      old = maskIn s.hub (standing s.hub c []) w.target → new_ = (if w.operand = 0 then old else w.operand) →
      recs = (if w.operand = 0 then [] else [(aVdkCfg w.target, W (2 ^ 31 + new_))]) ++ allowRecs w.target (w.x 0) ++
        (if lowest old < 8 ∧ lowest new_ < 8 ∧ lowest old ≠ lowest new_ then
          rehome s.hub (standing s.hub c []) w.target (lowest old) (lowest new_) else []) →
      extra = (scDock w.target).union (scTrunks (old ||| new_)) → mayStage s.hub c recs extra = true →
      exec (.vdkResize th) s = .next (s.onHub fun h => stagedBy h c w recs 0 [] [])) ∧
    (AtLong s th 0x41 c w → w.operand < 2 → w.target < s.hub.part.res.docks → dockState s.hub w.target ≠ 0 →
      (w.operand = 1 ∨ dockHolds s.hub w.target = false) → rackRuns s.hub w.target true = false → rackRuns s.hub w.target false = false →
      dockState s.hub w.target ≠ 5 → oConflict s.hub c (scDock w.target) = none →
      exec (.vdkDestroy th) s = .next (s.onHub fun h =>
        let g := dockDiscard (setDockState (endFreeze h w.target) w.target 5) w.target
        beginWait (submit g (.internal (.destroy w.target (decide (w.operand = 1)))) (cmdPort g c)
          (destroyRecs g w.target (decide (w.operand = 1))) (some c.id) [] []) c w .op))

/-- RACK.FREEZE of a running dock with no move or fence makes it freezing and tells its trunks; the grace ends at the second edge with
every item settled, the dock frozen, and the command OK with the number of recorded requests; RACK.SAVE of a frozen dock starts an
operation whose completion writes the encrypted image, counts the save and ends OK with its length; RACK.RESTORE makes the dock
restoring, and an image whose header passes its checks becomes an internal transaction or, its tag being wrong, fails with detail 0x0622; RACK.THAW of a frozen dock submits one. The layout
of image sections is the model's (log entry 40).
Completion, that exec answers a next state with the command's own effect under hypotheses on the state and the operands
alone, is stated here for: rackFreeze, graceEnd, rackSave, saveComplete, rackRestore, imageChecked, rackThaw. -/
def Obligations.RackingCommands : Prop :=
  ∀ s : State,
    (∀ (th : Fin 4) (c : Cmd) (w : IW) (d : Nat), AtLong s th 0x44 c w → w.operand = 0 → d = w.target → d < s.hub.part.res.docks →
      dockState s.hub d = 1 → moveRuns s.hub d = false → tfind s.hub.swc.fences d = none → s.hub.swc.waiting.contains d = false →
      oConflict s.hub c (scDock d) = none →
      exec (.rackFreeze th) s = .next (s.onHub fun h =>
        let g := wr64 (setFlag (setDockState h d 2) (aVdkStatus d) 9 false) (aVdkFreezeTickLo d) (tickNo h)
        let g := { g with dck := { g.dck with
          freezeCmd := tput g.dck.freezeCmd d c.id, freezeEdge := tput g.dck.freezeEdge d g.tim.edges } }
        beginWait (dockStateAll g (dockMask g d) d 2) c w .op)) ∧
    (∀ (d : Fin 64) (e id : Nat) (r : Hub × List Frozen), s.hub.runs = true → tfind s.hub.dck.freezeEdge d.val = some e → dockState s.hub d.val = 2 →
      2 ≤ edgesSince s.hub e → r = settleDock s.hub d.val → tfind s.hub.dck.freezeCmd d.val = some id →
      exec (.graceEnd d) s = .next (s.onHub fun _ =>
        let g := { r.1 with dck := { r.1.dck with
          freeze := tset [] r.1.dck.freeze d.val r.2, freezeEdge := tdel r.1.dck.freezeEdge d.val, freezeCmd := tdel r.1.dck.freezeCmd d.val } }
        settle (raise (wr (setDockState g d.val 3) (aVdkRackStatus d.val) (W r.2.length)) 0x0C 0 d.val 0) id .ok r.2.length)) ∧
    (∀ (th : Fin 4) (c : Cmd) (w : IW) (op : RackOp), AtLong s th 0x45 c w → w.operand < 1024 → w.target < s.hub.part.res.docks →
      op = ⟨c.id, w.target, true, w.x 0, w.operand, 0, tickNo s.hub⟩ → hubRangeOk s.hub (w.x 0) (imageOf s.mem s.hub op).length = true →
      busDenied s.hub (cmdPort s.hub c) (w.x 0) = false → dockState s.hub w.target = 3 → keyOk s.hub w.operand 3 = true →
      s.hub.dck.ops.length < 16 → oConflict s.hub c (scDock w.target) = none →
      exec (.rackSave th) s = .next (s.onHub fun h => rackStart (setFlag h (aVdkStatus w.target) 8 true) c w op)) ∧
    (∀ (d : Fin 64) (op : RackOp) (wins : List (Nat × Nat)) (g : Hub) (image : List Byte) (r : Mem × Hub), s.hub.runs = true →
      s.hub.dck.ops.find? (fun o => decide (o.dock = d.val) && o.save) = some op → channelHeld s.hub op.cmd = true → dockPending s.hub d.val = false →
      (inHold s.hub = false ∨ onBus op.addr = true) → (cellarReady s.hub = true ∨ onBus op.addr = true) → keyOk s.hub op.slot 3 = true →
      wins = (if flag s.hub (aVdkRackCfg d.val) 0 then windowsOf s.hub s.hub.regs d.val else []) →
      g = wr64 s.hub aVdkSaveCountLo (rd64 s.hub aVdkSaveCountLo + 1) → wins.any (fun x => rangeBad g x.1 x.2) = false →
      image = imageOf s.mem g op → hubRangeOk g op.addr image.length = true →
      r = writeHub s.mem (moved g 4 false (wins.foldl (fun n x => n + x.2 / 64) 0)) (idPort s.hub op.cmd) op.addr image →
      exec (.saveComplete d false) s = .next { s with
        mem := r.1, hub := settle (raise (rackEnd (wr64 r.2 (aVdkImageLenLo d.val) image.length) op) 0x0C 1 d.val 0) op.cmd .ok image.length }) ∧
    (∀ (th : Fin 4) (c : Cmd) (w : IW) (d : Nat), AtLong s th 0x46 c w → onlyBits w.operand 0x00FF03FF = true → d = w.target →
      d < s.hub.part.res.docks → hubRangeOk s.hub (w.x 0) 256 = true → busDenied s.hub (cmdPort s.hub c) (w.x 0) = false → (dockState s.hub d = 0 ∨ dockState s.hub d = 3) →
      keyOk s.hub (w.o 0 10) 3 = true → s.hub.dck.ops.length < 16 → oConflict s.hub c (scDock d) = none →
      exec (.rackRestore th) s = .next (s.onHub fun h =>
        rackStart (setDockState h d 4) c w ⟨c.id, d, false, w.x 0, w.o 0 10, w.o 16 8, tickNo h⟩)) ∧
    (∀ (d : Fin 64) (op : RackOp) (r0 r : Hub × List Byte × Bool) (hdr : List Byte) (len : Nat), s.hub.runs = true →
      s.hub.dck.ops.find? (fun o => decide (o.dock = d.val) && !o.save) = some op → channelHeld s.hub op.cmd = true →
      tfind s.hub.dck.image d.val = none → (cellarReady s.hub = true ∨ onBus op.addr = true) →
      r0 = readHub s.mem s.hub op.addr 256 → r0.2.2 = true → hdr = r0.2.1 → len = imageNat hdr 8 8 → imageLayout hdr = true →
      hubRangeOk s.hub op.addr len = true → keyOk s.hub op.slot 3 = true → r = readHub s.mem r0.1 (op.addr + 256) (len - 256) → r.2.2 = true →
      bitOf (imageNat hdr 6 2) 1 = flag r.1 aTopResourcesMem 15 → (op.mask = 0 ∨ popcount 8 op.mask = popcount 8 (imageNat hdr 25 1)) →
      exec (.imageChecked d false) s = .next (s.onHub fun _ =>
        match gcmOpen (slot r.1 op.slot).key.toNat (beNat (toNats ((hdr.drop 68).take 12))) (toNats hdr) (toNats (r.2.1.take (len - 272)))
          (beNat (toNats (r.2.1.drop (len - 272)))) with
        | none => raise (restoreFail r.1 op .invalid 0x0622) 0x0C 4 d.val 0
        | some opened =>
          let recs := restoreRecs r.1 op (hdr ++ toBytes opened)
          let wins := windowsOf r.1 (lay r.1.part (projected r.1) recs) d.val
          if bitOf (imageNat hdr 6 2) 0 = true ∧ (imageSection (hdr ++ toBytes opened) 5).length ≠ wins.foldl (fun n x => n + x.2) 0 then
            raise (restoreFail r.1 op .invalid 0x0621) 0x0C 4 d.val 0
          else
            let g := { r.1 with dck := { r.1.dck with image := tput r.1.dck.image d.val (hdr ++ toBytes opened) } }
            submit g (.internal (.restore d.val)) (idPort g op.cmd) recs (some op.cmd) [] [])) ∧
    (∀ (th : Fin 4) (c : Cmd) (w : IW), AtLong s th 0x47 c w → w.operand = 0 → w.target < s.hub.part.res.docks → dockState s.hub w.target = 3 →
      rackRuns s.hub w.target true = false → oConflict s.hub c (scDock w.target) = none →
      exec (.rackThaw th) s = .next (s.onHub fun h =>
        beginWait (submit h (.internal (.thaw w.target)) (cmdPort h c) [] (some c.id) [] []) c w .op))


/-- The first packet of an ingress port that nothing keeps back takes its cells, is marked and routed, or is held by the move of its end;
where none is, nothing enters; an open barrel of 16 cells, or
2 us old, is written to the cellar; every batch matched is admitted; the fence of a waiting dock whose map changes starts with its
number in its status and its message on each ACTIVE trunk; acknowledgements count; it closes when its three conditions hold, or at
its time-out with what is bound for the old members discarded and counted.
Completion, that exec answers a next state with the command's own effect under hypotheses on the state and the operands
alone, is stated here for: packetEntry, barrelWrite, relink, fenceStart, fenceAck, fenceEnd, fenceTimeout. -/
def Obligations.SwitchCoreCommands : Prop :=
  ∀ s : State, s.hub.runs = true →
    (∀ (j : Fin 24) (p : Pkt) (ps : List Pkt) (rest g : Hub), nextEntry s.hub j.val [] (tget [] s.hub.swc.entry j.val) = some (p, ps) →
      rest = { s.hub with swc := { s.hub.swc with entry := tset [] s.hub.swc.entry j.val ps } } →
      (heldMove s.hub p = none → g = (let r := placePkt rest p; let e := markEntry r.1 r.2; routeIn e.1 e.2)) →
      (∀ m, heldMove s.hub p = some m → g = { rest with tun := { rest.tun with
        moves := rest.tun.moves.map (fun x => if x = m then { x with held := x.held ++ [p] } else x) } }) →
      exec (.packetEntry j) s = .next (s.onHub fun _ => if j.val = 20 then usbEntered g else g)) ∧
    (∀ j : Fin 24, nextEntry s.hub j.val [] (tget [] s.hub.swc.entry j.val) = none →
      exec (.packetEntry j) s = .next (s.onHub fun h => if j.val = 20 then usbEntered h else h)) ∧
    (∀ (q : Fin 4096) (k : Nat) (x : Queue), x = queueAt s.hub q.val → x.openSlot = some k → x.openCells ≠ [] →
      (x.openCells.length = 16 ∨ x.openFrom + 3200 ≤ s.hub.tim.coreClk) →
      exec (.barrelWrite q) s = .next { s with mem := (writeBarrel s.mem s.hub q.val).1, hub := (writeBarrel s.mem s.hub q.val).2 }) ∧
    (∀ r : Mem × Hub, r = s.hub.swc.batches.foldl (fun mh e => e.2.foldl takeIn mh) (s.mem, { s.hub with swc := { s.hub.swc with batches := [] } }) →
      exec .relink s = .next { s with mem := r.1, hub := r.2 }) ∧
    (∀ (d : Fin 64) (m old : List Nat) (f : Fence) (g : Hub), s.hub.swc.waiting.contains d.val = true → tfind s.hub.swc.fences d.val = none →
      s.hub.swc.fences.length < 8 →
      g = setFlag { s.hub with swc := { s.hub.swc with waiting := s.hub.swc.waiting.filter (· ≠ d.val) } } (aSwcGrpStatus d.val) 30 false →
      newMap g d.val (dockMask s.hub d.val) = some m → old = (List.range 256).map (mapTrunk g d.val) → (m ≠ old ∨ mapMask g d.val ≠ dockMask s.hub d.val) →
      f = ⟨fenceNo g, mapMask g d.val, dockMask s.hub d.val, m,
        BitVec.ofNat 256 (maskOf 256 (fun b => decide ((m[b]?).getD 8 ≠ (old[b]?).getD 8))), 0, g.tim.edges, [], []⟩ →
      exec (.fenceStart d) s = .next (s.onHub fun _ =>
        let h := setFld g aSwcFenceStatus 16 16 ((f.no + 1) % 65536)
        let h := setFld (setFlag h (aSwcGrpStatus d.val) 31 true) (aSwcGrpStatus d.val) 0 16 f.no
        let h := { h with swc := { h.swc with fences := tput h.swc.fences d.val f } }
        (members (f.oldMask ||| f.newMask)).foldl (fun h n =>
          if trkState h n = 7 then
            sendControl h n 3 64 [f.no * 2 ^ 48 + d.val * 2 ^ 40 + f.oldMask * 2 ^ 32 + f.newMask * 2 ^ 24] else h) h)) ∧
    (∀ (n : Fin 8) (u : BitVec 64) (f : Fence), tfind s.hub.swc.fences (bitsOf u.toNat 40 6) = some f → f.no = bitsOf u.toNat 48 16 →
      bitOf (f.oldMask ||| f.newMask) n.val = true →
      exec (.fenceAck n u) s = .next (s.onHub fun h => { h with swc := { h.swc with
        fences := tput h.swc.fences (bitsOf u.toNat 40 6) { f with
          acked := f.acked ||| 2 ^ n.val, upto := if bitOf f.acked n.val then f.upto else tput f.upto n.val h.swc.nextPkt } } })) ∧
    (∀ (d : Fin 64) (f : Fence), tfind s.hub.swc.fences d.val = some f → fenceOver s.hub d.val f = true →
      exec (.fenceEnd d) s = .next (s.onHub fun h => fenceClose h d.val f)) ∧
    (∀ (d : Fin 64) (f : Fence) (r : Hub × List Pkt), tfind s.hub.swc.fences d.val = some f →
      fld s.hub aSwcFenceCfg 16 8 ≤ edgesSince s.hub f.edge → r = purge s.hub (oldBound s.hub d.val f) →
      exec (.fenceTimeout d) s = .next (s.onHub fun _ =>
        raise (fenceClose (r.2.foldl (fun h p => count h (aSwcCntLost p.egr) 1) r.1) d.val f) 0x08 4 0 0))

/-- With operands in their ranges and the transaction's checks passed, BW.ALLOT stages a dock or class weight, SHP.SET and POL.SET
the five words of a shaper or policer, and Q.MAP the mapping of a queue.
Completion, that exec answers a next state with the command's own effect under hypotheses on the state and the operands
alone, is stated here for: bwAllot, shpSet, polSet, qMap. -/
def Obligations.TrafficInstructions : Prop :=
  ∀ (s : State) (th : Fin 4) (c : Cmd) (w : IW) (recs : Recs) (extra : Scope),
    (AtInstr s th 0x28 c w → onlyBits w.operand 0xFFFF0F1F = true → w.target < 64 → w.target < s.hub.part.res.docks → w.o 0 5 ≤ 20 →
      spPresent s.hub.part.res (w.o 0 5) = true → w.o 16 16 ≠ 0 →
      recs = [(if w.o 8 1 = 1 then aTmgCw w.target (w.o 0 5) (w.o 9 3) else aTmgDw w.target (w.o 0 5), W (w.o 16 16))] →
      extra = (scDock w.target).union (scPort (w.o 0 5)) → mayStage s.hub c recs extra = true →
      exec (.bwAllot th) s = .next (s.onHub fun h => stagedBy h c w recs 0 [] [])) ∧
    (AtInstr s th 0x29 c w → w.o 30 1 = 1 → onlyBits w.operand 0x7000001F = true → w.o 28 2 ≠ 3 → slopesOk (w.x 0) (w.x 1) = true →
      w.target < 64 → w.target < s.hub.part.res.docks → w.o 0 5 ≤ 20 → spPresent s.hub.part.res (w.o 0 5) = true →
      recs = fiveWords (aTmgDsIdle w.target (w.o 0 5)) (w.x 0) (w.x 1) (w.o 28 2) →
      extra = (scDock w.target).union (scPort (w.o 0 5)) → mayStage s.hub c recs extra = true →
      exec (.shpSet th) s = .next (s.onHub fun h => stagedBy h c w recs 0 [] [])) ∧
    (AtInstr s th 0x29 c w → w.o 30 1 ≠ 1 → onlyBits w.operand 0x30000000 = true → w.o 28 2 ≠ 3 → slopesOk (w.x 0) (w.x 1) = true →
      w.target < s.hub.part.res.queues → recs = fiveWords (aTmgQsIdle w.target) (w.x 0) (w.x 1) (w.o 28 2) →
      extra = queueScope s.hub (standing s.hub c []) w.target → mayStage s.hub c recs extra = true →
      exec (.shpSet th) s = .next (s.onHub fun h => stagedBy h c w recs 0 [] [])) ∧
    (AtInstr s th 0x2A c w → onlyBits w.operand 0x31F = true → w.target < 1024 → w.target % 16 ≤ 8 → w.target / 16 < s.hub.part.res.docks →
      w.o 0 5 < 24 → spPresent s.hub.part.res (w.o 0 5) = true → slopesOk (w.x 0) (w.x 1) = true →
      recs = fiveWords (aTmgPlIdle w.target) (w.x 0) (w.x 1) w.operand → extra = scPort (w.o 0 5) → mayStage s.hub c recs extra = true →
      exec (.polSet th) s = .next (s.onHub fun h => stagedBy h c w recs 0 [] [])) ∧
    (AtInstr s th 0x2B c w → onlyBits w.operand 0x80073F1F = true → w.target < s.hub.part.res.queues → w.o 8 6 < s.hub.part.res.docks →
      recs = [(aTmgQmap w.target, W w.operand)] →
      extra = ((scDock (w.o 8 6)).union (if w.o 0 5 < 24 ∧ spPresent s.hub.part.res (w.o 0 5) then scPort (w.o 0 5) else Scope.empty)).union
        (if queueMapped s.hub (projected s.hub) w.target then queueScope s.hub (projected s.hub) w.target else Scope.empty) →
      mayStage s.hub c recs extra = true →
      exec (.qMap th) s = .next (s.onHub fun h => stagedBy h c w recs 0 [] []))

/-- A direct port with nothing under way sends the packet its selection names; a tree port sends its system queue's head first and
else charges and sends the head its tree selects, its shapers starting with it; a read barrel joins the drained part or is lost; each
cell slot advances the core clock by 4, classifies slots, moves shapers and matches; P1, once P0 is over, brings idle tags forward, its suspended work
first; a PAUSE is counted
and, where enabled, holds the port until its time ends.
Completion, that exec answers a next state with the command's own effect under hypotheses on the state and the operands
alone, is stated here for: packetSelect, barrelRead, spindleMatch, p1Allot, pauseFrame, pauseEnd. -/
def Obligations.EgressCommands : Prop :=
  ∀ s : State, s.hub.runs = true →
    (∀ (j : Fin 24) (p : Pkt) (g : Hub), tget 0 s.hub.tel.busy j.val = 0 → portUp s.hub j.val = true → 21 ≤ j.val → g = dropLost s.hub j.val →
      directNext g j.val = some p →
      exec (.packetSelect j) s = .next (
        let r := depart s.mem { g with swc := { g.swc with direct := tmod [] g.swc.direct (j.val * 4 + p.pass) (fun l => l.drop 1) } } p
        { s with mem := r.1, hub := r.2 })) ∧
    (∀ (j : Fin 24) (p : Pkt) (g : Hub), tget 0 s.hub.tel.busy j.val = 0 → portUp s.hub j.val = true → j.val ≤ 20 →
      g = refresh (dropLost s.hub j.val) j.val → sysNext g j.val = some p → sinkOk g j.val p = true →
      exec (.packetSelect j) s = .next (
        let r := depart s.mem (count { g with swc := { g.swc with sysq := tmod [] g.swc.sysq j.val (fun l => l.erase p) } } (aTmgCntSysq j.val) 1) p
        { s with mem := r.1, hub := r.2 })) ∧
    (∀ (j : Fin 24) (x : Head) (g h : Hub) (len : Nat) (y : Hub → Nat → Hub) (r : Mem × Hub), tget 0 s.hub.tel.busy j.val = 0 → portUp s.hub j.val = true → j.val ≤ 20 →
      g = refresh (dropLost s.hub j.val) j.val → (∀ p, sysNext g j.val = some p → sinkOk g j.val p = false) →
      selectHead g j.val ((heads g j.val).filter Head.ok) = some x →
      len = pktLength g j.val x.p → h = charge (charge (charge g (kDock j.val x.d) len) (kClass j.val x.d x.c) len) x.q len →
      y = (fun h k => setShaper h k (shaperStart (shSet h (shAddr k)) (shaper h k) len)) →
      r = depart s.mem (removeHead (y (y h (shKeyQueue x.q)) (shKeyDock x.d j.val)) x.q) { x.p with casks := headCasks (y (y h (shKeyQueue x.q)) (shKeyDock x.d j.val)) x.q x.p } →
      exec (.packetSelect j) s = .next { s with mem := r.1, hub := refresh r.2 j.val }) ∧
    (∀ (j : Fin 24) (u : Bool) (r : Hub × List Pkt), r = barrelRead j.val u s.mem s.hub →
      exec (.barrelRead j u) s = .next (s.onHub fun _ => failLost r.1 r.2)) ∧
    (exec .spindleMatch s = .next (s.onHub fun h =>
      spindle ((List.range 21).foldl refresh (shaperSlots ((List.range 24).foldl portSlot (runTo h (h.tim.coreClk + 4))))))) ∧
    (∀ (g : Hub) (known all : List Nat), phaseOpen s.hub 0 = true → g = enterPhase s.hub 1 → phaseSuspended g 1 = false →
      known = (List.range 21).flatMap (fun j => (heads g j).flatMap (fun x => [x.q, kClass j x.d x.c, kDock j x.d])) →
      all = ((g.tmg.nodes.filter (fun e => !e.2.eligible)).map (·.1) ++ (known.filter (fun k => !(node g k).eligible &&
        (g.tmg.vtime.map (·.1)).contains (parentOf g k)))).eraseDups →
      exec .p1Allot s = .next (s.onHub fun _ =>
        let x := all.foldl (fun h k =>
          let v := vtime h (parentOf h k)
          if later (node h k).f v then h else setNode h k { node h k with f := v }) g
        setFld x aTmgSlots 0 16 (x.tim.tickLen / 4))) ∧
    (∀ g : Hub, phaseOpen s.hub 0 = true → g = enterPhase s.hub 1 → phaseSuspended g 1 = true →
      exec .p1Allot s = .next (s.onHub fun _ => allot (allot (resumed g 1)))) ∧
    (∀ (n : Fin 4) (q : BitVec 16) (g : Hub), portUp s.hub (16 + n.val) = true → g = raise (count s.hub (aTmgCntPause (16 + n.val)) 1) 0x09 1 0 0 →
      (flag g (aTmgPortCfg (16 + n.val)) 16 = false → exec (.pauseFrame n q) s = .next (s.onHub fun _ => g)) ∧
      (flag g (aTmgPortCfg (16 + n.val)) 16 = true →
        exec (.pauseFrame n q) s = .next (s.onHub fun _ =>
          wr { g with tmg := { g.tmg with pauseAt := tset 0 g.tmg.pauseAt n.val g.tim.coreClk } } (aTmgPortStatus (16 + n.val))
            (if q.toNat = 0 then 0 else W (2 ^ 31 + q.toNat))))) ∧
    (∀ n : Fin 4, exec (.pauseEnd n) s = .next (s.onHub fun h => wr h (aTmgPortStatus (16 + n.val)) 0))


/-- With operands in their ranges and the transaction's checks passed, TUN.OPEN stages word 0 of an end and answers its TID, TUN.CLOSE
stages both words of an open end at reset, TUN.ROUTE its route; TUN.MOVE of a trunk end of a dock of one trunk to that dock's trunk
submits an internal transaction with the records of the move and waits.
Completion, that exec answers a next state with the command's own effect under hypotheses on the state and the operands
alone, is stated here for: tunOpen, tunClose, tunRoute, tunMove. -/
def Obligations.TunnelInstructions : Prop :=
  ∀ (s : State) (th : Fin 4) (c : Cmd) (w : IW) (recs : Recs) (extra : Scope),
    (AtInstr s th 0x20 c w → onlyBits w.operand 0x073F0F1F = true → onlyBits (w.x 0) 0x83FF = true → w.o 0 5 < 24 →
      spPresent s.hub.part.res (w.o 0 5) = true → w.o 16 6 < s.hub.part.res.docks → w.o 8 4 ≤ 5 → w.target < 4096 →
      builtIn (w.o 0 5) w.target = false →
      ((openPairs (standing s.hub c [])).length < 4096 ∨ (openPairs (standing s.hub c [])).contains (w.o 0 5, w.target) = true) →
      recs = [(aTunT (w.o 0 5) w.target, W (2 ^ 31 + w.o 24 3 * 2 ^ 28 + w.o 8 4 * 2 ^ 24 + w.o 16 6 * 2 ^ 16 + w.x 0))] →
      extra = (scDock (w.o 16 6)).union (scPort (w.o 0 5)) → mayStage s.hub c recs extra = true →
      exec (.tunOpen th) s = .next (s.onHub fun h => stagedBy h c w recs w.target [aTunT (w.o 0 5) w.target] [])) ∧
    (∀ tid : Nat, AtInstr s th 0x20 c w → onlyBits w.operand 0x073F0F1F = true → onlyBits (w.x 0) 0x83FF = true → w.o 0 5 < 24 →
      spPresent s.hub.part.res (w.o 0 5) = true → w.o 16 6 < s.hub.part.res.docks → w.o 8 4 ≤ 5 → w.target = 0xF000 →
      (List.range 4096).find? (fun t => decide (1 ≤ t) && tidFree s.hub (standing s.hub c []) (openPairs (standing s.hub c [])) (w.o 0 5) t) = some tid →
      (openPairs (standing s.hub c [])).length < 4096 →
      recs = [(aTunT (w.o 0 5) tid, W (2 ^ 31 + w.o 24 3 * 2 ^ 28 + w.o 8 4 * 2 ^ 24 + w.o 16 6 * 2 ^ 16 + w.x 0))] →
      extra = (scDock (w.o 16 6)).union (scPort (w.o 0 5)) → mayStage s.hub c recs extra = true →
      exec (.tunOpen th) s = .next (s.onHub fun h => stagedBy h c w recs tid [aTunT (w.o 0 5) tid] [])) ∧
    (AtInstr s th 0x21 c w → w.operand < 24 → spPresent s.hub.part.res w.operand = true → w.target < 4096 → builtIn w.operand w.target = false →
      (endIn s.hub (standing s.hub c []) w.operand w.target).isSome = true →
      recs = [(aTunT w.operand w.target, 0), (aTunR w.operand w.target, 0)] → extra = endScope s.hub (standing s.hub c []) w.operand w.target →
      mayStage s.hub c recs extra = true →
      exec (.tunClose th) s = .next (s.onHub fun h => stagedBy h c w recs 0 [] [])) ∧
    (AtInstr s th 0x22 c w → onlyBits w.operand 0x0FFF03FF = true → w.o 0 5 < 24 → spPresent s.hub.part.res (w.o 0 5) = true →
      w.target < 4096 → builtIn (w.o 0 5) w.target = false →
      ((w.o 5 5 = 0x1F ∧ w.o 16 12 = 0) ∨
        (w.o 5 5 < 24 ∧ spPresent s.hub.part.res (w.o 5 5) = true ∧ (w.o 5 5 = 23 ∨ builtIn (w.o 5 5) (w.o 16 12) = false))) →
      recs = [(aTunR (w.o 0 5) w.target, W (2 ^ 31 + w.o 5 5 * 2 ^ 24 + w.o 16 12))] →
      extra = (endScope s.hub (standing s.hub c []) (w.o 0 5) w.target).union (if w.o 5 5 < 24 then scPort (w.o 5 5) else Scope.empty) →
      mayStage s.hub c recs extra = true →
      exec (.tunRoute th) s = .next (s.onHub fun h => stagedBy h c w recs 0 [] [])) ∧
    (∀ e : EndInfo, AtLong s th 0x23 c w → w.operand < 1024 → w.o 0 5 < 8 → w.o 5 5 < 8 → spPresent s.hub.part.res (w.o 0 5) = true →
      spPresent s.hub.part.res (w.o 5 5) = true → 0 < w.target → w.target < 4096 →
      endIn s.hub (projected s.hub) (w.o 0 5) w.target = some e → popcount 8 (maskIn s.hub (projected s.hub) e.dock) = 1 →
      bitOf (maskIn s.hub (projected s.hub) e.dock) (w.o 5 5) = true → endIn s.hub (projected s.hub) (w.o 5 5) w.target = none →
      gatesClosed s.hub e.dock = false → oConflict s.hub c (((scDock e.dock).union (scPort (w.o 0 5))).union (scPort (w.o 5 5))) = none →
      exec (.tunMove th) s = .next (s.onHub fun h =>
        beginWait (submit h (.internal (.move (w.o 0 5) (w.o 5 5) w.target)) (cmdPort h c)
          (moveRecs h (projected h) (w.o 0 5) (w.o 5 5) w.target) (some c.id) [] []) c w .op))

/-- A move whose old packets have left and been acknowledged ends OK with its vintage; one that has not by 16 edges discards the old
packets with a count, raises an event and ends TIMEOUT; after MOVE_GRACE edges the old end no longer names the new one.
Completion, that exec answers a next state with the command's own effect under hypotheses on the state and the operands
alone, is stated here for: moveComplete, moveTimeout, moveGraceEnd. -/
def Obligations.TunnelMoves : Prop :=
  ∀ (s : State) (n : Fin 8) (tid : BitVec 12) (m : Move), s.hub.runs = true → findMove s.hub n.val tid.toNat = some m →
    (m.done = false → moveDrained s.hub m = true → exec (.moveComplete n tid) s = .next (s.onHub fun h => moveEnd h m .ok)) ∧
    (m.done = false → moveDrained s.hub m = false → exec (.moveComplete n tid) s = .next s) ∧
    (∀ r : Hub × List Pkt, m.done = false → 16 ≤ edgesSince s.hub m.edge → r = purge s.hub (oldOfMove m) →
      exec (.moveTimeout n tid) s = .next (s.onHub fun _ =>
        moveEnd (raise (failLost (count r.1 aTunCntMoveDrop r.2.length) r.2) 0x06 5 0 0) m .timeout)) ∧
    (m.graceOver = false → fld s.hub aTunCfg 8 8 ≤ edgesSince s.hub m.edge →
      exec (.moveGraceEnd n tid) s = .next (s.onHub fun h =>
        let rest := h.tun.moves.filter (fun x => decide (x ≠ m))
        { h with tun := { h.tun with moves := if m.done then rest else rest ++ [{ m with graceOver := true }] } }))

/-- A HELLO on a trunk that is up is recorded and answered by HELLO, the NOTICEs of the trunk's ends and the DOCK_STATEs of their docks;
a time query on a time end is answered; a packet of a trunk is dropped for a reserved type or a foreign VC, else counted and judged by
its end, after the checks of its key; one with no end is a NO_ROUTE, one of another type a type error, one of a frozen dock that is no
PCIe completion is dropped; a good Ethernet frame goes to the first 8 docks that its address selects; a station not seen for its age is forgotten; the first request that waits for a tag or for completion space retries.
Completion, that exec answers a next state with the command's own effect under hypotheses on the state and the operands
alone, is stated here for: hello, timeQuery, tunnelPacket, ethernetFrame, stationAge, tagWaitEnd, poolWaitEnd. -/
def Obligations.TunnelMessages : Prop :=
  ∀ s : State, s.hub.runs = true →
    (∀ (n : Fin 8) (u : BitVec 64) (g : Hub) (ends : List EndInfo), controlUp s.hub n.val = true →
      g = sendControl (wr s.hub (aTunHello n.val) (W (bitsOf u.toNat 56 8 * 2 ^ 24 + bitsOf u.toNat 40 16))) n.val 0 64
        [2 ^ 56 + n.val * 2 ^ 53 + fld (wr s.hub (aTunHello n.val) (W (bitsOf u.toNat 56 8 * 2 ^ 24 + bitsOf u.toNat 40 16))) aTimHubTag 0 16 * 2 ^ 24] →
      ends = (endsIn g.regs).filter (fun e => decide (e.sp = n.val)) →
      exec (.hello n u) s = .next (s.onHub fun _ =>
        let docks := (List.range 64).filter (fun d => ends.any (fun e => decide (e.dock = d)))
        let h := docks.foldl (fun h d => dockStateMsg h n.val d (reportedState h d)) (ends.foldl (fun h e => notice h n.val 1 e) g)
        (docks.filter (fun d => ends.any (fun e => decide (e.dock = d) && decide (e.type = 2)))).foldl usbDefault h)) ∧
    (∀ (n : Fin 8) (tid : BitVec 12) (cookie : BitVec 64) (tc : Nat) (e : EndInfo) (g : Hub), g = atClk s.hub tc → resolveEnd g n.val tid.toNat = some e →
      e.type = 4 →
      (gatesClosed g e.dock = false → exec (.timeQuery n tid cookie tc) s = .next (s.onHub fun _ => sendTime g (timeTrunk g e) 1 e
        [cookie.toNat, hubNs g, hubFx g % 65536 * 2 ^ 48 + fld g aTimDiscStatus 0 3 * 2 ^ 40])) ∧
      (gatesClosed g e.dock = true → exec (.timeQuery n tid cookie tc) s = .next (s.onHub fun _ => count g (aVdkCntFrozenDrop e.dock) 1))) ∧
    (∀ (sp : Fin 24) (p : TunPacket), sp.val < 8 → (s.hub.arrived.contains (sp.val, p) = true ∨ controlUp s.hub sp.val = true) →
      trunkDrops p = true → exec (.tunnelPacket sp p) s = .next (s.onHub fun h =>
        count { h with arrived := dropFirst (fun e => decide (e = (sp.val, p))) h.arrived } (aTrkCntDrop sp.val) 1)) ∧
    (∀ (sp : Fin 24) (p : TunPacket) (f g : Hub) (x : Option EndInfo),
      (sp.val < 8 → (s.hub.arrived.contains (sp.val, p) = true ∨ controlUp s.hub sp.val = true) ∧ trunkDrops p = false) →
      f = { s.hub with arrived := dropFirst (fun e => decide (e = (sp.val, p))) s.hub.arrived } →
      x = resolveEnd f sp.val p.hdr.tid.toNat →
      g = tally f 0x20 0x0200 1 (some ⟨sp.val, (x.map (·.dock)).getD 64, (x.map (·.cls)).getD 0, memAddr p.hdr.type.toNat p.payload⟩) →
      (8 ≤ sp.val → exec (.tunnelPacket sp p) s = .next (s.onHub fun _ => portIn g sp.val { p with hdr := { p.hdr with mark := false } })) ∧
      (sp.val < 8 → p.hdr.tid = 0 → exec (.tunnelPacket sp p) s = .next (s.onHub fun _ => controlIn g sp.val p)) ∧
      (sp.val < 8 → p.hdr.tid ≠ 0 → resolveEnd g sp.val p.hdr.tid.toNat = none →
        exec (.tunnelPacket sp p) s = .next (s.onHub fun _ => noRoute g sp.val 64)) ∧
      (∀ (e : EndInfo) (h : Hub), sp.val < 8 → p.hdr.tid ≠ 0 → resolveEnd g sp.val p.hdr.tid.toNat = some e →
        openIn g sp.val e p = (h, none) → exec (.tunnelPacket sp p) s = .next (s.onHub fun _ => h)) ∧
      (∀ (e : EndInfo) (h : Hub) (o r : TunPacket), sp.val < 8 → p.hdr.tid ≠ 0 → resolveEnd g sp.val p.hdr.tid.toNat = some e →
        openIn g sp.val e p = (h, some o) → r = { o with hdr := { o.hdr with mark := false } } →
        (r.hdr.type.toNat ≠ e.type → exec (.tunnelPacket sp p) s = .next (s.onHub fun _ => typeErr h)) ∧
        (r.hdr.type.toNat = e.type → gatesClosed h e.dock = true → ¬(e.type = 1 ∧ r.hdr.kind = 2) →
          exec (.tunnelPacket sp p) s = .next (s.onHub fun _ => count h (aVdkCntFrozenDrop e.dock) 1)) ∧
        (r.hdr.type.toNat = e.type → (gatesClosed h e.dock = false ∨ (e.type = 1 ∧ r.hdr.kind = 2)) →
          exec (.tunnelPacket sp p) s = .next (s.onHub fun _ => match e.type with
            | 1 => pcieIn h sp.val e r
            | 2 => usbIn h sp.val e r
            | 3 => ethIn h sp.val e r
            | 4 => timeIn h sp.val e r
            | _ => peerIn h sp.val e r)))) ∧
    (∀ (n : Fin 4) (frame : List Byte) (g : Hub) (docks : List Nat), n.val < s.hub.part.res.eth → bitOf s.hub.tun.ethUp.toNat n.val = true →
      retired s.hub 7 n.val = false →
      g = tally (tally s.hub (0xD0 + n.val) 0x0D01 1 (some ⟨16 + n.val, 64, 0, none⟩)) (0xD0 + n.val) 0x0D02 frame.length (some ⟨16 + n.val, 64, 0, none⟩) →
      docks = (classify g n.val frame).filter (fun d => (portEndOf g (16 + n.val) d).isSome) →
      exec (.ethernetFrame n frame false) s = .next (s.onHub fun _ => tally g (0xD0 + n.val) 0x0D03 1 none) ∧
      (frame.length < 14 ∨ 9216 < frame.length → exec (.ethernetFrame n frame true) s = .next (s.onHub fun _ => g)) ∧
      (14 ≤ frame.length → frame.length ≤ 9216 → ingressFull g (16 + n.val) = true →
        exec (.ethernetFrame n frame true) s = .next (s.onHub fun _ => count g (aSwcCntIndrop (16 + n.val)) 1)) ∧
      (14 ≤ frame.length → frame.length ≤ 9216 → ingressFull g (16 + n.val) = false →
        exec (.ethernetFrame n frame true) s = .next (s.onHub fun _ =>
          let h := if docks = [] then count g aTunCntEthNoclass 1 else g
          let h := if 8 < docks.length then count h aTunCntEthReplDrop 1 else h
          (docks.take 8).foldl (fun h d => frameTo h n.val frame d) h))) ∧
    (∀ (k : Fin 1024) (v : Dev), tfind s.hub.tun.devs k.val = some v → v.kind = 3 → fld s.hub aTunCfg 24 8 ≠ 0 →
      fld s.hub aTunCfg 24 8 * 8000 ≤ edgesSince s.hub v.edge →
      exec (.stationAge k) s = .next (s.onHub fun h => detach h k.val)) ∧
    (∀ x : Nat × TunPacket, s.hub.tun.waitTag.find? (waitReady s.hub) = some x →
      (s.hub.tun.tags.length < 4096 ∨ x.2.hdr.kind = 0xF) →
      exec .tagWaitEnd s = .next (s.onHub fun h =>
        retryWait { h with tun := { h.tun with waitTag := dropFirst (fun e => decide (e = x)) h.tun.waitTag } } x)) ∧
    (∀ x : Nat × TunPacket, s.hub.tun.waitPool.find? (waitReady s.hub) = some x →
      exec .poolWaitEnd s = .next (s.onHub fun h =>
        retryWait { h with tun := { h.tun with waitPool := dropFirst (fun e => decide (e = x)) h.tun.waitPool } } x))


/-- While a dock's ingress gates are closed, what its host sends is dropped and counted; else, on a PCIe tunnel that is open, with the hub
function present and its memory space enabled, a doorbell is stored, its pending bit
set and its event raised; HF_EVR_CTL changes the vector while EN stays, and starts the ring over when EN rises with a valid size;
HF_EVR_BASE is written while EN is 0; HF_EVR_HEAD within the ring; an entry expires at the second edge; a lock breaks at the eighth,
and the owner's Unlock is forwarded and releases it, any other is consumed.
Completion, that exec answers a next state with the command's own effect under hypotheses on the state and the operands
alone, is stated here for: doorbell, evrCtlWrite, evrBaseWrite, evrHeadWrite, prefetchExpiry, lockBreak, unlock. -/
def Obligations.HostFunctionCommands : Prop :=
  ∀ s : State, s.hub.runs = true →
    (∀ (d : Fin 64) (k : Fin 8) (v : Word), gatesClosed s.hub d.val = true →
      exec (.doorbell d k v) s = .next (s.onHub fun h => count h (aVdkCntFrozenDrop d.val) 1) ∧
      exec (.evrCtlWrite d v) s = .next (s.onHub fun h => count h (aVdkCntFrozenDrop d.val) 1) ∧
      (∀ hi, exec (.evrBaseWrite d hi v) s = .next (s.onHub fun h => count h (aVdkCntFrozenDrop d.val) 1)) ∧
      exec (.evrHeadWrite d v) s = .next (s.onHub fun h => count h (aVdkCntFrozenDrop d.val) 1)) ∧
    (∀ (d : Fin 64) (k : Fin 8) (v : Word) (g : Hub), gatesClosed s.hub d.val = false → (trunkEnd s.hub d.val 1).isSome = true →
      hfPresent s.hub = true → cfgCmd s.hub d.val 1 1 = true → dockCreated s.hub d.val = true → hfD3 s.hub d.val = false →
      g = wr s.hub (aTunDb d.val k.val) v →
      exec (.doorbell d k v) s = .next (s.onHub fun _ =>
        raise (if flag g (aTunDbPending d.val) k.val then setFlag g (aTunDbPending d.val) (8 + k.val) true
          else setFlag g (aTunDbPending d.val) k.val true) 0x06 4 0 (d.val * 2 ^ 16 + k.val))) ∧
    (∀ (d : Fin 64) (v : Word) (e : Evr), gatesClosed s.hub d.val = false → (trunkEnd s.hub d.val 1).isSome = true →
      hfPresent s.hub = true → cfgCmd s.hub d.val 1 1 = true → dockCreated s.hub d.val = true → e = evrAt s.hub d.val →
      (bitOf e.ctl 31 = true → bitOf v.toNat 31 = true → bitsOf v.toNat 16 4 = bitsOf e.ctl 16 4 →
        exec (.evrCtlWrite d v) s = .next (s.onHub fun h => setEvr h d.val { e with ctl := putBits e.ctl 0 4 (bitsOf v.toNat 0 4) })) ∧
      (bitOf e.ctl 31 = true → bitOf v.toNat 31 = true → bitsOf v.toNat 16 4 ≠ bitsOf e.ctl 16 4 → exec (.evrCtlWrite d v) s = .next s) ∧
      (bitOf e.ctl 31 = false → bitOf v.toNat 31 = true → 4 ≤ bitsOf v.toNat 16 4 → bitsOf v.toNat 16 4 ≤ 12 →
        exec (.evrCtlWrite d v) s = .next (s.onHub fun h => setEvr h d.val { e with
          ctl := 2 ^ 31 + bitsOf v.toNat 16 4 * 2 ^ 16 + bitsOf v.toNat 0 4, head := 0, tail := 0, phase := true })) ∧
      (bitOf e.ctl 31 = false → bitOf v.toNat 31 = true → (bitsOf v.toNat 16 4 < 4 ∨ 12 < bitsOf v.toNat 16 4) →
        exec (.evrCtlWrite d v) s = .next (s.onHub fun h => setEvr h d.val { e with ctl := putBits e.ctl 0 4 (bitsOf v.toNat 0 4) })) ∧
      (bitOf v.toNat 31 = false →
        exec (.evrCtlWrite d v) s = .next (s.onHub fun h => setEvr h d.val { e with ctl := bitsOf v.toNat 16 4 * 2 ^ 16 + bitsOf v.toNat 0 4 })) ∧
      (bitOf e.ctl 31 = false →
        exec (.evrBaseWrite d true v) s = .next (s.onHub fun h => setEvr h d.val { e with base := putBits e.base 32 32 v.toNat }) ∧
        exec (.evrBaseWrite d false v) s = .next (s.onHub fun h => setEvr h d.val { e with base := putBits e.base 0 32 (v.toNat / 16 * 16) })) ∧
      (bitOf e.ctl 31 = true → ∀ hi, exec (.evrBaseWrite d hi v) s = .next s) ∧
      (bitsOf v.toNat 0 12 < 2 ^ bitsOf e.ctl 16 4 →
        exec (.evrHeadWrite d v) s = .next (s.onHub fun h => setEvr h d.val { e with head := bitsOf v.toNat 0 12 })) ∧
      (2 ^ bitsOf e.ctl 16 4 ≤ bitsOf v.toNat 0 12 → exec (.evrHeadWrite d v) s = .next s)) ∧
    (∀ n : Fin 8, exec (.prefetchExpiry n) s = .next (s.onHub fun h =>
      count (setPf h n.val ((pfOf h n.val).filter (fun x => !decide (2 ≤ edgesSince h x.edge)))) aTunCntPfDiscard
        ((pfOf h n.val).filter (fun x => decide (2 ≤ edgesSince h x.edge) && !x.used)).length)) ∧
    (∀ (n : Fin 8) (e : Nat) (o : Nat × Nat) (g : Hub), tfind s.hub.tun.lockEdge n.val = some e → 8 ≤ edgesSince s.hub e → lockOwner s.hub n.val = some o →
      g = sendUnlock s.hub 22 n.val o.1 o.2 →
      exec (.lockBreak n) s = .next (s.onHub fun _ =>
        let broken := if g.tun.broken.contains o then g.tun.broken else g.tun.broken ++ [o]
        raise (count (lockRelease { g with tun := { g.tun with broken := broken } } n.val) aTunCntLockBreak 1) 0x07 1 0 0)) ∧
    (∀ (d : Fin 64) (id : BitVec 16) (n : Nat) (e : EndInfo), trunkEnd s.hub d.val 1 = some e → gatesClosed s.hub d.val = false →
      (List.range 8).find? (fun n => decide (lockOwner s.hub n = some (d.val, id.toNat))) = some n →
      exec (.unlock d id) s = .next (s.onHub fun h => lockRelease (sendUnlock h e.sp n d.val id.toNat) n)) ∧
    (∀ (d : Fin 64) (id : BitVec 16) (e : EndInfo), trunkEnd s.hub d.val 1 = some e → gatesClosed s.hub d.val = false →
      (List.range 8).find? (fun n => decide (lockOwner s.hub n = some (d.val, id.toNat))) = none → exec (.unlock d id) s = .next s)

/-- A configuration request of type 0, or for bus 0 of the virtual switch, is answered by a function of the switch, one below a port
goes there, any other is unsupported; a locked read of a broken owner completes with an abort, one toward a port goes there; a TLP of a
device is counted and judged as completion, posted or non-posted; a tag ends at its discard timer and at its completion timeout; a
freed handle returns at 16 edges; a PCIe link comes up with its device and goes down with its requests settled.
Completion, that exec answers a next state with the command's own effect under hypotheses on the state and the operands
alone, is stated here for: configRequest, mrdlk, deviceTlp, discardTimer, cplTimeout, handleReturn, pcieLinkUp, pcieLinkDown. -/
def Obligations.BridgeCommands : Prop :=
  ∀ s : State, s.hub.runs = true →
    (∀ (d : Fin 64) (q : ConfigReq) (e : EndInfo), trunkEnd s.hub d.val 1 = some e → gatesClosed s.hub d.val = false →
      e.dock = d.val → fld s.hub aTunVswId 0 16 ≠ 0xFFFF →
      (q.type1 = false → exec (.configRequest d q) s = .next (s.onHub fun h => cfgAnswer h d.val 0 q)) ∧
      (q.type1 = true → q.bus.toNat = secBus s.hub d.val 0 → q.dev = 0 → exec (.configRequest d q) s = .next (s.onHub fun h => cfgAnswer h d.val 1 q)) ∧
      (q.type1 = true → q.bus.toNat = secBus s.hub d.val 0 → 1 ≤ q.dev.toNat → q.dev.toNat ≤ 8 →
        (dockPorts s.hub d.val).contains (q.dev.toNat - 1) = true →
        exec (.configRequest d q) s = .next (s.onHub fun h => cfgAnswer h d.val (1 + q.dev.toNat) q)) ∧
      (∀ n : Nat, q.type1 = true → secBus s.hub d.val 0 < q.bus.toNat → q.bus.toNat ≤ subBus s.hub d.val 0 →
        (dockPorts s.hub d.val).find? (fun n => decide (0 < secBus s.hub d.val (2 + n)) && decide (secBus s.hub d.val (2 + n) ≤ q.bus.toNat) &&
          decide (q.bus.toNat ≤ subBus s.hub d.val (2 + n))) = some n →
        (q.bus.toNat = secBus s.hub d.val (2 + n) → q.dev = 0) →
        exec (.configRequest d q) s = .next (s.onHub fun h =>
          npToPort (if q.write then flushPf h n else h) e.sp e (plainHdr 1 e.tid 1 0 0 0) n
            { configTlp q with type1 := decide (q.bus.toNat ≠ secBus h d.val (2 + n)) } (configTlp q) false)) ∧
      (q.type1 = true → q.bus.toNat ≠ secBus s.hub d.val 0 →
        (q.bus.toNat < secBus s.hub d.val 0 ∨ subBus s.hub d.val 0 < q.bus.toNat ∨
          (dockPorts s.hub d.val).find? (fun n => decide (0 < secBus s.hub d.val (2 + n)) && decide (secBus s.hub d.val (2 + n) ≤ q.bus.toNat) &&
            decide (q.bus.toNat ≤ subBus s.hub d.val (2 + n))) = none) →
        exec (.configRequest d q) s = .next (s.onHub fun h => cplHost h d.val (configTlp q) 1 []))) ∧
    (∀ (d : Fin 64) (t : Tlp) (e : EndInfo), trunkEnd s.hub d.val 1 = some e → gatesClosed s.hub d.val = false → e.dock = d.val →
      (s.hub.tun.broken.contains (d.val, t.reqId.toNat) = true →
        exec (.mrdlk d t) s = .next (s.onHub fun h =>
          cplHost { h with tun := { h.tun with broken := h.tun.broken.erase (d.val, t.reqId.toNat) } } d.val { t with kind := .memRdLk } 4 [])) ∧
      (∀ n : Nat, s.hub.tun.broken.contains (d.val, t.reqId.toNat) = false → decodeMem s.hub d.val t.addr.toNat t.len = .port n →
        (List.range 8).any (fun m => decide (m ≠ n) && decide ((lockOwner s.hub m).map (·.1) = some d.val)) = false →
        exec (.mrdlk d t) s = .next (s.onHub fun h =>
          npToPort h e.sp e (plainHdr 1 e.tid 1 0 0 0) n { t with kind := .memRdLk } { t with kind := .memRdLk } false))) ∧
    (∀ (n : Fin 8) (t : Tlp) (e : EndInfo) (i : PInfo) (g : Hub), portEnd s.hub (8 + n.val) = some e → pcieUp s.hub n.val = true →
      (routeOf s.hub (8 + n.val) e.tid).isSome = true → i = ⟨8 + n.val, e.dock, e.cls, memAddr 1 (tlpBytes t)⟩ →
      g = tally (tally s.hub (0xC0 + n.val) 0x0C01 1 (some i)) 0x20 0x0200 1 (some i) →
      (isCpl t = true → exec (.deviceTlp n t) s = .next (s.onHub fun _ => devCpl g n.val e t)) ∧
      (isCpl t = false → gatesClosed g e.dock = true → exec (.deviceTlp n t) s = .next (s.onHub fun _ => g)) ∧
      (isCpl t = false → gatesClosed g e.dock = false → tlpClass t = 0 → exec (.deviceTlp n t) s = .next (s.onHub fun _ => devPosted g n.val e t)) ∧
      (isCpl t = false → gatesClosed g e.dock = false → tlpClass t ≠ 0 → exec (.deviceTlp n t) s = .next (s.onHub fun _ => devNp g n.val e t false))) ∧
    (∀ (k : BitVec 12) (g : Tag) (e : Nat), tfind s.hub.tun.tags k.toNat = some g → g.discard = some e → fld s.hub aTunBrgCfg 16 11 ≤ edgesSince s.hub e →
      exec (.discardTimer k) s = .next (s.onHub fun h =>
        if g.toHost ∧ 8 ≤ g.retSp ∧ g.type = 1 then cplDev (freeTag h k.toNat false) g.dock (g.retSp - 8) g.tlp 1 else freeTag h k.toNat false)) ∧
    (∀ (k : BitVec 12) (g : Tag), tfind s.hub.tun.tags k.toNat = some g → fld s.hub aTunBrgCfg 0 16 ≠ 0 →
      fld s.hub aTunBrgCfg 0 16 ≤ edgesSince s.hub g.issued →
      exec (.cplTimeout k) s = .next (s.onHub fun h => raise (count (freeTag h k.toNat false) aTunCntCplTimeout 1) 0x07 2 0 0)) ∧
    (∀ (n : Fin 1024) (e : Nat), tfind s.hub.tun.freed n.val = some e → 16 ≤ edgesSince s.hub e → s.hub.tun.tags.any (fun t => decide (t.2.dev = n.val)) = false →
      exec (.handleReturn n) s = .next (s.onHub fun h => { h with tun := { h.tun with freed := tdel h.tun.freed n.val } })) ∧
    (∀ (n : Fin 8) (rate width : BitVec 4) (g : Hub) (lanes : List Nat) (r : Nat),
      g = pcieSettled { s.hub with lns := { s.hub.lns with x1 := tdel s.hub.lns.x1 n.val } } n.val →
      lanes = pcieLanes g n.val width.toNat → lanes ≠ [] → r = max 1 (min 6 rate.toNat) →
      n.val < g.part.res.pcie → pcieUp g n.val = false → retired g 5 n.val = false →
      exec (.pcieLinkUp n rate width) s = .next (s.onHub fun _ =>
        let h := lanes.foldl (pcieLane r) g
        attachPort { h with tun := { h.tun with plinks := tset ⟨false, 0, 0⟩ h.tun.plinks n.val ⟨true, r, lanes.length⟩ } } n.val)) ∧
    (∀ n : Fin 8, pcieUp s.hub n.val = true →
      exec (.pcieLinkDown n) s = .next (s.onHub fun h =>
        let g := { h with tun := { h.tun with plinks := tset ⟨false, 0, 0⟩ h.tun.plinks n.val ⟨false, 0, 0⟩ } }
        detach (portGone (laneRest (laneRest g (64 + 2 * n.val) 0) (65 + 2 * n.val) 0) n.val) n.val))


/-- A SuperSpeed packet of a device goes on when nothing of its dock is held and a block is found, else it is held and counted; a
held packet goes on when a block is free; reservations expire at the second edge; a device connects and disconnects with its port
status, its change bits and its handles; a reassigned port comes back after its reset; the device function answers its reads; a wake
starts, is reported after 1 ms, and a host resumes its ports.
Completion, that exec answers a next state with the command's own effect under hypotheses on the state and the operands
alone, is stated here for: usbDevicePacket, blockFree, reservationExpiry, usbDeviceConnect, usbDeviceDisconnect,
reassignResetEnd, getHubTime, getSlice, getAudioCfg, usbDoorbell, functionReset, remoteWake, wakeReport, hostResume. -/
def Obligations.UsbCommands : Prop :=
  ∀ s : State, s.hub.runs = true →
    (∀ (u : Fin 16) (p : UsbPacket) (d v : Nat), usbAssign s.hub u.val = some (d, v) → usbLink s.hub u.val ≠ 0 → usbNoSs s.hub u.val = false →
      (portEndOf s.hub 20 d).isSome = true →
      (gatesClosed s.hub d = true → ssType p = 8 ∧ s.hub.usb.blocks.any (fun k => decide (k.key = epKey p true) && k.unused) = true) →
      ((tget [] s.hub.usb.heldUp d = [] ∨ ssIso p = true) → ∀ g, ssUp s.hub u.val d p = some g → exec (.usbDevicePacket u p) s = .next (s.onHub fun _ => g)) ∧
      ((tget [] s.hub.usb.heldUp d ≠ [] ∧ ssIso p = false ∨
          (tget [] s.hub.usb.heldUp d = [] ∨ ssIso p = true) ∧ ssUp s.hub u.val d p = none) →
        exec (.usbDevicePacket u p) s = .next (s.onHub fun h => { holdCount h d with usb := { (holdCount h d).usb with
          heldUp := tmod [] h.usb.heldUp d (fun l => l ++ [(u.val, p)]) } }))) ∧
    (∀ d : Fin 64, usbFree s.hub d.val ≠ 0 →
      (∀ (p : Pkt) (ps : List Pkt) (g : Hub), tget [] s.hub.usb.heldDown d.val = p :: ps →
        usbUnit { s.hub with usb := { s.hub.usb with heldDown := tset [] s.hub.usb.heldDown d.val ps } } d.val p.hdr.kind.toNat p.hdr.tag.toNat p.payload = some g →
        exec (.blockFree d) s = .next (s.onHub fun _ => g)) ∧
      (∀ (u : Nat) (p : UsbPacket) (ps : List (Nat × UsbPacket)) (g : Hub), tget [] s.hub.usb.heldDown d.val = [] →
        tget [] s.hub.usb.heldUp d.val = (u, p) :: ps →
        ssUp { s.hub with usb := { s.hub.usb with heldUp := tset [] s.hub.usb.heldUp d.val ps } } u d.val p = some g →
        exec (.blockFree d) s = .next (s.onHub fun _ => g))) ∧
    (∀ d : Fin 64, exec (.reservationExpiry d) s = .next (s.onHub fun h =>
      freeBlocks h (fun k => decide (k.dock = d.val) && k.unused && decide (2 ≤ edgesSince h k.edge)))) ∧
    (∀ (u : Fin 16) (speed : BitVec 3) (g : Hub), usbPresent s.hub.part.res u.val = true → 1 ≤ speed.toNat → speed.toNat ≤ 5 →
      (4 ≤ speed.toNat → usbNoSs s.hub u.val = false) → usbSpeed s.hub u.val = 0 → flag s.hub (aUsbPortStatus u.val) 7 = false →
      g = (let x := setFld s.hub (aUsbPortStatus u.val) 0 3 speed.toNat; if (tfind x.usb.resetFrom u.val).isSome then x else usbLinkTo x u.val 1) →
      (usbAssign g u.val = none → exec (.usbDeviceConnect u speed) s = .next (s.onHub fun _ => g)) ∧
      (∀ d v : Nat, usbAssign g u.val = some (d, v) → exec (.usbDeviceConnect u speed) s = .next (s.onHub fun _ =>
        if (tfind g.usb.resetFrom u.val).isSome then g else vpChange g d v 0))) ∧
    (∀ (u : Fin 16) (g : Hub), usbSpeed s.hub u.val ≠ 0 →
      g = usbLinkTo (setFld s.hub (aUsbPortStatus u.val) 0 3 0) u.val 0 →
      (usbAssign g u.val = none → exec (.usbDeviceDisconnect u) s = .next (s.onHub fun _ => g)) ∧
      (∀ d v : Nat, usbAssign g u.val = some (d, v) →
        exec (.usbDeviceDisconnect u) s = .next (s.onHub fun _ => vpChange (usbPortClear g u.val d v 5) d v 0))) ∧
    (∀ (u : Fin 16) (e : Nat) (f g : Hub), tfind s.hub.usb.resetFrom u.val = some e → 8 * fld s.hub aUsbCfg 0 8 ≤ edgesSince s.hub e →
      f = { s.hub with usb := { s.hub.usb with resetFrom := tdel s.hub.usb.resetFrom u.val } } →
      g = usbLinkTo f u.val (if usbSpeed f u.val = 0 then 0 else 1) →
      (∀ d v : Nat, usbAssign g u.val = some (d, v) → usbSpeed g u.val ≠ 0 →
        exec (.reassignResetEnd u) s = .next (s.onHub fun _ => vpChange g d v 0)) ∧
      ((usbAssign g u.val = none ∨ usbSpeed g u.val = 0) → exec (.reassignResetEnd u) s = .next (s.onHub fun _ => g))) ∧
    (∀ (d : Fin 64) (tc : Nat), (dfReachable (atClk s.hub tc) d.val = true →
        exec (.getHubTime d tc) s = .next (s.onHub fun h => send (atClk h tc) (.usbData d.val 0 (dfTime (atClk h tc))))) ∧
      (dfReachable s.hub d.val = true →
        exec (.getSlice d) s = .next (s.onHub fun h => send h (.usbData d.val 0 (dfSlice h d.val))) ∧
        exec (.getAudioCfg d) s = .next (s.onHub fun h => send h (.usbData d.val 0 (dfAudio h))) ∧
        (∀ (k : Fin 8) (v : Word), exec (.usbDoorbell d k v) s = .next (s.onHub fun h => doorbell d.val k.val v.toNat h)))) ∧
    (∀ d : Fin 64, dfPresent s.hub d.val = true →
      exec (.functionReset d) s = .next (s.onHub fun h =>
        setCtl (if (ctlAt h d.val 2).setup = [] then h else count h aUsbCntCtlAbort 1) d.val 2 Ctl.idle)) ∧
    (∀ (d : Fin 64) (v : Fin 16) (f e g : Hub), wakeArmed s.hub d.val v.val = true → tfind s.hub.usb.wakes (d.val * 16 + v.val) = none →
      f = { s.hub with usb := { s.hub.usb with wakes := tput s.hub.usb.wakes (d.val * 16 + v.val) ⟨s.hub.tim.coreClk, false⟩ } } →
      e = wr (wr f (aUsbVhWake d.val) (W (2 ^ 31 + 2 ^ 28 + v.val))) (aUsbVhWakeTick d.val) (W (tickNo f)) →
      g = (if (vport e d.val 1 v.val).suspended then portLink e d.val 1 v.val 1 else e) →
      (usbPhys g d.val v.val = none → exec (.remoteWake d v) s = .next (s.onHub fun _ => g)) ∧
      (∀ u, usbPhys g d.val v.val = some u → exec (.remoteWake d v) s = .next (s.onHub fun _ => send g (.usbResume u)))) ∧
    (∀ (d : Fin 64) (v : Fin 16) (w : Wake) (g : Hub), tfind s.hub.usb.wakes (d.val * 16 + v.val) = some w → w.start + 1600000 ≤ s.hub.tim.coreClk →
      g = { s.hub with usb := { s.hub.usb with wakes := tdel s.hub.usb.wakes (d.val * 16 + v.val) } } →
      (v.val = 15 → exec (.wakeReport d v) s = .next (s.onHub fun _ =>
        let h := setCtl g d.val 2 { ctlAt g d.val 2 with suspended := false }
        usbUp h d.val 0 0 0 0 (leBytes 12 (4 + 15 * 32 + (ctlAt h d.val 2).addr * 2 ^ 25 + (6 + 16) * 2 ^ 32)))) ∧
      (v.val ≠ 15 → exec (.wakeReport d v) s = .next (s.onHub fun _ =>
        let h := if (vport g d.val 0 v.val).suspended then portLink (setVport g d.val 0 v.val { vport g d.val 0 v.val with
          suspended := false, change := (vport g d.val 0 v.val).change ||| 4 }) d.val 0 v.val 1 else g
        if (vport h d.val 1 v.val).suspended then portLink (setVport h d.val 1 v.val { vport h d.val 1 v.val with
          suspended := false, change := (vport h d.val 1 v.val).change ||| 64 }) d.val 1 v.val 1 else h))) ∧
    (∀ (d : Fin 64) (v : Fin 16) (all : Hub → Hub), all = (fun h => if v.val = 15 then setCtl h d.val 2 { ctlAt h d.val 2 with suspended := false }
        else [0, 1].foldl (fun h k => portLink (setVport h d.val k v.val { vport h d.val k v.val with suspended := false }) d.val k v.val 1) h) →
      (∀ w : Wake, tfind s.hub.usb.wakes (d.val * 16 + v.val) = some w → (w.done = true ∨ w.start + 1600000 < s.hub.tim.coreClk) →
        exec (.hostResume d v) s = .next (s.onHub all)) ∧
      (∀ w : Wake, tfind s.hub.usb.wakes (d.val * 16 + v.val) = some w → w.done = false → s.hub.tim.coreClk ≤ w.start + 1600000 →
        exec (.hostResume d v) s = .next (s.onHub fun h =>
          let h := { h with usb := { h.usb with wakes := tdel h.usb.wakes (d.val * 16 + v.val) } }
          raise (all (count (setFlag (setFlag h (aUsbVhWake d.val) 30 true) (aUsbVhWake d.val) 29 true) aUsbCntCollided 1)) 0x0B 3 0 0)) ∧
      (tfind s.hub.usb.wakes (d.val * 16 + v.val) = none →
        exec (.hostResume d v) s = .next (s.onHub fun h => match usbPhys h d.val v.val with
          | some u => if (vport h d.val 0 v.val).suspended || (vport h d.val 1 v.val).suspended then send (all h) (.usbResume u) else all h
          | none => all h)))


/-- With operands in their ranges and the transaction's checks passed, DSP.LAYER stages the eight records of a layer, keeping bits 31
to 17 of its control word, DSP.TIMING the six of an output's timing, keeping bits 31 to 8 of DSP_TCTL, and DSP.CHECK the four of a
check window, keeping bits 31 to 1 of its control word.
Completion, that exec answers a next state with the command's own effect under hypotheses on the state and the operands
alone, is stated here for: dspLayer, dspTiming, dspCheck. -/
def Obligations.DisplayInstructions : Prop :=
  ∀ (s : State) (th : Fin 4) (c : Cmd) (w : IW) (recs : Recs),
    (∀ o k base : Nat, AtInstr s th 0x30 c w → o = w.target % 8 → k = bitsOf w.target 4 3 → onlyBits w.target 0x77 = true → dspPresent s.hub o = true →
      onlyBits w.operand 0x1FF0F = true → w.x 1 < 2 ^ 32 → w.o 1 3 < 4 → (bitOf w.operand 16 = true → k = 7) → base = cfg s.hub (standing s.hub c []) (aDspLayerCtl o k) →
      recs = [(aDspLayerCtl o k, W ((base / 2 ^ 17) * 2 ^ 17 + bitsOf w.operand 16 1 * 2 ^ 16 + w.o 8 8 * 2 ^ 8 + w.o 0 4)),
        (aDspLayerAddrLo o k, W (w.x 0)), (aDspLayerAddrHi o k, W (w.x 0 / 2 ^ 32)), (aDspLayerStride o k, W (w.x 1)),
        (aDspLayerSrcXy o k, W (w.x 2 % 2 ^ 32)), (aDspLayerSrcWh o k, W (w.x 2 / 2 ^ 32 % 2 ^ 32)),
        (aDspLayerDstXy o k, W (w.x 3 % 2 ^ 32)), (aDspLayerDstWh o k, W (w.x 3 / 2 ^ 32 % 2 ^ 32))] →
      mayStage s.hub c recs (scOut o) = true →
      exec (.dspLayer th) s = .next (s.onHub fun h => stagedBy h c w recs 0 [] [])) ∧
    (∀ o base : Nat, AtInstr s th 0x31 c w → o = w.target → o < 8 → dspPresent s.hub o = true → onlyBits w.operand 0x3F = true →
      onlyBits (w.x 2) 0x3FFFFFFFF = true → w.o 2 3 < 4 → base = cfg s.hub (standing s.hub c []) (aDspTctl o) →
      recs = [(aDspTctl o, W (base / 256 * 256 + bitsOf (w.x 2) 32 2 * 2 ^ 6 + bitsOf w.operand 5 1 * 2 ^ 5 + w.o 2 3 * 4 + w.o 1 1 * 2 + w.o 0 1)),
        (aDspH0 o, W (bitsOf (w.x 0) 0 32)), (aDspH1 o, W (bitsOf (w.x 0) 32 32)), (aDspV0 o, W (bitsOf (w.x 1) 0 32)),
        (aDspV1 o, W (bitsOf (w.x 1) 32 32)), (aDspPclk o, W (w.x 2))] →
      mayStage s.hub c recs (scOut o) = true →
      exec (.dspTiming th) s = .next (s.onHub fun h => stagedBy h c w recs 0 [] [])) ∧
    (∀ o k base : Nat, AtInstr s th 0x32 c w → o = w.target % 8 → k = bitsOf w.target 4 4 → onlyBits w.target 0xF7 = true → dspPresent s.hub o = true →
      w.operand < 2 → w.x 1 < 2 ^ 32 → base = cfg s.hub (standing s.hub c []) (aDspChkCtl o k) →
      recs = [(aDspChkCtl o k, W (base / 2 * 2 + w.operand)), (aDspChkXy o k, W (w.x 0 % 2 ^ 32)), (aDspChkWh o k, W (w.x 0 / 2 ^ 32 % 2 ^ 32)),
        (aDspChkExpect o k, W (w.x 1))] →
      mayStage s.hub c recs (scOut o) = true →
      exec (.dspCheck th) s = .next (s.onHub fun h => stagedBy h c w recs 0 [] []))

/-- A rising HPD is recorded and trains; a falling one takes the output down; an IRQ that finds the lock lost retrains; a latch point, which while P0
runs is kept until it is over, counts the frame, makes pending records active, settles the safe state, sets a changed timing and begins
the next frame's reads; an underrun marks its layer once a frame; a check window
stores its CRC and clears or counts a mismatch; SAFE_CLR waits for the latch; an AUX command with GO and its OP starts, and its reply
ends it or retries, a deferred one 7 times and a missing one 3 times.
Completion, that exec answers a next state with the command's own effect under hypotheses on the state and the operands
alone, is stated here for: hpdRise, hpdUnplug, irqHpd, latchPoint, underrun, checkWindow, safeClr, auxNativeWrite,
auxNativeRead, auxI2cWrite, auxI2cRead, auxReply. -/
def Obligations.DisplayEvents : Prop :=
  ∀ (s : State) (o : Fin 8), s.hub.runs = true → dspPresent s.hub o.val = true →
    (∀ k : SinkReport, flag s.hub (aDspStatus o.val) 27 = false →
      exec (.hpdRise o k) s = .next (s.onHub fun h =>
        faults (raise (setSink (setFlag h (aDspStatus o.val) 27 true) o.val k) 0x0A 0 o.val 0) [.train o.val])) ∧
    (∀ g : Hub, flag s.hub (aDspStatus o.val) 27 = true → g = setFlag s.hub (aDspStatus o.val) 27 false →
      exec (.hpdUnplug o) s = .next (s.onHub fun _ => raise (if scanning g o.val then dspDown g o.val 1 else g) 0x0A 0 o.val 0)) ∧
    (∀ (lost : Bool) (k : SinkReport) (g : Hub), flag s.hub (aDspStatus o.val) 27 = true → g = raise (setSink s.hub o.val k) 0x0A 0 o.val 0 →
      exec (.irqHpd o lost k) s = .next (s.onHub fun _ => if lost = true ∧ fld g (aDspStatus o.val) 20 3 ≠ 0 then faults g [.train o.val] else g)) ∧
    (∀ k : SinkReport, (scanning s.hub o.val = false → exec (.latchPoint o k) s = .next s) ∧
      (scanning s.hub o.val = true → p0Busy s.hub = true →
        exec (.latchPoint o k) s = .next (s.onHub fun h => { h with dsp := { h.dsp with late := tput h.dsp.late o.val k } }))) ∧
    (∀ (k : SinkReport) (f g h x : Hub) (old : Nat) (clr : Bool), scanning s.hub o.val = true → p0Busy s.hub = false → f = lateLatches s.hub →
      scanning f o.val = true →
      g = setSink (moved (tally (tally (count f (aDspCntFrames o.val) 1) (0x50 + o.val) 0x0500 1 none) (0x50 + o.val) 0x0502 (fetchUnits f o.val) none)
        1 false (fetchUnits f o.val)) o.val k →
      old = active g (aDspTctl o.val) →
      h = (List.range 8).foldl (fun h k => setFlag h (aDspLayerStatus o.val k) 1 false) (takePending g o.val) → clr = tget false h.dsp.clr o.val →
      x = { h with dsp := { h.dsp with
          cut := h.dsp.cut.filter (fun e => !decide (e.1 / 8 = o.val)), checked := h.dsp.checked.filter (fun e => !decide (e.1 / 16 = o.val)),
          safe := tset false h.dsp.safe o.val ((tget false h.dsp.safe o.val || tget false h.dsp.safeDue o.val) && !clr),
          safeDue := tset false h.dsp.safeDue o.val false, clr := tset false h.dsp.clr o.val false } } →
      exec (.latchPoint o k) s = .next (s.onHub fun _ =>
        let y := if clr then (List.range 16).foldl (fun h w => setFld h (aDspChkStatus o.val w) 0 8 0) (setFlag x (aDspStatus o.val) 23 false) else x
        if g.dsp.held.any (fun e => (timingAddrs o.val).contains e.1 && decide (e.2 ≠ rd g e.1)) then
          let r := dspMode y o.val old true
          faults (demandUpdate r.1) (if r.2 then [.train o.val] else [])
        else
          let n := if bitOf old 5 then min 8 (tget 0 y.dsp.frames o.val + 1) else 0
          let z := { y with dsp := { y.dsp with frames := tset 0 y.dsp.frames o.val n } }
          fetchFrame o.val (demandUpdate (setFlag z (aDspStatus o.val) 25 (decide (n = 8)))))) ∧
    (∀ (k : Fin 8) (px : Nat) (g : Hub), scanning s.hub o.val = true → (layerAt (active s.hub) o.val k.val).en = true →
      tfind s.hub.dsp.cut (o.val * 8 + k.val) = none →
      g = setFlag { s.hub with dsp := { s.hub.dsp with cut := tput s.hub.dsp.cut (o.val * 8 + k.val) px } } (aDspLayerStatus o.val k.val) 1 true →
      exec (.underrun o k true px) s = .next (s.onHub fun _ => raise (count g (aDspCntFetchErr o.val) 1) 0x0A 3 o.val 0) ∧
      exec (.underrun o k false px) s = .next (s.onHub fun _ =>
        raise (tally (count g (aDspCntUnderrun o.val) 1) (0x50 + o.val) 0x0501 1 none) 0x0A 2 o.val 0)) ∧
    (∀ (w : Fin 16) (crc : Nat) (last : Nat) (g : Hub), scanning s.hub o.val = true → bitOf (active s.hub (aDspChkCtl o.val w.val)) 0 = true →
      tget false s.hub.dsp.checked (o.val * 16 + w.val) = false → crc = checkCrc s.mem s.hub o.val w.val →
      last = (bitsOf (active s.hub (aDspChkXy o.val w.val)) 16 16 + bitsOf (active s.hub (aDspChkWh o.val w.val)) 16 16 - 1) * hActive (active s.hub) o.val +
        bitsOf (active s.hub (aDspChkXy o.val w.val)) 0 16 + bitsOf (active s.hub (aDspChkWh o.val w.val)) 0 16 - 1 →
      g = setFlag (setFlag (setFlag (wr s.hub (aDspChkResult o.val w.val) (W crc)) (aDspChkStatus o.val w.val) 31 true) (aDspChkStatus o.val w.val) 30
        (decide (crc = active s.hub (aDspChkExpect o.val w.val)))) (aDspChkStatus o.val w.val) 29
        (s.hub.dsp.cut.any (fun e => decide (e.1 / 8 = o.val) && decide (e.2 ≤ last))) →
      exec (.checkWindow o w) s = .next (s.onHub fun h =>
        let g := { g with dsp := { g.dsp with checked := tset false g.dsp.checked (o.val * 16 + w.val) true } }
        if crc = active h (aDspChkExpect o.val w.val) then setFld g (aDspChkStatus o.val w.val) 0 8 0
        else checkMismatch g o.val w.val (fld h (aDspChkStatus o.val w.val) 0 8))) ∧
    (∀ p : Port, exec (.safeClr p o) s = .next (s.onHub fun h => { h with dsp := { h.dsp with clr := tset false h.dsp.clr o.val true } })) ∧
    (∀ (p : Port) (v : Word) (g : Hub), bitOf v.toNat 31 = true → flag s.hub (aDspAuxCmd o.val) 31 = false →
      g = { setFld (wr s.hub (aDspAuxCmd o.val) (v &&& 0xFF0FFFFF)) (aDspAuxStatus o.val) 0 3 4 with
        dsp := { (setFld (wr s.hub (aDspAuxCmd o.val) (v &&& 0xFF0FFFFF)) (aDspAuxStatus o.val) 0 3 4).dsp with
          aux := tset (0, 0) (setFld (wr s.hub (aDspAuxCmd o.val) (v &&& 0xFF0FFFFF)) (aDspAuxStatus o.val) 0 3 4).dsp.aux o.val (0, 0) } } →
      (bitsOf v.toNat 28 3 = 0 → exec (.auxNativeWrite p o v) s = .next (s.onHub fun _ => g)) ∧
      (bitsOf v.toNat 28 3 = 1 → exec (.auxNativeRead p o v) s = .next (s.onHub fun _ => g)) ∧
      (bitsOf v.toNat 28 3 = 2 → exec (.auxI2cWrite p o v) s = .next (s.onHub fun _ => g)) ∧
      (bitsOf v.toNat 28 3 = 3 → exec (.auxI2cRead p o v) s = .next (s.onHub fun _ => g))) ∧
    (∀ t : Nat × Nat, flag s.hub (aDspAuxCmd o.val) 31 = true → t = tget (0, 0) s.hub.dsp.aux o.val →
      exec (.auxReply o .nack) s = .next (s.onHub fun h => auxEnd h o.val 1) ∧
      (t.2 < 7 → exec (.auxReply o .defer) s = .next (s.onHub fun h => { h with dsp := { h.dsp with aux := tset (0, 0) h.dsp.aux o.val (t.1, t.2 + 1) } })) ∧
      (7 ≤ t.2 → exec (.auxReply o .defer) s = .next (s.onHub fun h => auxEnd h o.val 2)) ∧
      (t.1 < 3 → exec (.auxReply o .missing) s = .next (s.onHub fun h => { h with dsp := { h.dsp with aux := tset (0, 0) h.dsp.aux o.val (t.1 + 1, t.2) } })) ∧
      (3 ≤ t.1 → exec (.auxReply o .missing) s = .next (s.onHub fun h => auxEnd h o.val 3)) ∧
      (∀ data : List Byte, (fld s.hub (aDspAuxCmd o.val) 28 1 ≠ 1 → exec (.auxReply o (.ack data)) s = .next (s.onHub fun h => auxEnd h o.val 0)) ∧
        (fld s.hub (aDspAuxCmd o.val) 28 1 = 1 → exec (.auxReply o (.ack data)) s = .next (s.onHub fun h =>
          auxEnd (auxData h o.val (data.take (fld h (aDspAuxCmd o.val) 24 4 + 1))) o.val 0))))

/-- After reset no command waits and the core runs; hub time, TIM_EDGES, the tick number and the vintage read 0; Turner runs, has
no command outstanding and no transaction open; every completion ring is empty with PHASE 1; every trunk is DISABLED; every register
holds its reset value; every byte of the cellar reads 0 and is in no hole. The part itself (its variant and fuses)
is the model's choice (notes/assumptions/1.md). -/
def Obligations.ResetState : Prop :=
  State.reset.pending = [] ∧ State.reset.hub.runs = true ∧ hubNs State.reset.hub = 0 ∧ State.reset.hub.tim.edges = 0 ∧
    tickNo State.reset.hub = 0 ∧ State.reset.hub.txs.vintage = 0 ∧ flag State.reset.hub aTrnCtl 0 = true ∧
    (∀ th : Fin 4, threadCmd State.reset.hub th = none) ∧ (∀ n : Fin 8, openTx State.reset.hub n.val = none) ∧
    (∀ r : Fin 8, fld State.reset.hub (aTrnCcTail r.val) 0 10 = 0 ∧ fld State.reset.hub (aTrnCcTail r.val) 15 1 = 1 ∧
      fld State.reset.hub (aTrnCcHead r.val) 0 10 = 0) ∧
    (∀ n : Fin 8, trkState State.reset.hub n.val = 0) ∧
    (∀ a : Nat, rd State.reset.hub a = resetVal State.reset.hub.part a) ∧
    (∀ a : Nat, cellarByte State.reset.mem a = 0)

/-- The cellar of the reset state has the canonical form, and the form says that two cellars which read alike everywhere are the
same data. -/
def Obligations.CellarFormAtReset : Prop :=
  Memory.wf State.reset.mem = true ∧
    ∀ m n : Mem, Memory.wf m = true → Memory.wf n = true → (∀ a : Nat, cellarByte m a = cellarByte n a) → m = n

/-- Whatever command stands in front, a step from a state whose cellar has the canonical form leads to one whose cellar has it. -/
def Obligations.CellarFormKept : Prop :=
  ∀ s t : State, Memory.wf s.mem = true → step s = .next t → Memory.wf t.mem = true

/-- After a write of a run of bytes at an address, byte i of the run reads as written where its channel is not retired, and as
before in a hole; every byte outside the run reads as before; a write to an address on a management port's bus changes no byte. -/
def Obligations.CellarReadsAsWritten : Prop :=
  ∀ (m : Mem) (h : Hub) (p : Port) (a : Nat) (bs : List Byte),
    (onBus a = false → ∀ (i : Nat) (b : Byte), bs[i]? = some b →
      cellarByte (writeHub m h p a bs).1 (a + i) = if isHole h (a + i) then cellarByte m (a + i) else b) ∧
    (onBus a = false → ∀ c : Nat, (c < a ∨ a + bs.length ≤ c) → cellarByte (writeHub m h p a bs).1 c = cellarByte m c) ∧
    (onBus a = true → ∀ c : Nat, cellarByte (writeHub m h p a bs).1 c = cellarByte m c)

/-- No command stops the hub: in every state each of them answers a next state (errors become statuses, events, counts and
retirements), and none but the step itself touches the queue of waiting commands. -/
def Obligations.EveryCommandAnswers : Prop :=
  ∀ (c : Instr) (s : State), ∃ t : State, exec c s = .next t ∧ t.pending = s.pending

/-- In Doze, Off, a warm reset and after a rail failure every command but those of the always-on domain leaves the whole state as it
is. That such a command has no effect, and does not stop the model, is the model's reading (notes/assumptions/9.md). -/
def Obligations.HaltedCoreChangesNothing : Prop :=
  ∀ (c : Instr) (s : State), s.hub.runs = false → servedAlwaysOn c = false → exec c s = .next s

/-- A command that is not one of those that bring data to the cellar leaves the whole of it unchanged; in particular no direct
register write and no command of Turner's threads but PWR.STATE does. -/
def Obligations.OnlyListedCommandsWriteTheCellar : Prop :=
  ∀ (c : Instr) (s t : State), mayWriteCellar c = false → exec c s = .next t → t.mem = s.mem

/-- For an aligned address of control space that is no register's and in no memory window: a port reads 0 and loads no latch,
CSR.RD completes with 0, a direct write changes nothing but the time of the last access and so neither staging, vintage nor digest,
and CSR.WR and CSR.RMW complete INVALID. -/
def Obligations.UnassignedAddresses : Prop :=
  ∀ (s : State) (a : Word) (t : Nat), s.hub.runs = true → a.toNat % 4 = 0 → a.toNat < 2 ^ 24 → unassigned a.toNat = true →
    (atClk s.hub t).txs = s.hub.txs ∧
    (∀ p : Port, exec (.lowWordRead (.port p) a t) s = .next (s.onHub fun h => send (atClk h t) (.data (.port p) a.toNat 0))) ∧
    (∀ (p : Port) (v : Word), exec (.registerWrite p a v t) s = .next (s.onHub fun h => atClk h t) ∧
      exec (.mmioShWrite p a v t) s = .next (s.onHub fun h => atClk h t)) ∧
    (∀ (th : Fin 4) (c : Cmd) (w : IW), w.operand = a.toNat →
      (AtInstr { s with hub := atClk s.hub t } th 0x08 c w → w.target = 0 →
        exec (.csrRd th t) s = .next (s.onHub fun h => settle (atClk h t) c.id .ok 0)) ∧
      (AtInstr { s with hub := atClk s.hub t } th 0x09 c w →
        exec (.csrWr th t) s = .next (s.onHub fun h => settle (atClk h t) c.id .invalid 0)) ∧
      (AtInstr { s with hub := atClk s.hub t } th 0x0A c w →
        exec (.csrRmw th t) s = .next (s.onHub fun h => settle (atClk h t) c.id .invalid 0)))

/-- Staging a record into records with distinct addresses leaves them distinct; its address holds the new value, every other address
its old one; an address already there keeps its place and takes no new entry, another is added at the end. What every S instruction
does with its records: within 4,096 entries all of them are staged into the current transaction; beyond, the instruction completes
INVALID with detail 0x0402 and the transaction is as it was and open. -/
def Obligations.StagingKeepsRecordsDistinct : Prop :=
  (∀ (r : Recs) (a : Nat) (v : Word), (r.map (·.1)).Nodup →
    ((stageRec r a v).map (·.1)).Nodup ∧
    (a ∈ r.map (·.1) → (stageRec r a v).map (·.1) = r.map (·.1)) ∧
    (a ∉ r.map (·.1) → stageRec r a v = r ++ [(a, v)]) ∧
    (stageRec r a v).find? (fun e => decide (e.1 = a)) = some (a, v) ∧
    (∀ b : Nat, b ≠ a → (stageRec r a v).find? (fun e => decide (e.1 = b)) = r.find? (fun e => decide (e.1 = b)))) ∧
  (∀ (h : Hub) (c : Cmd) (w : IW) (recs : Recs) (extra : Scope) (x : Nat) (opens binds : List Nat) (n : Fin 8) (t : Tx),
    c.stale = false → c.gone = false → c.curTx = some n → openTx h n.val = some t → t.owner = cmdPort h c → t.committing = false →
    ((touches h (standing h c recs) recs).union extra).within t.scope = true →
    ((stageRecs t.recs recs).length ≤ 4096 → stageOpen h c w recs extra x opens binds =
      settle { h with txs := { h.txs with open_ := tput h.txs.open_ n.val { t with
        recs := stageRecs t.recs recs
        opens := t.opens ++ opens.map (fun a => (a, (t.recs.find? (fun e => decide (e.1 = a))).map (fun e => bitOf e.2.toNat 31)))
        binds := t.binds ++ binds } } } c.id .ok x) ∧
    (4096 < (stageRecs t.recs recs).length → stageOpen h c w recs extra x opens binds = settle h c.id .invalid 0x0402 ∧
      openTx (settle h c.id .invalid 0x0402) n.val = some t))

/-- TX.ABORT of an open transaction by its owner, or with FORCE, leaves its handle free: its records and its scope are gone, every
other handle, the vintage and the digest are as before. On a free handle it completes INVALID with detail 0x0401, on an accepted one
INVALID with detail 0x0403, and every transaction is as before.
Completion, that exec answers a next state with the command's own effect under hypotheses on the state and the operands
alone, is stated here for: txAbort. -/
def Obligations.AbortedTransactions : Prop :=
  ∀ (s : State) (th : Fin 4) (c : Cmd) (w : IW) (n : Nat), AtInstr s th 0x12 c w → w.operand < 2 →
    (w.target < 8 ∨ w.target = 0xF000) → txTarget c w.target = some n →
    (∀ t : Tx, tfind s.hub.txs.open_ n = some t → t.accepted = false → (t.owner = cmdPort s.hub c ∨ w.operand = 1) →
      ∃ u : State, exec (.txAbort th) s = .next u ∧ tfind u.hub.txs.open_ n = none ∧
        (∀ m : Nat, m ≠ n → tfind u.hub.txs.open_ m = tfind s.hub.txs.open_ m) ∧
        u.hub.txs.vintage = s.hub.txs.vintage ∧ u.hub.txs.digest = s.hub.txs.digest) ∧
    (tfind s.hub.txs.open_ n = none → ∃ u : State, u = s.onHub (fun h => settle h c.id .invalid 0x0401) ∧
      exec (.txAbort th) s = .next u ∧ u.hub.txs = s.hub.txs) ∧
    (∀ t : Tx, tfind s.hub.txs.open_ n = some t → t.accepted = true →
      ∃ u : State, u = s.onHub (fun h => settle h c.id .invalid 0x0403) ∧ exec (.txAbort th) s = .next u ∧ u.hub.txs = s.hub.txs)

/-- The record that a ring's command leaves at TAIL holds its TAG, STATUS, zeros, the ring's PHASE, VINTAGE [47:0] and RESULT; TAIL
moves on by one of 1,024 and PHASE inverts as it wraps; no other record of any ring changes. RESULT of a status other than OK holds
the word index, the source and the detail code in their places. -/
def Obligations.CompletionRecords : Prop :=
  (∀ (h : Hub) (r : Fin 8) (tag : BitVec 8) (irq : Bool) (st : Status) (v : Nat),
    let old := fld h (aTrnCcTail r.val) 0 10
    let g := writeRecord h r.val tag irq st v
    let x := (tget 0 g.trn.ccMem (r.val * 1024 + old)).toNat
    bitsOf x 0 8 = tag.toNat ∧ bitsOf x 8 3 = st.code ∧ bitsOf x 11 4 = 0 ∧ bitsOf x 15 1 = fld h (aTrnCcTail r.val) 15 1 ∧
      bitsOf x 16 48 = h.txs.vintage.toNat % 2 ^ 48 ∧ bitsOf x 64 64 = v % 2 ^ 64 ∧
      fld g (aTrnCcTail r.val) 0 10 = (old + 1) % 1024 ∧
      fld g (aTrnCcTail r.val) 15 1 = (if old = 1023 then 1 - fld h (aTrnCcTail r.val) 15 1 else fld h (aTrnCcTail r.val) 15 1) ∧
      (∀ k : Nat, k ≠ r.val * 1024 + old → tget 0 g.trn.ccMem k = tget 0 h.trn.ccMem k) ∧
      (∀ a : Nat, a ≠ aTrnCcTail r.val → rd g a = rd h a)) ∧
  (∀ (c : Cmd) (word detail : Nat), word < 2 ^ 15 → detail < 2 ^ 32 →
    bitsOf (badResult c word detail) 49 15 = word ∧ bitOf (badResult c word detail) 48 = c.imem ∧
      bitsOf (badResult c word detail) 32 16 = 0 ∧ bitsOf (badResult c word detail) 0 32 = detail)

/-- Each of Turner's instructions completes INVALID with detail 0 and with no other effect when IND is set with a bit above
OPERAND [4:0], its words run past the end of the body, or TARGET is a reserved code, and each long instruction of kind O, WAIT.TICK and FENCE when a tick program holds it; FAULT
with detail 0 when a word of it that an IMEM command reads stands in a bank that cannot be read; a
thread that stands at another instruction's word makes the command change nothing (the model's reading,
notes/assumptions/9.md). -/
def Obligations.BadOperandsAreInvalid : Prop :=
  ∀ (i : Instr) (s : State) (th : Fin 4) (op : Nat) (c : Cmd) (w : IW), s.hub.runs = true → turnerRow i = some (th, op) →
    threadCmd s.hub th = some c → c.wait = none → c.count < budget s.hub c → c.started = true → fetchIW s.hub c c.pc = some w →
    (w.op = op → (c.imem && imemBad s.hub c.pc w.words) = true → exec i s = .next (s.onHub fun h => settle h c.id .fault 0)) ∧
    (w.op = op → (c.imem && imemBad s.hub c.pc w.words) = false → (w.bad = true ∨ (longOp op = true ∧ c.tp.isSome = true)) →
      exec i s = .next (s.onHub fun h => settle h c.id .invalid 0)) ∧
    (w.op ≠ op → exec i s = .next s)

/-- The CRC gives 0x29B1 over the nine ASCII bytes of "123456789". The bucket is the XOR of the two bytes of the CRC over the four
bytes of TID (its high bits zero) and FLOW, and below 256. A packet bound for a group tunnel whose dock has no map change under way
and some active member goes to the trunk that the map in force gives its bucket: the member of the map's mask, in ascending order,
that the bucket's two bits name. -/
def Obligations.FlowBuckets : Prop :=
  crc16 (([0x31, 0x32, 0x33, 0x34, 0x35, 0x36, 0x37, 0x38, 0x39] : List Nat).flatMap (bitsMsb 8)) = 0x29B1 ∧
  (∀ tid flow x : Nat, tid < 4096 → flow < 65536 →
    x = crc16 (([tid / 256, tid % 256, flow / 256, flow % 256] : List Nat).flatMap (bitsMsb 8)) →
    flowBucket tid flow = (x / 256) ^^^ (x % 256) ∧ flowBucket tid flow < 256) ∧
  (∀ (h : Hub) (p : Pkt) (d b n : Nat), groupDock h p = some d → tfind h.swc.fences d = none → tfind h.swc.fences p.src = none →
    (members (mapMask h d)).any (fun k => decide (capacity h k ≠ 0)) = true → b = flowBucket p.hdr.tid.toNat p.hdr.flow.toNat →
    (bitsSet 8 (fld h (aSwcGrpStatus d) 16 8))[fld h (aSwcGrpMap d (b / 16)) (2 * (b % 16)) 2]? = some n →
    routeIn h p = queueIn h { p with bucket := some b, egr := n })

/-- While some member has capacity the targets sum to 256; each is the floor of 256 c / C or one more; one more goes to a member only
if every member with a larger fraction, and every lower trunk with the same one, has one more too; a member without capacity has
target 0. -/
def Obligations.BucketTargetsFill : Prop :=
  ∀ (h : Hub) (mask c : Nat), c = ((members mask).map (capacity h)).sum → c ≠ 0 →
    ((targets h mask).map (·.1)) = members mask ∧ ((targets h mask).map (·.2)).sum = 256 ∧
    (∀ n t : Nat, (n, t) ∈ targets h mask → t = 256 * capacity h n / c ∨ t = 256 * capacity h n / c + 1) ∧
    (∀ n t m u : Nat, (n, t) ∈ targets h mask → (m, u) ∈ targets h mask → t = 256 * capacity h n / c + 1 →
      (256 * capacity h n % c < 256 * capacity h m % c ∨ 256 * capacity h n % c = 256 * capacity h m % c ∧ m < n) →
      u = 256 * capacity h m / c + 1) ∧
    (∀ n t : Nat, (n, t) ∈ targets h mask → capacity h n = 0 → t = 0)

/-- A red packet evicts nothing. Every victim is a lossy packet of the cask part of a queue at the same egress port, red and of a
class at most the packet's or green and of a lower one; victims are taken class by class from class 0 upward, red before green,
newest admitted first; they hold at least the cells needed and the last of them was needed; where all candidates together hold
fewer, there are none. -/
def Obligations.PushOutVictims : Prop :=
  ∀ (h : Hub) (p : Pkt) (d : Nat),
    (p.red = true → victims h p d = []) ∧
    (∀ v ∈ victims h p d, v.lossy = true ∧ v.egr = p.egr ∧ (∃ e ∈ h.swc.queues, v ∈ e.2.cask) ∧
      (v.cls < p.cls ∨ (v.cls = p.cls ∧ v.red = true))) ∧
    (victims h p d).Pairwise (fun x y => x.cls < y.cls ∨ (x.cls = y.cls ∧
      ((x.red = true ∧ y.red = false) ∨ (x.red = y.red ∧ y.order ≤ x.order)))) ∧
    (victims h p d ≠ [] → d ≤ cellsOf (victims h p d) ∧ cellsOf (victims h p d).dropLast < d) ∧
    (p.red = false → cellsOf (victimOrder p.cls (candidates h p.egr)) < d → victims h p d = []) ∧
    (p.red = false → d ≤ cellsOf (victimOrder p.cls (candidates h p.egr)) → d ≤ cellsOf (victims h p d))

/-- After the three iterations of a cell slot no ingress port and no egress port stands in two pairs, every pair was requested, so
both its ports are up and the pair offers a batch; what the first iteration paired stays paired, and only that moves pointers. -/
def Obligations.SpindleMatching : Prop :=
  ∀ (h : Hub) (req : List (Nat × Nat × Bool)) (one m : Matching), req = spindleRequests h → one = spindleIter h req ⟨[], []⟩ true →
    m = spindleIter h req (spindleIter h req one false) false →
    (m.pairs.map (·.1)).Nodup ∧ (m.pairs.map (·.2)).Nodup ∧
    (∀ i j : Nat, (i, j) ∈ m.pairs → portUp h i = true ∧ portUp h j = true ∧ offer h i j ≠ [] ∧ (∃ u : Bool, (i, j, u) ∈ req)) ∧
    m.first = one.pairs ∧ (∀ x ∈ one.pairs, x ∈ m.pairs)

/-- A packet of at most 512 bytes, with its tag exactly when it is encrypted, occupies the units of R153, and its header, payload and
tag are read back from them whole, each field at every value. At a packet boundary of its VC the receiver's parse of the packet's
units followed by anything yields the packet first and goes on with what follows, for every type below 0x6 on its VC. -/
def Obligations.PacketsSurviveTheirUnits : Prop :=
  ∀ p : TunPacket, packetOk p = true →
    unitsPacket (packetToUnits p) = p ∧
    (packetToUnits p).length = packetUnits p.payload.length p.hdr.keyEn ∧ (packetToUnits p).length ≤ 68 ∧
    (∀ (fuel : Nat) (rest : List Word64), p.hdr.type.toNat < 6 → vcOk p.hdr.type.toNat p.hdr.kind.toNat p.hdr.vc.toNat = true →
      parseBody (fuel + (packetToUnits p).length) (packetToUnits p ++ rest) [] p.hdr.vc.toNat =
        { parseBody fuel rest [] p.hdr.vc.toNat with packets := p :: (parseBody fuel rest [] p.hdr.vc.toNat).packets })

/-- A memory read or write of whole double words, up to 4,096 bytes, at any address, a configuration request and a completion are
read back from their bytes whole, with every tag, requester, address, byte enable, status and byte of data. The layout of the bytes
is the family's (PRESUMED, notes/assumptions/30.md). -/
def Obligations.TlpsSurviveTheirBytes : Prop :=
  (∀ (write : Bool) (req : BitVec 16) (tag : BitVec 14) (addr : BitVec 64) (n : Nat) (first last : BitVec 4) (data : List Byte) (attr : BitVec 3),
    0 < n → n ≤ 1024 → (first = 15 → n = 1 → last = 15) → data.length = (if write then 4 * n else 0) →
    ∀ t : Tlp, t = { tlpZero with
      kind := if write then .memWr else .memRd, reqId := req, tag := tag, addr := addr, len := 4 * n, firstBe := first,
      lastBe := last, data := data, attr := attr } → bytesTlp (tlpBytes t) = some t) ∧
  (∀ (write type1 : Bool) (req target : BitVec 16) (tag : BitVec 14) (reg : Nat) (first : BitVec 4) (data : List Byte) (attr : BitVec 3),
    reg < 4096 → data.length = (if write then 4 else 0) →
    ∀ t : Tlp, t = { tlpZero with
      kind := if write then .cfgWr else .cfgRd, type1 := type1, reqId := req, target := target, tag := tag, addr := BitVec.ofNat 64 reg,
      len := 4, firstBe := first, lastBe := if first = 15 then 15 else 0, data := data, attr := attr } → bytesTlp (tlpBytes t) = some t) ∧
  (∀ (lock : Bool) (req target : BitVec 16) (tag : BitVec 14) (low count n : Nat) (status : BitVec 3) (data : List Byte) (attr : BitVec 3),
    low < 128 → 0 < count → count ≤ 4096 → n ≤ 1023 → data.length = 4 * n →
    ∀ t : Tlp, t = { tlpZero with
      kind := if lock then .cplLk else .cpl, reqId := req, target := target, tag := tag, addr := BitVec.ofNat 64 low, len := 4 * n,
      data := data, status := status, byteCount := count, attr := attr } → bytesTlp (tlpBytes t) = some t)

/-- Text sealed under a key, a nonce and additional data opens to the same text with the tag that sealing gave, has the same length,
and does not open with another tag. -/
def Obligations.SealedTextOpens : Prop :=
  ∀ (key nonce : Nat) (aad plain : List Nat),
    gcmOpen key nonce aad (gcmSeal key nonce aad plain).1 (gcmSeal key nonce aad plain).2 = some plain ∧
    (gcmSeal key nonce aad plain).1.length = plain.length ∧
    (∀ tag : Nat, tag ≠ (gcmSeal key nonce aad plain).2 → gcmOpen key nonce aad (gcmSeal key nonce aad plain).1 tag = none)

end
end

