-- ==== Sys2Proof/Laws/Bits.lean ====
section
/-!
SUPPORT. Fields of numbers: a field reads as it was put, and a field that lies apart from it as before.
-/
namespace Sys2Proof.Machine

/-- A number in three parts around a field. -/
theorem split_parts (v lo n : Nat) : v = (v / 2 ^ lo / 2 ^ n) * 2 ^ (lo + n) + bitsOf v lo n * 2 ^ lo + v % 2 ^ lo := by
  unfold bitsOf
  have h1 := Nat.div_add_mod v (2 ^ lo)
  have h2 := Nat.div_add_mod (v / 2 ^ lo) (2 ^ n)
  rw [Nat.pow_add]
  calc v = 2 ^ lo * (v / 2 ^ lo) + v % 2 ^ lo := h1.symm
    _ = 2 ^ lo * (2 ^ n * (v / 2 ^ lo / 2 ^ n) + v / 2 ^ lo % 2 ^ n) + v % 2 ^ lo := by rw [h2]
    _ = _ := by rw [Nat.mul_add]; congr 1; congr 1 <;> ac_rfl

theorem putBits_parts (v lo n x : Nat) :
    putBits v lo n x = (v / 2 ^ lo / 2 ^ n) * 2 ^ (lo + n) + (x % 2 ^ n) * 2 ^ lo + v % 2 ^ lo := by
  have h := split_parts v lo n
  unfold putBits
  omega

theorem putBits_parts' (v lo n x : Nat) :
    putBits v lo n x = 2 ^ lo * (2 ^ n * (v / 2 ^ lo / 2 ^ n) + x % 2 ^ n) + v % 2 ^ lo := by
  rw [putBits_parts, Nat.pow_add, Nat.mul_add]
  congr 1; congr 1 <;> ac_rfl

theorem putBits_div (v lo n x : Nat) : putBits v lo n x / 2 ^ lo = 2 ^ n * (v / 2 ^ lo / 2 ^ n) + x % 2 ^ n := by
  rw [putBits_parts', Nat.mul_add_div (Nat.two_pow_pos lo), Nat.div_eq_of_lt (Nat.mod_lt _ (Nat.two_pow_pos lo)), Nat.add_zero]

theorem putBits_mod (v lo n x : Nat) : putBits v lo n x % 2 ^ lo = v % 2 ^ lo := by
  rw [putBits_parts', Nat.mul_add_mod, Nat.mod_mod]

/-- The field reads as it was put. -/
@[simp] theorem bitsOf_putBits_self (v lo n x : Nat) : bitsOf (putBits v lo n x) lo n = x % 2 ^ n := by
  rw [bitsOf, putBits_div, Nat.mul_add_mod, Nat.mod_mod]

/-- A field above the one that was put reads as before. -/
theorem bitsOf_putBits_above (v lo n x lo' n' : Nat) (h : lo + n ≤ lo') : bitsOf (putBits v lo n x) lo' n' = bitsOf v lo' n' := by
  obtain ⟨d, rfl⟩ : ∃ d, lo' = lo + n + d := ⟨lo' - (lo + n), by omega⟩
  have key : putBits v lo n x / 2 ^ lo / 2 ^ n = v / 2 ^ lo / 2 ^ n := by
    rw [putBits_div, Nat.mul_add_div (Nat.two_pow_pos n), Nat.div_eq_of_lt (Nat.mod_lt _ (Nat.two_pow_pos n)), Nat.add_zero]
  unfold bitsOf
  rw [Nat.pow_add, Nat.pow_add, ← Nat.div_div_eq_div_mul, ← Nat.div_div_eq_div_mul, key, ← Nat.div_div_eq_div_mul,
    ← Nat.div_div_eq_div_mul]

/-- A field below the one that was put reads as before. -/
theorem bitsOf_putBits_below (v lo n x lo' n' : Nat) (h : lo' + n' ≤ lo) : bitsOf (putBits v lo n x) lo' n' = bitsOf v lo' n' := by
  obtain ⟨d, rfl⟩ : ∃ d, lo = lo' + n' + d := ⟨lo - (lo' + n'), by omega⟩
  have hm := putBits_mod v (lo' + n' + d) n x
  have low : ∀ u w : Nat, u % 2 ^ (lo' + n' + d) = w % 2 ^ (lo' + n' + d) → bitsOf u lo' n' = bitsOf w lo' n' := by
    intro u w huw
    have hd : (2 : Nat) ^ (lo' + n') ∣ 2 ^ (lo' + n' + d) := ⟨2 ^ d, by rw [Nat.pow_add]⟩
    have h1 : u % 2 ^ (lo' + n') = w % 2 ^ (lo' + n') := by
      rw [← Nat.mod_mod_of_dvd u hd, huw, Nat.mod_mod_of_dvd w hd]
    unfold bitsOf
    rw [← Nat.mod_mul_right_div_self, ← Nat.mod_mul_right_div_self, ← Nat.pow_add, h1]
  exact low _ _ hm

/-- Putting a field keeps a bound. -/
theorem putBits_lt (v lo n x w : Nat) (hv : v < 2 ^ w) (h : lo + n ≤ w) : putBits v lo n x < 2 ^ w := by
  obtain ⟨d, rfl⟩ : ∃ d, w = lo + n + d := ⟨w - (lo + n), by omega⟩
  rw [putBits_parts]
  have h1 : v / 2 ^ lo / 2 ^ n < 2 ^ d := by
    rw [Nat.div_div_eq_div_mul, ← Nat.pow_add]
    exact Nat.div_lt_of_lt_mul (by rw [← Nat.pow_add]; exact hv)
  have h2 : x % 2 ^ n < 2 ^ n := Nat.mod_lt _ (Nat.two_pow_pos n)
  have h3 : v % 2 ^ lo < 2 ^ lo := Nat.mod_lt _ (Nat.two_pow_pos lo)
  have h4 : (x % 2 ^ n) * 2 ^ lo + v % 2 ^ lo < 2 ^ (lo + n) := by
    have : (x % 2 ^ n + 1) * 2 ^ lo ≤ 2 ^ n * 2 ^ lo := Nat.mul_le_mul_right _ h2
    rw [Nat.pow_add, Nat.mul_comm (2 ^ lo)]
    rw [Nat.add_mul] at this
    omega
  have h5 : (v / 2 ^ lo / 2 ^ n + 1) * 2 ^ (lo + n) ≤ 2 ^ d * 2 ^ (lo + n) := Nat.mul_le_mul_right _ h1
  rw [Nat.pow_add 2 (lo + n) d, Nat.mul_comm (2 ^ (lo + n))]
  rw [Nat.add_mul] at h5
  omega

end Sys2Proof.Machine
end

