-- ==== Sys2Proof/Laws/Tab.lean ====
section
/-!
SUPPORT. What reading and writing a sparse table do: a key reads as it was last written, every other key as before, and the
canonical form is kept. The reading laws hold of every list, sorted or not.
-/
namespace Sys2Proof.Machine

theorem tfind_tdel_self {α : Type} (t : Tab α) (a : Nat) : tfind (tdel t a) a = none := by
  induction t with
  | nil => rfl
  | cons e t ih =>
    unfold tdel
    split
    · exact ih
    · simp only [tfind]; rw [if_neg ‹_›]; exact ih

theorem tfind_tdel_ne {α : Type} (t : Tab α) {a b : Nat} (h : b ≠ a) : tfind (tdel t a) b = tfind t b := by
  induction t with
  | nil => rfl
  | cons e t ih =>
    obtain ⟨k, w⟩ := e
    unfold tdel
    split
    · rename_i hk; subst hk; simp only [tfind]; rw [if_neg h]; exact ih
    · simp only [tfind]; split
      · rfl
      · exact ih

theorem tfind_tins_self {α : Type} (t : Tab α) (a : Nat) (v : α) (h : tfind t a = none) : tfind (tins t a v) a = some v := by
  induction t with
  | nil => simp [tins, tfind]
  | cons e t ih =>
    obtain ⟨k, w⟩ := e
    simp only [tfind] at h
    split at h
    · cases h
    · unfold tins
      split
      · simp [tfind]
      · simp only [tfind]; rw [if_neg ‹_›]; exact ih h

theorem tfind_tins_ne {α : Type} (t : Tab α) {a b : Nat} (v : α) (h : b ≠ a) : tfind (tins t a v) b = tfind t b := by
  induction t with
  | nil => simp [tins, tfind, h]
  | cons e t ih =>
    obtain ⟨k, w⟩ := e
    unfold tins
    split
    · simp [tfind, h]
    · simp only [tfind]; split
      · rfl
      · exact ih

@[simp] theorem tfind_tput_self {α : Type} (t : Tab α) (a : Nat) (v : α) : tfind (tput t a v) a = some v :=
  tfind_tins_self _ a v (tfind_tdel_self t a)

theorem tfind_tput_ne {α : Type} (t : Tab α) {a b : Nat} (v : α) (h : b ≠ a) : tfind (tput t a v) b = tfind t b := by
  unfold tput
  rw [tfind_tins_ne _ v h, tfind_tdel_ne t h]

@[simp] theorem tget_tset_self {α : Type} [DecidableEq α] (d : α) (t : Tab α) (a : Nat) (v : α) : tget d (tset d t a v) a = v := by
  unfold tget tset
  split
  · rw [tfind_tdel_self]; exact (‹v = d›).symm
  · rw [tfind_tput_self]; rfl

theorem tget_tset_ne {α : Type} [DecidableEq α] (d d' : α) (t : Tab α) {a b : Nat} (v : α) (h : b ≠ a) :
    tget d (tset d' t a v) b = tget d t b := by
  unfold tget tset
  split
  · rw [tfind_tdel_ne t h]
  · rw [tfind_tput_ne t v h]

@[simp] theorem tget_tput_self {α : Type} (d : α) (t : Tab α) (a : Nat) (v : α) : tget d (tput t a v) a = v := by
  simp [tget]

theorem tget_tput_ne {α : Type} (d : α) (t : Tab α) {a b : Nat} (v : α) (h : b ≠ a) : tget d (tput t a v) b = tget d t b := by
  unfold tget; rw [tfind_tput_ne t v h]

@[simp] theorem tget_tdel_self {α : Type} (d : α) (t : Tab α) (a : Nat) : tget d (tdel t a) a = d := by
  simp [tget, tfind_tdel_self]

/-! ### The canonical form -/

/-- Every key of a table lies above a bound. -/
def keysAbove {α : Type} (b : Nat) : Tab α → Bool
  | [] => true
  | (k, _) :: t => decide (b < k) && keysAbove b t

theorem keysAbove_mono {α : Type} {b c : Nat} (h : b ≤ c) : ∀ (t : Tab α), keysAbove c t = true → keysAbove b t = true
  | [], _ => rfl
  | (k, w) :: t, ht => by
    simp only [keysAbove, Bool.and_eq_true, decide_eq_true_eq] at ht ⊢
    exact ⟨by omega, keysAbove_mono h t ht.2⟩

theorem keysRise_cons {α : Type} (k : Nat) (w : α) (t : Tab α) :
    keysRise ((k, w) :: t) = (keysAbove k t && keysRise t) := by
  induction t generalizing k w with
  | nil => rfl
  | cons e t ih =>
    obtain ⟨k', w'⟩ := e
    rw [Bool.eq_iff_iff]
    simp only [keysRise, keysAbove, ih, Bool.and_eq_true, decide_eq_true_eq]
    constructor
    · rintro ⟨h1, h2, h3⟩
      exact ⟨⟨h1, keysAbove_mono (Nat.le_of_lt h1) t h2⟩, h2, h3⟩
    · rintro ⟨⟨h1, _⟩, h2, h3⟩
      exact ⟨h1, h2, h3⟩

theorem keysAbove_tdel {α : Type} {b : Nat} (a : Nat) : ∀ (t : Tab α), keysAbove b t = true → keysAbove b (tdel t a) = true
  | [], _ => rfl
  | (k, w) :: t, h => by
    simp only [keysAbove, Bool.and_eq_true] at h
    unfold tdel
    split
    · exact keysAbove_tdel a t h.2
    · simp only [keysAbove, Bool.and_eq_true]; exact ⟨h.1, keysAbove_tdel a t h.2⟩

theorem keysAbove_tins {α : Type} {b a : Nat} (v : α) (hb : b < a) :
    ∀ (t : Tab α), keysAbove b t = true → keysAbove b (tins t a v) = true
  | [], _ => by simp [tins, keysAbove, hb]
  | (k, w) :: t, h => by
    simp only [keysAbove, Bool.and_eq_true, decide_eq_true_eq] at h
    unfold tins
    split
    · simp [keysAbove, hb, h.1, h.2]
    · simp only [keysAbove, Bool.and_eq_true, decide_eq_true_eq]; exact ⟨h.1, keysAbove_tins v hb t h.2⟩

theorem keysRise_tdel {α : Type} (a : Nat) : ∀ (t : Tab α), keysRise t = true → keysRise (tdel t a) = true
  | [], _ => rfl
  | (k, w) :: t, h => by
    rw [keysRise_cons, Bool.and_eq_true] at h
    unfold tdel
    split
    · exact keysRise_tdel a t h.2
    · rw [keysRise_cons, Bool.and_eq_true]; exact ⟨keysAbove_tdel a t h.1, keysRise_tdel a t h.2⟩

theorem keysRise_tins {α : Type} {a : Nat} (v : α) :
    ∀ (t : Tab α), keysRise t = true → tfind t a = none → keysRise (tins t a v) = true
  | [], _, _ => rfl
  | (k, w) :: t, h, hf => by
    rw [keysRise_cons, Bool.and_eq_true] at h
    simp only [tfind] at hf
    split at hf
    · cases hf
    · rename_i hne
      unfold tins
      split
      · rename_i hlt
        rw [keysRise_cons, Bool.and_eq_true, keysRise_cons, Bool.and_eq_true]
        refine ⟨?_, h⟩
        simp only [keysAbove, Bool.and_eq_true, decide_eq_true_eq]
        exact ⟨hlt, keysAbove_mono (Nat.le_of_lt hlt) t h.1⟩
      · rename_i hlt
        rw [keysRise_cons, Bool.and_eq_true]
        exact ⟨keysAbove_tins v (by omega) t h.1, keysRise_tins v t h.2 hf⟩

theorem keysRise_tput {α : Type} (t : Tab α) (a : Nat) (v : α) (h : keysRise t = true) : keysRise (tput t a v) = true :=
  keysRise_tins v _ (keysRise_tdel a t h) (tfind_tdel_self t a)

theorem all_tdel {α : Type} (p : Nat × α → Bool) (a : Nat) : ∀ (t : Tab α), t.all p = true → (tdel t a).all p = true
  | [], _ => rfl
  | (k, w) :: t, h => by
    simp only [List.all_cons, Bool.and_eq_true] at h
    unfold tdel
    split
    · exact all_tdel p a t h.2
    · simp only [List.all_cons, Bool.and_eq_true]; exact ⟨h.1, all_tdel p a t h.2⟩

theorem all_tins {α : Type} (p : Nat × α → Bool) {a : Nat} {v : α} (hv : p (a, v) = true) :
    ∀ (t : Tab α), t.all p = true → (tins t a v).all p = true
  | [], _ => by simp [tins, hv]
  | (k, w) :: t, h => by
    simp only [List.all_cons, Bool.and_eq_true] at h
    unfold tins
    split
    · simp only [List.all_cons, Bool.and_eq_true]; exact ⟨hv, h.1, h.2⟩
    · simp only [List.all_cons, Bool.and_eq_true]; exact ⟨h.1, all_tins p hv t h.2⟩

/-- Writing keeps the canonical form. -/
theorem canonical_tset {α : Type} [DecidableEq α] (d : α) (t : Tab α) (a : Nat) (v : α) (h : canonical d t = true) :
    canonical d (tset d t a v) = true := by
  unfold canonical at *
  rw [Bool.and_eq_true] at h ⊢
  unfold tset
  split
  · exact ⟨keysRise_tdel a t h.1, all_tdel _ a t h.2⟩
  · rename_i hv
    exact ⟨keysRise_tput t a v h.1, all_tins _ (by simpa using hv) _ (all_tdel _ a t h.2)⟩

theorem mem_sortIn {α : Type} (le : α → α → Bool) (x y : α) (l : List α) : y ∈ sortIn le x l ↔ y = x ∨ y ∈ l := by
  induction l with
  | nil => simp [sortIn]
  | cons z l ih =>
    unfold sortIn
    split
    · simp
    · rw [List.mem_cons, ih, List.mem_cons]; exact or_left_comm

/-- Sorting keeps the elements. -/
theorem mem_sortBy {α : Type} (le : α → α → Bool) (y : α) (l : List α) : y ∈ sortBy le l ↔ y ∈ l := by
  induction l with
  | nil => rfl
  | cons x l ih => rw [sortBy, mem_sortIn, ih, List.mem_cons]

/-- Sorting by a total and transitive order puts every element before those that it may stand before. -/
theorem pairwise_sortBy {α : Type} (le : α → α → Bool) (trans : ∀ a b c, le a b = true → le b c = true → le a c = true)
    (total : ∀ a b, le a b = true ∨ le b a = true) (l : List α) : (sortBy le l).Pairwise (fun a b => le a b = true) := by
  have ins : ∀ (x : α) (l : List α), l.Pairwise (fun a b => le a b = true) → (sortIn le x l).Pairwise (fun a b => le a b = true) := by
    intro x l
    induction l with
    | nil => intro _; simp [sortIn]
    | cons y l ih =>
      intro h
      rw [List.pairwise_cons] at h
      unfold sortIn
      split
      · rename_i hxy
        refine List.pairwise_cons.2 ⟨fun z hz => ?_, List.pairwise_cons.2 h⟩
        rcases List.mem_cons.1 hz with rfl | hz
        · exact hxy
        · exact trans _ _ _ hxy (h.1 z hz)
      · rename_i hxy
        refine List.pairwise_cons.2 ⟨fun z hz => ?_, ih h.2⟩
        rcases (mem_sortIn le x z l).1 hz with rfl | hz
        · exact (total z y).resolve_left hxy
        · exact h.1 z hz
  induction l with
  | nil => exact List.Pairwise.nil
  | cons x l ih => exact ins x _ ih

end Sys2Proof.Machine
end

