-- ==== Sys2Proof/Laws/Register.lean ====
section
/-!
SUPPORT. What the operations on registers do: a register and a field read as last written, every other register and field as
before, and nothing of the hub but its registers changes.
-/
namespace Sys2Proof.Machine

@[simp] theorem wr_part (h : Hub) (a : Nat) (v : Word) : (wr h a v).part = h.part := rfl
@[simp] theorem setFld_part (h : Hub) (a lo n v : Nat) : (setFld h a lo n v).part = h.part := rfl
@[simp] theorem setFlag_part (h : Hub) (a i : Nat) (b : Bool) : (setFlag h a i b).part = h.part := rfl
@[simp] theorem count_part (h : Hub) (a n : Nat) : (count h a n).part = h.part := rfl

@[simp] theorem rd_wr_self (h : Hub) (a : Nat) (v : Word) : rd (wr h a v) a = v := by simp [rd, wr]

theorem rd_wr_ne (h : Hub) {a b : Nat} (v : Word) (hab : b ≠ a) : rd (wr h a v) b = rd h b := by
  simp [rd, wr, tget_tset_ne _ _ _ _ hab]

theorem rd_setFld_ne (h : Hub) {a b : Nat} (lo n v : Nat) (hab : b ≠ a) : rd (setFld h a lo n v) b = rd h b :=
  rd_wr_ne h _ hab

theorem rd_setFlag_ne (h : Hub) {a b : Nat} (i : Nat) (x : Bool) (hab : b ≠ a) : rd (setFlag h a i x) b = rd h b :=
  rd_wr_ne h _ hab

theorem rd_count_ne (h : Hub) {a b : Nat} (n : Nat) (hab : b ≠ a) : rd (count h a n) b = rd h b := rd_wr_ne h _ hab

/-- A counter saturates (R18). -/
theorem rd_count_self (h : Hub) (a n : Nat) : (rd (count h a n) a).toNat = min 0xFFFFFFFF ((rd h a).toNat + n) := by
  simp only [count, rd_wr_self, BitVec.toNat_ofNat]
  exact Nat.mod_eq_of_lt (by omega)

theorem rd_setFld_self (h : Hub) (a lo n v : Nat) (hw : lo + n ≤ 32) :
    (rd (setFld h a lo n v) a).toNat = putBits (rd h a).toNat lo n v := by
  simp only [setFld, rd_wr_self, BitVec.toNat_ofNat]
  exact Nat.mod_eq_of_lt (putBits_lt _ _ _ _ _ (rd h a).isLt hw)

theorem fld_setFld_self (h : Hub) (a lo n v : Nat) (hw : lo + n ≤ 32) : fld (setFld h a lo n v) a lo n = v % 2 ^ n := by
  rw [fld, rd_setFld_self h a lo n v hw, bitsOf_putBits_self]

theorem fld_setFld_apart (h : Hub) (a lo n v lo' n' : Nat) (hw : lo + n ≤ 32) (hd : lo + n ≤ lo' ∨ lo' + n' ≤ lo) :
    fld (setFld h a lo n v) a lo' n' = fld h a lo' n' := by
  rw [fld, rd_setFld_self h a lo n v hw, fld]
  cases hd with
  | inl hd => exact bitsOf_putBits_above _ _ _ _ _ _ hd
  | inr hd => exact bitsOf_putBits_below _ _ _ _ _ _ hd

theorem fld_setFld_ne (h : Hub) {a b : Nat} (lo n v lo' n' : Nat) (hab : b ≠ a) : fld (setFld h a lo n v) b lo' n' = fld h b lo' n' := by
  rw [fld, rd_setFld_ne h lo n v hab, fld]

theorem flag_eq_fld (h : Hub) (a i : Nat) : flag h a i = decide (fld h a i 1 = 1) := by
  simp [flag, fld, bitOf, bitsOf]

@[simp] theorem flag_setFlag_self (h : Hub) (a i : Nat) (b : Bool) (hi : i < 32) : flag (setFlag h a i b) a i = b := by
  rw [flag_eq_fld, setFlag, fld_setFld_self _ _ _ _ _ (by omega)]
  cases b <;> rfl

/-! ### Nothing else changes -/

@[simp] theorem wr_tim (h : Hub) (a : Nat) (v : Word) : (wr h a v).tim = h.tim := rfl
@[simp] theorem wr_trn (h : Hub) (a : Nat) (v : Word) : (wr h a v).trn = h.trn := rfl
@[simp] theorem wr_txs (h : Hub) (a : Nat) (v : Word) : (wr h a v).txs = h.txs := rfl
@[simp] theorem wr_pwr (h : Hub) (a : Nat) (v : Word) : (wr h a v).pwr = h.pwr := rfl
@[simp] theorem wr_out (h : Hub) (a : Nat) (v : Word) : (wr h a v).out = h.out := rfl
@[simp] theorem setFld_tim (h : Hub) (a lo n v : Nat) : (setFld h a lo n v).tim = h.tim := rfl
@[simp] theorem setFld_trn (h : Hub) (a lo n v : Nat) : (setFld h a lo n v).trn = h.trn := rfl
@[simp] theorem setFld_txs (h : Hub) (a lo n v : Nat) : (setFld h a lo n v).txs = h.txs := rfl
@[simp] theorem setFld_pwr (h : Hub) (a lo n v : Nat) : (setFld h a lo n v).pwr = h.pwr := rfl
@[simp] theorem setFld_out (h : Hub) (a lo n v : Nat) : (setFld h a lo n v).out = h.out := rfl
@[simp] theorem count_tim (h : Hub) (a n : Nat) : (count h a n).tim = h.tim := rfl
@[simp] theorem count_trn (h : Hub) (a n : Nat) : (count h a n).trn = h.trn := rfl
@[simp] theorem count_txs (h : Hub) (a n : Nat) : (count h a n).txs = h.txs := rfl
@[simp] theorem count_pwr (h : Hub) (a n : Nat) : (count h a n).pwr = h.pwr := rfl
@[simp] theorem count_out (h : Hub) (a n : Nat) : (count h a n).out = h.out := rfl

end Sys2Proof.Machine
end

