-- ==== Sys2Proof/Laws/State.lean ====
section
/-!
SUPPORT. What the ways of going on do to each field of the state, and what a command at a thread that stands before its
instruction comes down to.
-/
namespace Sys2Proof.Machine

/-! ### Fields under updates -/

@[simp] theorem onHub_hub (s : State) (f : Hub → Hub) : (s.onHub f).hub = f s.hub := rfl
@[simp] theorem onHub_mem (s : State) (f : Hub → Hub) : (s.onHub f).mem = s.mem := rfl
@[simp] theorem onHub_pending (s : State) (f : Hub → Hub) : (s.onHub f).pending = s.pending := rfl
theorem onHub_id (s : State) : s.onHub (fun h => h) = s := rfl

@[simp] theorem send_out (h : Hub) (o : Out) : (send h o).out = h.out ++ [o] := rfl
@[simp] theorem send_regs (h : Hub) (o : Out) : (send h o).regs = h.regs := rfl
@[simp] theorem send_part (h : Hub) (o : Out) : (send h o).part = h.part := rfl
@[simp] theorem send_tim (h : Hub) (o : Out) : (send h o).tim = h.tim := rfl
@[simp] theorem send_trn (h : Hub) (o : Out) : (send h o).trn = h.trn := rfl
@[simp] theorem send_txs (h : Hub) (o : Out) : (send h o).txs = h.txs := rfl
@[simp] theorem send_flt (h : Hub) (o : Out) : (send h o).flt = h.flt := rfl
@[simp] theorem send_pwr (h : Hub) (o : Out) : (send h o).pwr = h.pwr := rfl

@[simp] theorem putCmd_regs (h : Hub) (c : Cmd) : (putCmd h c).regs = h.regs := rfl
@[simp] theorem putCmd_part (h : Hub) (c : Cmd) : (putCmd h c).part = h.part := rfl
@[simp] theorem putCmd_txs (h : Hub) (c : Cmd) : (putCmd h c).txs = h.txs := rfl
@[simp] theorem putCmd_tim (h : Hub) (c : Cmd) : (putCmd h c).tim = h.tim := rfl
@[simp] theorem putCmd_mst (h : Hub) (c : Cmd) : (putCmd h c).mst = h.mst := rfl
@[simp] theorem putCmd_out (h : Hub) (c : Cmd) : (putCmd h c).out = h.out := rfl
@[simp] theorem putCmd_pwr (h : Hub) (c : Cmd) : (putCmd h c).pwr = h.pwr := rfl
@[simp] theorem dropCmd_regs (h : Hub) (id : Nat) : (dropCmd h id).regs = h.regs := rfl
@[simp] theorem dropCmd_part (h : Hub) (id : Nat) : (dropCmd h id).part = h.part := rfl
@[simp] theorem dropCmd_txs (h : Hub) (id : Nat) : (dropCmd h id).txs = h.txs := rfl
@[simp] theorem drawFree_regs (h : Hub) : (drawFree h).1.regs = h.regs := rfl
@[simp] theorem drawFree_part (h : Hub) : (drawFree h).1.part = h.part := rfl
@[simp] theorem drawFree_free (h : Hub) : (drawFree h).1.free = h.free + 1 := rfl

@[simp] theorem dropCurrent_id (c : Cmd) (n : Nat) : (dropCurrent c n).id = c.id := by unfold dropCurrent; split <;> rfl

/-! ### Going on -/

theorem act_runs {s : State} (h : s.hub.runs = true) (f : Hub → Hub) : s.act f = .next (s.onHub f) := by
  simp [State.act, h, State.actAon]

theorem act_halted {s : State} (h : s.hub.runs = false) (f : Hub → Hub) : s.act f = .next s := by simp [State.act, h]

theorem actMem_runs {s : State} (h : s.hub.runs = true) (f : Mem → Hub → Mem × Hub) :
    s.actMem f = .next { s with mem := (f s.mem s.hub).1, hub := (f s.mem s.hub).2 } := by
  simp [State.actMem, h, State.actAonMem]

theorem actMem_halted {s : State} (h : s.hub.runs = false) (f : Mem → Hub → Mem × Hub) : s.actMem f = .next s := by
  simp [State.actMem, h]

/-- Everything that going on with the hub can do. -/
theorem act_next {s t : State} {f : Hub → Hub} (h : s.act f = .next t) : t.mem = s.mem ∧ t.pending = s.pending := by
  unfold State.act State.actAon at h
  split at h <;> cases h <;> exact ⟨rfl, rfl⟩

theorem actAon_next {s t : State} {f : Hub → Hub} (h : s.actAon f = .next t) : t.mem = s.mem ∧ t.pending = s.pending := by
  unfold State.actAon at h
  cases h; exact ⟨rfl, rfl⟩

/-- Two ways of changing a hub that agree on it go on alike. -/
theorem next_ext {s : State} {f g : Hub → Hub} (h : f s.hub = g s.hub) : (Host.Outcome.next (s.onHub f) : Ans) = .next (s.onHub g) := by
  simp [State.onHub, h]

/-! ### A thread before its instruction -/

theorem onInstr_at {s : State} {th : Fin 4} {op : Nat} {c : Cmd} {w : IW} (a : AtInstr s th op c w) (f : Hub → Cmd → IW → Hub) :
    onInstr s.hub th op f = f s.hub c w := by
  obtain ⟨-, h1, h2, h3, h4, h5, h6, h7, h8⟩ := a
  have h3' : ¬ budget s.hub c ≤ c.count := by omega
  simp only [onInstr, h1, h2, h3', h4, h5, h6, h7, h8]; simp

/-- What an S instruction with its checks passed does. -/
theorem stageOpen_ok {h : Hub} {c : Cmd} {w : IW} {recs : Recs} {extra : Scope} {x : Nat} {o b : List Nat}
    (m : mayStage h c recs extra = true) : stageOpen h c w recs extra x o b = stagedBy h c w recs x o b := by
  unfold mayStage at m
  simp only [Bool.and_eq_true, Bool.not_eq_true'] at m
  obtain ⟨⟨ms, mg⟩, mt⟩ := m
  unfold stageOpen stagedBy
  simp only [ms, mg, Bool.false_eq_true, if_false]
  generalize c.curTx = k at mt ⊢
  cases k with
  | none => simp only [decide_eq_true_eq] at mt; simp [mt]
  | some n =>
    dsimp only at mt ⊢
    generalize openTx h n.val = q at mt ⊢
    cases q with
    | none => cases mt
    | some t =>
      simp only [Bool.and_eq_true, Bool.not_eq_true', decide_eq_true_eq] at mt
      obtain ⟨⟨⟨m1, m2⟩, m3⟩, m4⟩ := mt
      simp [m1, m2, m3, Nat.not_lt.mpr m4]

theorem onLong_at {s : State} {th : Fin 4} {op : Nat} {c : Cmd} {w : IW} (a : AtLong s th op c w) (f : Hub → Cmd → IW → Hub) :
    onLong s.hub th op f = f s.hub c w := by
  rw [onLong, onInstr_at a.1]; simp [a.2]

end Sys2Proof.Machine
end

