-- ==== Sys2Proof/Laws/Engine.lean ====
section
/-!
SUPPORT. What the operations that every instruction ends with leave alone: events, counts, records and the completion of an
instruction change no transaction, no vintage and no digest, and none of them changes hub time.
-/
namespace Sys2Proof.Machine

/-- What a change of the hub leaves as it is, when each step of a list does. -/
theorem foldl_keeps {α β : Type} (view : Hub → β) (f : Hub → α → Hub) (hf : ∀ h a, view (f h a) = view h) (l : List α) :
    ∀ h, view (l.foldl f h) = view h := by
  induction l with
  | nil => intro h; rfl
  | cons a l ih => intro h; rw [List.foldl_cons, ih, hf]

theorem ite_keeps {β : Type} (view : Hub → β) {c : Prop} [Decidable c] {x y : Hub} {v : β} (hx : view x = v) (hy : view y = v) :
    view (if c then x else y) = v := by
  split
  · exact hx
  · exact hy

theorem sendMsix_txs (h : Hub) (p : Port) (v : Nat) : (sendMsix h p v).txs = h.txs := by
  unfold sendMsix
  split
  · rfl
  · split <;> rfl

theorem sendMsix_regs (h : Hub) (p : Port) (v : Nat) : (sendMsix h p v).regs = h.regs := by
  unfold sendMsix
  split
  · rfl
  · split <;> rfl

theorem sendMsix_part (h : Hub) (p : Port) (v : Nat) : (sendMsix h p v).part = h.part := by
  unfold sendMsix
  split
  · rfl
  · split <;> rfl

theorem sendMsix_ccMem (h : Hub) (p : Port) (v : Nat) : (sendMsix h p v).trn.ccMem = h.trn.ccMem := by
  unfold sendMsix
  split
  · rfl
  · split <;> rfl

theorem setFlag_txs (h : Hub) (a i : Nat) (b : Bool) : (setFlag h a i b).txs = h.txs := rfl

/-! ### Counts -/

theorem setTelValue_txs (h : Hub) (b k v : Nat) : (setTelValue h b k v).txs = h.txs := rfl

theorem bump_txs (n : Nat) : ∀ (h : Hub) (b k m : Nat), (bump n h b k m).txs = h.txs := by
  induction n with
  | zero => intros; rfl
  | succ n ih =>
    intro h b k m
    unfold bump
    dsimp only
    split
    · rfl
    · split
      · rw [setTelValue_txs]
      · split
        · rw [ih, setTelValue_txs]
        · rw [setFlag_txs, setTelValue_txs]

theorem tallyOne_txs (n : Nat) (p : Option PInfo) (h : Hub) (a : Nat) : (tallyOne n p h a).txs = h.txs :=
  ite_keeps Hub.txs (bump_txs _ _ _ _ _) rfl

@[simp] theorem tally_txs (h : Hub) (b e n : Nat) (p : Option PInfo) : (tally h b e n p).txs = h.txs :=
  ite_keeps Hub.txs rfl (foldl_keeps Hub.txs _ (tallyOne_txs n p) _ _)

@[simp] theorem tallyAll_txs (h : Hub) (e n : Nat) : (tallyAll h e n).txs = h.txs :=
  ite_keeps Hub.txs rfl (foldl_keeps Hub.txs _ (tallyOne_txs n none) _ _)

/-- The clock of an access runs on; no transaction, vintage or digest changes. -/
@[simp] theorem atClk_txs (h : Hub) (t : Nat) : (atClk h t).txs = h.txs := tallyAll_txs _ _ _

/-! ### Events -/

theorem fltLost_txs (h : Hub) (n o : Nat) : (fltLost h n o).txs = h.txs := ite_keeps Hub.txs rfl rfl

theorem fltMessage_txs (h : Hub) (p : Port) : (fltMessage h p).txs = h.txs :=
  ite_keeps Hub.txs rfl (ite_keeps Hub.txs rfl (ite_keeps Hub.txs rfl rfl))

theorem logRecord_txs (h : Hub) (a b c d e f g i j : Nat) : (logRecord h a b c d e f g i j).txs = h.txs := by
  refine ite_keeps Hub.txs rfl ?_
  rw [fltMessage_txs, fltMessage_txs]
  exact (fltLost_txs _ _ _).trans (fltLost_txs _ _ _)

@[simp] theorem raise_txs (h : Hub) (a b c d : Nat) : (raise h a b c d).txs = h.txs :=
  ite_keeps Hub.txs rfl (logRecord_txs _ _ _ _ _ _ _ _ _ _)

/-! ### The end of an instruction -/

@[simp] theorem ccStore_ccMem (h : Hub) (k : Nat) (x : BitVec 128) : (ccStore h k x).trn.ccMem = tset 0 h.trn.ccMem k x := by rw [ccStore]
@[simp] theorem ccStore_regs (h : Hub) (k : Nat) (x : BitVec 128) : (ccStore h k x).regs = h.regs := by rw [ccStore]
@[simp] theorem ccStore_part (h : Hub) (k : Nat) (x : BitVec 128) : (ccStore h k x).part = h.part := rfl
@[simp] theorem rd_ccStore (h : Hub) (k : Nat) (x : BitVec 128) (a : Nat) : rd (ccStore h k x) a = rd h a := rfl
@[simp] theorem ccAdvance_ccMem (h : Hub) (r : Nat) : (ccAdvance h r).trn.ccMem = h.trn.ccMem := rfl

@[simp] theorem ccStore_txs (h : Hub) (k : Nat) (x : BitVec 128) : (ccStore h k x).txs = h.txs := by rw [ccStore]
@[simp] theorem ccAdvance_txs (h : Hub) (r : Nat) : (ccAdvance h r).txs = h.txs := rfl

theorem writeRecord_txs (h : Hub) (r : Nat) (t : Byte) (i : Bool) (st : Status) (v : Nat) : (writeRecord h r t i st v).txs = h.txs := by
  unfold writeRecord
  dsimp only
  split
  · rw [sendMsix_txs, ccAdvance_txs, ccStore_txs]
  · rw [ccAdvance_txs, ccStore_txs]

/-- Where a completion record goes (R81). -/
theorem writeRecord_ccMem (h : Hub) (r : Nat) (tag : Byte) (irq : Bool) (st : Status) (v : Nat) :
    (writeRecord h r tag irq st v).trn.ccMem = tset 0 h.trn.ccMem (r * 1024 + fld h (aTrnCcTail r) 0 10)
      (ccRecord tag st (fld h (aTrnCcTail r) 15 1) h.txs.vintage.toNat v) := by
  unfold writeRecord
  generalize ccRecord tag st (fld h (aTrnCcTail r) 15 1) h.txs.vintage.toNat v = x
  generalize r * 1024 + fld h (aTrnCcTail r) 0 10 = k
  dsimp only
  split
  · rw [sendMsix_ccMem, ccAdvance_ccMem, ccStore_ccMem]
  · rw [ccAdvance_ccMem, ccStore_ccMem]

/-- A completion record changes no register but TAIL (R82). -/
theorem rd_writeRecord (h : Hub) (r : Nat) (tag : Byte) (irq : Bool) (st : Status) (v a : Nat) :
    rd (writeRecord h r tag irq st v) a = rd (ccAdvance h r) a := by
  have e : ∀ k x, rd (ccAdvance (ccStore h k x) r) a = rd (ccAdvance h r) a := fun _ _ => rfl
  unfold writeRecord
  dsimp only
  split
  · rw [rd, sendMsix_regs, sendMsix_part]; exact e _ _
  · exact e _ _

theorem leaveThread_txs (h : Hub) (c : Cmd) : (leaveThread h c).txs = h.txs := by
  unfold leaveThread
  split
  · split <;> rfl
  · rfl

theorem finish_txs (h : Hub) (c : Cmd) (st : Status) (v : Nat) : (finish h c st v).txs = h.txs := by
  have e2 : (leaveThread (if c.tp.isSome then h else tally h 0x70 0x0700 1 none) c).txs = h.txs :=
    (leaveThread_txs _ _).trans (ite_keeps Hub.txs rfl (tally_txs _ _ _ _ _))
  have e : ∀ g : Hub, g.txs = h.txs → (match c.tp with
      | some n => setFld g (aTrnTpStatus n.val) 16 3 st.code
      | none => g).txs = h.txs := by
    intro g hg
    split <;> exact hg
  refine ite_keeps Hub.txs (e _ e2) (ite_keeps Hub.txs ?_ ?_)
  · exact (raise_txs _ _ _ _ _).trans (e _ e2)
  · exact (writeRecord_txs _ _ _ _ _ _).trans (e _ e2)

theorem resume_txs (n : Nat) : ∀ (h : Hub) (c : Cmd) (p : Nat) (st : Status) (a b : Nat), (resume n h c p st a b).txs = h.txs := by
  induction n with
  | zero => intros; rfl
  | succ n ih =>
    intro h c p st a b
    rw [resume]
    refine ite_keeps Hub.txs (finish_txs _ _ _ _) (ite_keeps Hub.txs (ite_keeps Hub.txs (finish_txs _ _ _ _) (finish_txs _ _ _ _))
      (ite_keeps Hub.txs rfl ?_))
    split
    · exact finish_txs _ _ _ _
    · split
      · exact ite_keeps Hub.txs (finish_txs _ _ _ _) rfl
      · exact ite_keeps Hub.txs (ih _ _ _ _ _ _) (finish_txs _ _ _ _)

theorem settleTo_txs (h : Hub) (id : Nat) (st : Status) (v : Nat) (j : Option Nat) : (settleTo h id st v j).txs = h.txs := by
  unfold settleTo
  split
  · rfl
  · split
    · rfl
    · exact ite_keeps Hub.txs ((finish_txs _ _ _ _).trans (tally_txs _ _ _ _ _)) ((resume_txs _ _ _ _ _ _ _).trans (tally_txs _ _ _ _ _))

/-- The completion of an instruction leaves every transaction, the vintage and the digest as they are. -/
@[simp] theorem settle_txs (h : Hub) (id : Nat) (st : Status) (v : Nat) : (settle h id st v).txs = h.txs := settleTo_txs _ _ _ _ _

/-- An aborted transaction is gone; vintage and digest stand (R107). -/
theorem abortTx_txs (h : Hub) (n : Nat) : (abortTx h n).txs.open_ = tdel h.txs.open_ n ∧ (abortTx h n).txs.vintage = h.txs.vintage ∧
    (abortTx h n).txs.digest = h.txs.digest := by
  unfold abortTx
  dsimp only
  rw [foldl_keeps Hub.txs _ (fun h a => settle_txs h a _ _)]
  exact ⟨rfl, rfl, rfl⟩

end Sys2Proof.Machine
end

