-- ==== Sys2Proof/Laws/Memory.lean ====
section
/-!
SUPPORT. What operations on the cellar do: a byte reads as it was last written, holes and all other bytes read as before, and
the canonical form is kept by every operation that writes the cellar.
-/
namespace Sys2Proof.Machine

/-! ### One byte -/

@[simp] theorem cellarByte_set_self (m : Mem) (a : Nat) (b : Byte) : cellarByte (setCellarByte m a b) a = b := by
  simp [cellarByte, setCellarByte]

theorem cellarByte_set_ne (m : Mem) {a c : Nat} (b : Byte) (h : c ≠ a) : cellarByte (setCellarByte m a b) c = cellarByte m c := by
  simp [cellarByte, setCellarByte, tget_tset_ne _ _ _ _ h]

theorem setCellarByte_wf {m : Mem} (a : Nat) (b : Byte) (h : Memory.wf m = true) : Memory.wf (setCellarByte m a b) = true :=
  canonical_tset 0 m.cellar a b h

/-! ### Runs of bytes -/

theorem writeCellar_wf (h : Hub) (bs : List Byte) : ∀ (m : Mem) (a : Nat), Memory.wf m = true → Memory.wf (writeCellar m h a bs) = true := by
  induction bs with
  | nil => intro m a hm; exact hm
  | cons b bs ih =>
    intro m a hm
    rw [writeCellar]
    apply ih
    split
    · exact hm
    · exact setCellarByte_wf a b hm

/-- A byte outside the written run reads as before. -/
theorem cellarByte_writeCellar_out (h : Hub) (bs : List Byte) :
    ∀ (m : Mem) (a c : Nat), (c < a ∨ a + bs.length ≤ c) → cellarByte (writeCellar m h a bs) c = cellarByte m c := by
  induction bs with
  | nil => intro m a c _; rfl
  | cons b bs ih =>
    intro m a c hc
    rw [List.length_cons] at hc
    rw [writeCellar, ih _ _ _ (by omega)]
    split
    · rfl
    · exact cellarByte_set_ne m b (by omega)

/-- A byte in a hole reads as before (R444). -/
theorem cellarByte_writeCellar_hole (h : Hub) (bs : List Byte) :
    ∀ (m : Mem) (a c : Nat), isHole h c = true → cellarByte (writeCellar m h a bs) c = cellarByte m c := by
  induction bs with
  | nil => intro m a c _; rfl
  | cons b bs ih =>
    intro m a c hc
    rw [writeCellar, ih _ _ _ hc]
    split
    · rfl
    · rename_i hn
      exact cellarByte_set_ne m b (fun e => hn (e ▸ hc))

/-- A byte of the run that is in no hole reads as written. -/
theorem cellarByte_writeCellar_in (h : Hub) (bs : List Byte) :
    ∀ (m : Mem) (a i : Nat) (b : Byte), bs[i]? = some b → isHole h (a + i) = false →
      cellarByte (writeCellar m h a bs) (a + i) = b := by
  induction bs with
  | nil => intro m a i b hb; simp at hb
  | cons x bs ih =>
    intro m a i b hb hh
    rw [writeCellar]
    cases i with
    | zero =>
      simp only [List.getElem?_cons_zero, Option.some.injEq] at hb
      rw [Nat.add_zero] at hh
      simp only [Nat.add_zero]
      rw [cellarByte_writeCellar_out _ _ _ _ _ (by omega), hh, hb]
      simp
    | succ i =>
      rw [List.getElem?_cons_succ] at hb
      have e : a + (i + 1) = a + 1 + i := by omega
      rw [e] at hh ⊢
      exact ih _ _ i b hb hh

theorem writeHub_wf {m : Mem} (h : Hub) (p : Port) (a : Nat) (bs : List Byte) (hm : Memory.wf m = true) :
    Memory.wf (writeHub m h p a bs).1 = true := by
  unfold writeHub
  split
  · exact hm
  · exact writeCellar_wf _ _ _ _ hm

/-- Bytes written through a management port leave the cellar as it is. -/
theorem writeHub_bus {m : Mem} (h : Hub) (p : Port) {a : Nat} (bs : List Byte) (ha : onBus a = true) : (writeHub m h p a bs).1 = m := by
  simp [writeHub, ha]

/-! ### Channels of the cellar that return -/

theorem keysAbove_filter {α : Type} {b : Nat} (p : Nat × α → Bool) : ∀ t : Tab α, keysAbove b t = true → keysAbove b (t.filter p) = true
  | [], _ => rfl
  | (k, w) :: t, h => by
    simp only [keysAbove, Bool.and_eq_true] at h
    rw [List.filter_cons]
    split
    · simp only [keysAbove, Bool.and_eq_true]; exact ⟨h.1, keysAbove_filter p t h.2⟩
    · exact keysAbove_filter p t h.2

theorem keysRise_filter {α : Type} (p : Nat × α → Bool) : ∀ t : Tab α, keysRise t = true → keysRise (t.filter p) = true
  | [], _ => rfl
  | (k, w) :: t, h => by
    rw [keysRise_cons, Bool.and_eq_true] at h
    rw [List.filter_cons]
    split
    · rw [keysRise_cons, Bool.and_eq_true]; exact ⟨keysAbove_filter p t h.1, keysRise_filter p t h.2⟩
    · exact keysRise_filter p t h.2

theorem filter_wf {m : Mem} (p : Nat × Byte → Bool) (hm : Memory.wf m = true) : Memory.wf { m with cellar := m.cellar.filter p } = true := by
  unfold Memory.wf canonical at *
  rw [Bool.and_eq_true] at hm ⊢
  refine ⟨keysRise_filter p _ hm.1, ?_⟩
  rw [List.all_eq_true] at hm ⊢
  exact fun x hx => hm.2 x ((List.mem_filter.mp hx).1)

theorem empty_wf : Memory.wf ⟨[]⟩ = true := rfl

theorem ite_wf {c : Prop} [Decidable c] {x y : Mem × Hub} (hx : Memory.wf x.1 = true) (hy : Memory.wf y.1 = true) :
    Memory.wf (if c then x else y).1 = true := by
  split
  · exact hx
  · exact hy

/-! ### The operations that write the cellar -/

theorem writeSurfaces_wf (ws : List (Nat × Nat)) :
    ∀ (m : Mem) (h : Hub) (bs : List Byte), Memory.wf m = true → Memory.wf (writeSurfaces m h ws bs).1 = true := by
  induction ws with
  | nil => intro m h bs hm; exact hm
  | cons w ws ih => intro m h bs hm; rw [writeSurfaces]; exact ih _ _ _ (writeCellar_wf _ _ _ _ hm)

theorem restored_wf {m : Mem} (h : Hub) (d : Nat) (hm : Memory.wf m = true) : Memory.wf (restored m h d).1 = true := by
  unfold restored
  split
  · dsimp only
    split
    · exact writeSurfaces_wf _ _ _ _ hm
    · exact hm
  · exact hm

theorem finishOp_wf {m : Mem} (h : Hub) (s : Sub) (hm : Memory.wf m = true) : Memory.wf (finishOp m h s).1 = true := by
  unfold finishOp
  dsimp only
  split
  · exact hm
  · exact restored_wf _ _ hm
  · exact hm
  · exact hm

theorem switchOver_wf {m : Mem} (h : Hub) (hm : Memory.wf m = true) : Memory.wf (switchOver m h).1 = true := by
  unfold switchOver
  split
  · exact hm
  · exact finishOp_wf _ _ hm

theorem partialImage_wf {m : Mem} (h : Hub) (p : Port) (a : Nat) (bs : List Byte) (hm : Memory.wf m = true) :
    Memory.wf (partialImage m h p a bs).1 = true := writeHub_wf _ _ _ _ hm

theorem saveComplete_wf {m : Mem} (h : Hub) (d : Nat) (u : Bool) (hm : Memory.wf m = true) : Memory.wf (saveComplete d u m h).1 = true := by
  unfold saveComplete
  dsimp only
  split
  · exact hm
  · exact ite_wf hm (ite_wf (partialImage_wf _ _ _ _ hm) (ite_wf (partialImage_wf _ _ _ _ hm) (ite_wf hm (writeHub_wf _ _ _ _ hm))))

theorem vaultOpComplete_wf {m : Mem} (h : Hub) (u : Bool) (hm : Memory.wf m = true) : Memory.wf (vaultOpComplete u m h).1 = true := by
  unfold vaultOpComplete
  split
  · exact hm
  · dsimp only
    split
    · exact hm
    · exact hm
    · split
      · exact hm
      · exact writeHub_wf _ _ _ _ hm

theorem scanEnd_wf {m : Mem} (h : Hub) (l : Nat) (hm : Memory.wf m = true) : Memory.wf (scanEnd l m h).1 = true := by
  unfold scanEnd
  split
  · exact hm
  · exact ite_wf hm (writeHub_wf _ _ _ _ hm)

theorem copyComplete_wf {m : Mem} (h : Hub) (r : Nat) (tag : Byte) (u : Bool) (hm : Memory.wf m = true) :
    Memory.wf (copyComplete r tag u m h).1 = true := by
  unfold copyComplete
  split
  · exact hm
  · split
    · exact hm
    · split
      · exact hm
      · dsimp only
        split <;> exact writeHub_wf _ _ _ _ hm

theorem dozeEntry_wf {m : Mem} (h : Hub) (hm : Memory.wf m = true) : Memory.wf (dozeEntry m h).1 = true :=
  writeCellar_wf _ _ _ _ hm

theorem offExit_wf {m : Mem} (h : Hub) (src index : Nat) (hm : Memory.wf m = true) : Memory.wf (offExit src index m h).1 = true := by
  unfold offExit
  split
  · exact hm
  · exact empty_wf

theorem wakeTimer_wf {m : Mem} (h : Hub) (hm : Memory.wf m = true) : Memory.wf (wakeTimer m h).1 = true := by
  unfold wakeTimer
  dsimp only
  split
  · exact hm
  · split
    · exact offExit_wf _ _ _ hm
    · split <;> exact hm

theorem smbusMatch_wf {m : Mem} (h : Hub) (a : Nat) (hm : Memory.wf m = true) : Memory.wf (smbusMatch a m h).1 = true := by
  unfold smbusMatch
  split
  · exact hm
  · split
    · exact offExit_wf _ _ _ hm
    · split <;> exact hm

theorem brownOut_wf {m : Mem} (h : Hub) (k : Nat) (hm : Memory.wf m = true) : Memory.wf (brownOut k m h).1 = true := by
  exact ite_wf empty_wf hm

theorem railRetry_wf {m : Mem} (h : Hub) (hm : Memory.wf m = true) : Memory.wf (railRetry m h).1 = true := by
  unfold railRetry
  split
  · exact empty_wf
  · exact hm

theorem restorePass_wf {m : Mem} (h : Hub) (c i : Nat) (hm : Memory.wf m = true) : Memory.wf (restorePass m h c i).1 = true := by
  unfold restorePass
  split
  · exact hm
  · exact hm
  · exact hm
  · exact filter_wf _ hm
  · exact hm
  · exact hm
  · exact hm

theorem restoreEnd_wf {m : Mem} (h : Hub) (c i id : Nat) (p : Bool) (hm : Memory.wf m = true) :
    Memory.wf (restoreEnd m h c i id p).1 = true := by
  unfold restoreEnd
  split
  · exact hm
  · split
    · exact hm
    · split
      · exact hm
      · exact restorePass_wf _ _ _ hm

theorem restoreTestEnd_wf {m : Mem} (h : Hub) (c i : Nat) (p : Bool) (hm : Memory.wf m = true) :
    Memory.wf (restoreTestEnd c i p m h).1 = true := by
  unfold restoreTestEnd
  split
  · exact ite_wf hm (restoreEnd_wf _ _ _ _ _ hm)
  · exact hm

/-! ### Barrels -/

theorem writeBarrel_wf {m : Mem} (h : Hub) (q : Nat) (hm : Memory.wf m = true) : Memory.wf (writeBarrel m h q).1 = true := by
  unfold writeBarrel
  dsimp only
  split
  · exact hm
  · exact writeCellar_wf _ _ _ _ (writeCellar_wf _ _ _ _ hm)

theorem openBarrel_wf {m : Mem} {h : Hub} {q lead : Nat} {r : Mem × Hub} (hr : openBarrel m h q lead = some r)
    (hm : Memory.wf m = true) : Memory.wf r.1 = true := by
  unfold openBarrel at hr
  split at hr
  · cases hr
  · split at hr
    · cases hr
    · cases hr
      dsimp only
      split
      · exact writeCellar_wf _ _ _ _ hm
      · exact hm

theorem joinCells_wf (cs : List (List Byte)) :
    ∀ (m : Mem) (h : Hub) (q first : Nat) (r : Mem × Hub), joinCells cs m h q first = some r → Memory.wf m = true → Memory.wf r.1 = true := by
  induction cs with
  | nil => intro m h q first r hr hm; cases hr; exact hm
  | cons c cs ih =>
    intro m h q first r hr hm
    unfold joinCells at hr
    dsimp only at hr
    split at hr
    · cases hr
    · rename_i m' h' hready
      refine ih _ _ _ _ _ hr ?_
      split at hready
      · cases hready; exact hm
      · exact openBarrel_wf hready (writeBarrel_wf _ _ hm)

theorem joinBarrel_wf {m : Mem} {h : Hub} {p : Pkt} {r : Mem × Hub} (hr : joinBarrel m h p = some r) (hm : Memory.wf m = true) :
    Memory.wf r.1 = true := by
  unfold joinBarrel at hr
  split at hr
  · cases hr
  · rename_i hj
    cases hr
    have := joinCells_wf _ _ _ _ _ _ hj hm
    exact this

theorem barrelWrite_wf {m : Mem} (h : Hub) (q : Nat) (hm : Memory.wf m = true) : Memory.wf (barrelWrite q m h).1 = true := by
  unfold barrelWrite
  dsimp only
  split
  · exact writeBarrel_wf _ _ hm
  · exact hm

theorem match_wf {x : Option (Mem × Hub)} {y : Mem × Hub} (hx : ∀ r, x = some r → Memory.wf r.1 = true) (hy : Memory.wf y.1 = true) :
    Memory.wf (match x with
      | some r => r
      | none => y).1 = true := by
  split
  · exact hx _ rfl
  · exact hy

theorem takeIn_wf {mh : Mem × Hub} (p : Pkt) (hm : Memory.wf mh.1 = true) : Memory.wf (takeIn mh p).1 = true := by
  have hj : ∀ (h : Hub) (q : Pkt) (r : Mem × Hub), joinBarrel mh.1 h q = some r → Memory.wf r.1 = true := fun h q r e => joinBarrel_wf e hm
  exact ite_wf hm (ite_wf (ite_wf hm hm) (ite_wf (match_wf (hj _ _) hm) (ite_wf hm (ite_wf hm (ite_wf (match_wf (hj _ _) hm) hm)))))

theorem takeIns_wf (ps : List Pkt) : ∀ mh : Mem × Hub, Memory.wf mh.1 = true → Memory.wf (ps.foldl takeIn mh).1 = true := by
  induction ps with
  | nil => intro mh hm; exact hm
  | cons p ps ih => intro mh hm; exact ih _ (takeIn_wf p hm)

theorem relink_wf {m : Mem} (h : Hub) (hm : Memory.wf m = true) : Memory.wf (relink m h).1 = true := by
  unfold relink
  dsimp only
  generalize h.swc.batches = b
  revert hm
  generalize hmh : ((m, { h with swc := { h.swc with batches := [] } }) : Mem × Hub) = mh
  intro hm
  have hm' : Memory.wf mh.1 = true := by rw [← hmh]; exact hm
  clear hmh hm
  induction b generalizing mh with
  | nil => exact hm'
  | cons e b ih => exact ih _ (takeIns_wf _ _ hm')

/-! ### Telemetry's ring and departures -/

theorem ringLines_wf (n : Nat) : ∀ (m : Mem) (h : Hub) (a : Nat) (bs : List Byte), Memory.wf m = true → Memory.wf (ringLines m h n a bs).1 = true := by
  induction n with
  | zero => intro m h a bs hm; exact hm
  | succ n ih =>
    intro m h a bs hm
    rw [ringLines]
    split
    · exact hm
    · exact ih _ _ _ _ (writeCellar_wf _ _ _ _ hm)

theorem ringRecord_wf {m : Mem} (h : Hub) (a : Nat) (o r : List Byte) (hm : Memory.wf m = true) :
    Memory.wf (ringRecord m h a o r).1 = true := by
  unfold ringRecord
  exact ringLines_wf _ _ _ _ _ (ringLines_wf _ _ _ _ _ (ringLines_wf _ _ _ _ _ hm))

theorem ringPut_wf {m : Mem} (h : Hub) (o r : List Byte) (hm : Memory.wf m = true) : Memory.wf (ringPut m h o r).1 = true :=
  ite_wf (ringRecord_wf _ _ _ _ hm) hm

theorem writeRecord_wf {m : Mem} (h : Hub) (b : Bool) (hm : Memory.wf m = true) : Memory.wf (writeRecord_ m h b).1 = true := by
  unfold writeRecord_
  exact ringPut_wf _ _ _ hm

theorem markLate_wf {m : Mem} (h : Hub) (hm : Memory.wf m = true) : Memory.wf (markLate m h).1 = true := by
  unfold markLate
  split
  · exact hm
  · dsimp only
    split
    · exact writeCellar_wf _ _ _ _ hm
    · exact hm

theorem latchCounters_wf {m : Mem} (h : Hub) (a b : Bool) (hm : Memory.wf m = true) : Memory.wf (latchCounters a b m h).1 = true := by
  exact ite_wf (ite_wf (markLate_wf _ hm) hm) (writeRecord_wf _ _ hm)

theorem harvesterLatch_wf {m : Mem} (h : Hub) (a b : Bool) (hm : Memory.wf m = true) : Memory.wf (harvesterLatch a b m h).1 = true := by
  exact ite_wf hm (latchCounters_wf _ _ _ hm)

theorem enabled_wf (h : Hub) (a : Nat) (es : List (Nat × Byte)) :
    ∀ m : Mem, Memory.wf m = true → Memory.wf (es.foldl (fun m e => writeCellar m h (a + e.1) [e.2]) m) = true := by
  induction es with
  | nil => intro m hm; exact hm
  | cons e es ih => intro m hm; exact ih _ (writeCellar_wf _ _ _ _ hm)

theorem toAperture_wf {m : Mem} (h : Hub) (p : Pkt) (hm : Memory.wf m = true) : Memory.wf (toAperture m h p).1 = true := by
  unfold toAperture
  split
  · exact hm
  · dsimp only
    split
    · split <;> exact hm
    · split
      · exact enabled_wf _ _ _ _ hm
      · split <;> exact hm

theorem deliver_wf {m : Mem} (h : Hub) (p : Pkt) (hm : Memory.wf m = true) : Memory.wf (deliver m h p).1 = true := by
  unfold deliver
  dsimp only
  repeat (split; · first | exact hm | exact toAperture_wf _ _ hm)
  exact hm

theorem depart_wf {m : Mem} (h : Hub) (p : Pkt) (hm : Memory.wf m = true) : Memory.wf (depart m h p).1 = true :=
  deliver_wf _ _ hm

theorem packetSelect_wf {m : Mem} (h : Hub) (j : Nat) (hm : Memory.wf m = true) : Memory.wf (packetSelect j m h).1 = true := by
  unfold packetSelect
  split
  · exact hm
  · dsimp only
    split
    · split
      · exact hm
      · exact depart_wf _ _ hm
    · split
      · exact depart_wf _ _ hm
      · split
        · exact hm
        · exact depart_wf _ _ hm

end Sys2Proof.Machine
end

