-- ==== Sys2Proof/Tests/Slice0.lean ====
section
/-!
SUPPORT. Tests of the model: an ill-formed command for each check of `Instr.wf`, and for the hypotheses of each statement of
Certificates/Slice0 concrete states and operands that meet them, clause by clause. Expected values are the manual's or follow from
it by hand.
-/
namespace Sys2Proof.Machine
open Sys2Proof

set_option Elab.async false

/-! ### Small states -/

/-- The hub after reset with some registers written. -/
def tHub (regs : List (Nat × Nat)) : Hub := regs.foldl (fun h e => wr h e.1 (W e.2)) State.reset.hub

def tState (h : Hub) : State := { State.reset with hub := h }

/-- A command of CR0 that runs on thread 0, with its body. -/
def tCmd (body : List Nat) : Cmd :=
  { id := 0, ring := 0, tp := none, tag := 7, irq := false, nocq := false, order := false, imem := false, base := 1, len := body.length,
    body := body.map (BitVec.ofNat 64), txh := none, thread := some 0, started := true, g := [], pc := 0, count := 0, last := .ok,
    curTx := none, stale := false, gone := false, wait := none, abort := false, held := none }

def tWith (h : Hub) (c : Cmd) : State := tState { h with trn := { h.trn with cmds := [c] } }

/-- An instruction word: opcode, TARGET, OPERAND. -/
def tWord (op target operand : Nat) : Nat := op * 2 ^ 56 + target * 2 ^ 32 + operand

/-- The instruction at which thread 0 stands. -/
def tIns (s : State) : IW :=
  match threadCmd s.hub 0 with
  | some c => (fetchIW s.hub c c.pc).getD ⟨0, false, 0, false, false, 0, 0, 0, [], 0, true⟩
  | none => ⟨0, false, 0, false, false, 0, 0, 0, [], 0, true⟩

/-- Thread 0 stands at an instruction whose words are given, in a hub with registers written. -/
def tAt (regs : List (Nat × Nat)) (body : List Nat) : State := tWith (tHub regs) (tCmd body)

/-- An open transaction of M0 with every element in its scope. -/
def tTx : Tx := ⟨.m0, ⟨BitVec.ofNat 64 (2 ^ 64 - 1), BitVec.ofNat 24 (2 ^ 24 - 1), BitVec.ofNat 8 255, true⟩, 0, 0, [], false, false, [], []⟩

/-- The same with that transaction current, under handle 0. -/
def tAtTx (regs : List (Nat × Nat)) (body : List Nat) : State :=
  let h := tHub regs
  tWith { h with txs := { h.txs with open_ := [(0, tTx)] } } { tCmd body with curTx := some 0 }

def tCmdTx (body : List Nat) : Cmd := { tCmd body with curTx := some 0 }

/-- Thread 0 stands at the instruction with an opcode, in a command of a ring. -/
abbrev TStands (regs : List (Nat × Nat)) (body : List Nat) (op : Nat) : Prop := AtLong (tAt regs body) 0 op (tCmd body) (tIns (tAt regs body))

/-- The same with a transaction that may stage records. -/
abbrev TStages (regs : List (Nat × Nat)) (body : List Nat) (op : Nat) (recs : Recs) (extra : Scope) : Prop :=
  AtInstr (tAtTx regs body) 0 op (tCmdTx body) (tIns (tAtTx regs body)) ∧ mayStage (tAtTx regs body).hub (tCmdTx body) recs extra = true

def tEdge (n : Nat) (h : Hub) : Hub := { h with tim := { h.tim with edges := n } }
/-- A PCIe packet on VC 1, and one inside the hub from SP23 to SP22, of dock 3. -/
def tHdr : Hdr := ⟨1, 1, 1, false, 0, 0, 0, 0, 0, false, false, 0, 0⟩
def tPkt : Pkt := ⟨0, 23, 22, tHdr, [], 2, false, false, 0, 3, 0, 0, none, 0, 0, 3, 1, 0, 0, []⟩

def tSwc (s : Swc) : Hub := { tHub [] with swc := s }

/-! ### Well-formedness -/

theorem test_wf_good : (Instr.nop 0).wf = true ∧ (Instr.tickEdge 200000 0 []).wf = true ∧ (Instr.lowWordRead (.port .m0) 0x100000 5).wf = true := by
  decide
/-- A tick of 100 clocks. -/
theorem test_wf_tick : (Instr.tickEdge 100 0 []).wf = false := by decide
/-- An instant after the longest tick. -/
theorem test_wf_instant : (Instr.csrRd 0 200040).wf = false := by decide
/-- An odd address, and one above control space. -/
theorem test_wf_address : (Instr.registerWrite .m0 2 0 0).wf = false ∧ (Instr.lowWordRead (.port .m1) 0x1000000 0).wf = false := by decide
/-- A body of one unit. -/
theorem test_wf_stave : (Instr.staveReceive 0 0 [0] []).wf = false := by decide
/-- An encrypted packet without a tag. -/
theorem test_wf_packet : packetOk ⟨⟨1, 0, 1, true, 0, 0, 0, 0, 0, false, false, 0, 0⟩, [], []⟩ = false := by decide
/-- A TLP whose data is not as long as it says. -/
theorem test_wf_tlp : tlpOk { tlpZero with len := 8, data := [1] } = false := by decide
/-- A USB packet of 1,025 bytes, and a transaction that brought as many. -/
theorem test_wf_usb : usbPacketOk ⟨0, List.replicate 1025 0⟩ = false := by
  simp only [usbPacketOk, List.length_replicate]; decide
/-- An AUX reply of 17 bytes. -/
theorem test_wf_aux : (Instr.auxReply 0 (.ack (List.replicate 17 0))).wf = false := by decide

theorem test_reset_cellar_wf : Memory.wf State.reset.mem = true := by decide

/-! ### Turner (statements O2 to O7) -/

theorem test_EngineLocal_nop_mov : AtInstr (tAt [] [0]) 0 0x00 (tCmd [0]) (tIns (tAt [] [0])) ∧
    (AtInstr (tAt [] [tWord 4 3 0xFFFFFFFF]) 0 0x04 (tCmd [tWord 4 3 0xFFFFFFFF]) (tIns (tAt [] [tWord 4 3 0xFFFFFFFF])) ∧
      onlyBits (tIns (tAt [] [tWord 4 3 0xFFFFFFFF])).target 0x801F = true) := by decide
theorem test_EngineLocal_alu : AtInstr (tAt [] [tWord 5 0x703 1]) 0 0x05 (tCmd [tWord 5 0x703 1]) (tIns (tAt [] [tWord 5 0x703 1])) ∧
    onlyBits (tIns (tAt [] [tWord 5 0x703 1])).target 0x71F = true := by decide
/-- A branch that is not taken, and one to the last word of its body. -/
theorem test_EngineLocal_br : (AtInstr (tAt [] [tWord 6 0x200 1, 0]) 0 0x06 (tCmd [tWord 6 0x200 1, 0]) (tIns (tAt [] [tWord 6 0x200 1, 0])) ∧
      brTaken 2 (greg (tCmd []) 0) .ok = some false) ∧
    (AtInstr (tAt [] [tWord 6 0 1, 0]) 0 0x06 (tCmd [tWord 6 0 1, 0]) (tIns (tAt [] [tWord 6 0 1, 0])) ∧
      brTaken 0 0 .ok = some true ∧ ((1 : Nat) : Int) = ((0 : Nat) : Int) + signed 1 32 ∧
      firstWord (tAt [] [tWord 6 0 1, 0]).hub (tCmd [tWord 6 0 1, 0]) 1 32768 0 = true ∧ 1 < cmdEnd (tCmd [tWord 6 0 1, 0])) := by decide
theorem test_EngineLocal_halt : AtInstr (tAt [] [tWord 7 0 0]) 0 0x07 (tCmd [tWord 7 0 0]) (tIns (tAt [] [tWord 7 0 0])) ∧
    AtInstr (tAt [] [tWord 7 0 1]) 0 0x07 (tCmd [tWord 7 0 1]) (tIns (tAt [] [tWord 7 0 1])) := by decide
/-- The highest vector; a dock that is created. -/
theorem test_EngineLocal_signal :
    (AtInstr (tAt [] [tWord 3 0xF000 63]) 0 0x03 (tCmd [tWord 3 0xF000 63]) (tIns (tAt [] [tWord 3 0xF000 63])) ∧
      (tIns (tAt [] [tWord 3 0xF000 63])).target = 0xF000 ∧ (tIns (tAt [] [tWord 3 0xF000 63])).operand = 63) ∧
    (AtInstr (tAt [(aVdkCfg 5, 2 ^ 31), (aVdkStatus 5, 1)] [tWord 3 5 9]) 0 0x03 (tCmd [tWord 3 5 9])
        (tIns (tAt [(aVdkCfg 5, 2 ^ 31), (aVdkStatus 5, 1)] [tWord 3 5 9])) ∧
      dockCreated (tHub [(aVdkCfg 5, 2 ^ 31), (aVdkStatus 5, 1)]) 5 = true ∧ dockState (tHub [(aVdkCfg 5, 2 ^ 31), (aVdkStatus 5, 1)]) 5 = 1) := by decide

/-- WAIT.TICK and FENCE at a command of a ring, with the bounds of their operands. -/
theorem test_Waits_begin :
    (AtLong (tAt [] [tWord 1 0 65535]) 0 0x01 (tCmd [tWord 1 0 65535]) (tIns (tAt [] [tWord 1 0 65535])) ∧ (tIns (tAt [] [tWord 1 0 65535])).operand = 65535) ∧
    AtLong (tAt [] [tWord 2 0 0]) 0 0x02 (tCmd [tWord 2 0 0]) (tIns (tAt [] [tWord 2 0 0])) ∧
    (AtLong (tAt [] [tWord 2 0 7]) 0 0x02 (tCmd [tWord 2 0 7]) (tIns (tAt [] [tWord 2 0 7])) ∧ (tIns (tAt [] [tWord 2 0 7])).operand = 7) := by decide

/-- A command that waits since edge 0, at a later edge. -/
def tWaits (k : Wait) (edges : Nat) : Hub :=
  let h := tHub [(aTrnCmdTimeout, 4)]
  { h with tim := { h.tim with edges := edges }, trn := { h.trn with cmds := [{ tCmd [0] with wait := some k }] } }

theorem test_Waits_end :
    (findTag (tWaits (.tick 3 0) 3) 0 7 = some { tCmd [0] with wait := some (.tick 3 0) } ∧ 3 ≤ edgesSince (tWaits (.tick 3 0) 3) 0 ∧ 3 ≤ waitLimit (tWaits (.tick 3 0) 3)) ∧
    (fenceOpen (tWaits (.fence true false false 0 0 0) 4) { tCmd [0] with wait := some (.fence true false false 0 0 0) } true false false 0 0 = true ∧
      edgesSince (tWaits (.fence true false false 0 0 0) 4) 0 ≤ waitLimit (tWaits (.fence true false false 0 0 0) 4)) ∧
    (waitLimit (tWaits (.tick 9 0) 5) + 1 ≤ edgesSince (tWaits (.tick 9 0) 5) 0 ∧ waitLimit (tWaits (.tick 9 0) 5) < 9) ∧
    waitLimit (tWaits (.fence true false false 0 0 0) 5) + 1 ≤ edgesSince (tWaits (.fence true false false 0 0 0) 5) 0 := by decide

/-- A ring whose span holds a NOP command, and one that waits to start. -/
def tRing : Hub :=
  let h := tHub [(aTrnCrCtl 0, 1), (aTrnCrTail 0, 2)]
  { h with trn := { h.trn with ringMem := [(0, BitVec.ofNat 64 (0xFC * 2 ^ 56 + 5 * 2 ^ 48 + 2 ^ 16))] } }

theorem test_Commands_fetch : checkHeader tRing 0 = tRing ∧ checkHeader tRing 7 = tRing ∧
    ((List.range 8).map (fun i => (tRing.trn.lastRing + 1 + i) % 8)).find? (fetchable tRing) = some 0 := by decide

def tFetched : Hub := { tHub [] with trn := { (tHub []).trn with cmds := [{ tCmd [0] with thread := none, started := false }] } }

theorem test_Commands_start : flag tFetched aTrnCtl 0 = true ∧ startable tFetched = some { tCmd [0] with thread := none, started := false } ∧
    freeThread tFetched = some 0 := by decide
theorem test_Commands_rings : ringPort 3 = .m0 ∧ ringPort 4 = .m1 ∧ ringOutstanding State.reset.hub 4 = 0 ∧
    flag (tHub [(aTrnCrCtl 3, 3)]) (aTrnCrCtl 3) 1 = true ∧ ringOutstanding (tHub [(aTrnCrCtl 3, 3)]) 3 = 0 := by decide
/-- A command and a run at the end of their budgets. -/
theorem test_Commands_budget :
    (threadCmd (tWith (tHub []) { tCmd [0] with count := 65536 }).hub 0 = some { tCmd [0] with count := 65536 }) ∧
    (threadCmd (tWith (tHub [(aTrnTpStart 2, 2 ^ 16)]) { tCmd [0] with tp := some 2, count := 1 }).hub 0 = some { tCmd [0] with tp := some 2, count := 1 } ∧
      fld (tHub [(aTrnTpStart 2, 2 ^ 16)]) (aTrnTpStart 2) 16 16 = 1) := by decide

/-- Tick program 1 is due on thread 2. -/
def tDue : Hub := { tHub [(aTrnTpCfg 1, 5)] with trn := { (tHub []).trn with tpPending := 2 } }

/-- The hub after the start point of the tick for thread 2, as the statement has it. -/
def tStarted (h : Hub) : Hub :=
  let r := runTo h (startPoint h)
  if tget 0 r.trn.tpEdge 2 < r.tim.edges then
    (if startPoint r < tget 0 r.trn.leftAt 2 then tpPassed r 2 else tpStartPoint r 2)
  else r

theorem test_Commands_program : flag tDue aTrnCtl 0 = true ∧ p0Busy tDue = false ∧
    tDue.trn.cmds.any (fun c => decide (c.thread = some 2)) = false ∧
    (tStarted tDue).trn.cmds.any (fun c => decide (c.thread = some 2)) = false ∧
    (List.range 8).find? (fun n => bitOf (tStarted tDue).trn.tpPending.toNat n && flag (tStarted tDue) (aTrnTpCfg n) 0 &&
      decide (fld (tStarted tDue) (aTrnTpCfg n) 1 2 = 2)) = some 1 := by decide
/-- Two ticks later the start point makes it due, unless it has passed. -/
theorem test_Commands_program_due :
    let h := tEdge 2 { tDue with trn := { tDue.trn with tpPending := 0 } }
    p0Busy h = false ∧ tget 0 (runTo h (startPoint h)).trn.tpEdge 2 < (runTo h (startPoint h)).tim.edges ∧
    bitOf (tStarted h).trn.tpPending.toNat 1 = true := by decide

theorem test_OtherPorts : ringPort 0 ≠ .m1 ∧ ringPort 7 ≠ .m0 := by decide

theorem test_Semaphores_ports : tfind State.reset.hub.trn.sem 31 = none ∧ tget false State.reset.hub.flt.due 0 = false ∧
    tget false State.reset.hub.flt.due 1 = false := by decide

/-- Thread 0 stands at a word while port p, or neither, holds semaphore 31. -/
def tSem (w : Nat) (p : Option Port) : State :=
  tWith { tHub [] with trn := { (tHub []).trn with sem := match p with
    | some p => [(31, p)]
    | none => [] } } (tCmd [w])

/-- The last semaphore: free, held by the command's own port, and by the other. -/
theorem test_Semaphores_take : AtInstr (tSem (tWord 0x78 31 0) none) 0 0x78 (tCmd [tWord 0x78 31 0]) (tIns (tSem (tWord 0x78 31 0) none)) ∧
    AtInstr (tSem (tWord 0x79 31 0) none) 0 0x79 (tCmd [tWord 0x79 31 0]) (tIns (tSem (tWord 0x79 31 0) none)) ∧
    tfind (tSem (tWord 0x79 31 0) none).hub.trn.sem (tIns (tSem (tWord 0x79 31 0) none)).target = none := by decide
theorem test_Semaphores_give :
    (AtInstr (tSem (tWord 0x79 31 0) (some .m0)) 0 0x79 (tCmd [tWord 0x79 31 0]) (tIns (tSem (tWord 0x79 31 0) (some .m0))) ∧
      tfind (tSem (tWord 0x79 31 0) (some .m0)).hub.trn.sem 31 = some (cmdPort (tSem (tWord 0x79 31 0) (some .m0)).hub (tCmd [tWord 0x79 31 0]))) ∧
    (AtInstr (tSem (tWord 0x79 31 0) (some .m1)) 0 0x79 (tCmd [tWord 0x79 31 0]) (tIns (tSem (tWord 0x79 31 0) (some .m1))) ∧
      tfind (tSem (tWord 0x79 31 0) (some .m1)).hub.trn.sem 31 =
        some (portOther (cmdPort (tSem (tWord 0x79 31 0) (some .m1)).hub (tCmd [tWord 0x79 31 0])))) := by decide

/-- TX.BEGIN of dock 3 with no transaction open, and with one whose scope meets it. -/
def tBegin : List Nat := [tWord 0x10 0 10, 8, 0]

theorem test_Tx_begin :
    (AtInstr (tAt [] tBegin) 0 0x10 (tCmd tBegin) (tIns (tAt [] tBegin)) ∧ freeHandle (tAt [] tBegin).hub = some 0 ∧
      (⟨8, 0, 0, false⟩ : Scope).isEmpty = false ∧ scopePresent (tAt [] tBegin).hub.part.res ⟨8, 0, 0, false⟩ = true ∧
      overlaps (tAt [] tBegin).hub ⟨8, 0, 0, false⟩ none = 0) ∧
    (AtInstr (tAtTx [] tBegin) 0 0x10 (tCmdTx tBegin) (tIns (tAtTx [] tBegin)) ∧ freeHandle (tAtTx [] tBegin).hub = some 1 ∧
      overlaps (tAtTx [] tBegin).hub ⟨8, 0, 0, false⟩ none = 1) := by decide
/-- TX.COMMIT, TX.ABORT and TX.STATUS by the handle and by 0xF000. -/
theorem test_Tx_commit :
    (AtInstr (tAtTx [] [tWord 0x11 0xF000 0]) 0 0x11 (tCmdTx [tWord 0x11 0xF000 0]) (tIns (tAtTx [] [tWord 0x11 0xF000 0])) ∧
      txTarget (tCmdTx []) 0xF000 = some 0 ∧ tfind (tAtTx [] []).hub.txs.open_ 0 = some tTx ∧ tTx.owner = .m0) ∧
    AtInstr (tWith (tHub []) { tCmd [tWord 0x11 0xF000 0] with stale := true }) 0 0x11 { tCmd [tWord 0x11 0xF000 0] with stale := true }
      (tIns (tAt [] [tWord 0x11 0xF000 0])) := by decide
/-- TX.COMMIT of a transaction with a record, by its handle. -/
theorem test_Tx_commit_records :
    let h := { tHub [] with txs := { (tHub []).txs with open_ := [(7, { tTx with recs := [(aUsbCfg, 1)] })] } }
    let c := { tCmd [tWord 0x11 7 0] with curTx := some 7 }
    AtInstr (tWith h c) 0 0x11 c (tIns (tWith h c)) ∧ txTarget c 7 = some 7 ∧
      tfind (tWith h c).hub.txs.open_ 7 = some { tTx with recs := [(aUsbCfg, 1)] } ∧ cmdPort (tWith h c).hub c = .m0 := by decide
theorem test_Tx_abort :
    (AtInstr (tAtTx [] [tWord 0x12 0 0]) 0 0x12 (tCmdTx [tWord 0x12 0 0]) (tIns (tAtTx [] [tWord 0x12 0 0])) ∧ txTarget (tCmdTx []) 0 = some 0) ∧
    AtInstr (tAt [] [tWord 0x13 7 0]) 0 0x13 (tCmd [tWord 0x13 7 0]) (tIns (tAt [] [tWord 0x13 7 0])) := by decide
theorem test_Tx_expiry :
    let h := { tHub [] with txs := { (tHub []).txs with open_ := [(2, { tTx with life := 5 })] }, tim := { (tHub []).tim with edges := 5 } }
    openTx h 2 = some { tTx with life := 5 } ∧ 5 ≤ edgesSince h 0 := by decide
/-- The abort of a free handle and of an accepted one (R107). -/
theorem test_Tx_abort_else : tfind (tAt [] [tWord 0x12 7 0]).hub.txs.open_ 7 = none ∧ { tTx with accepted := true }.accepted = true ∧
    AtInstr (tAt [] [tWord 0x12 7 1]) 0 0x12 (tCmd [tWord 0x12 7 1]) (tIns (tAt [] [tWord 0x12 7 1])) := by decide

/-! ### Hub time and PTP (O8 to O10), control space and configuration (O11, O12) -/

/-- The shortest and the longest tick that the clock admits at reset; in Doze, at Doze entry and under a warm reset the core is held. -/
theorem test_Time_edge : edgeComes State.reset.hub 200000 = true ∧ State.reset.hub.runs = true ∧
    [PwrMode.doze, .dozeEntry, .warm].all (fun m => !{ State.reset.hub with pwr := { State.reset.hub.pwr with mode := m } }.runs) = true := by decide

theorem test_Time_arm : rd64 (atClk (tHub [(aTimStepLo, 250000)]) 5) aTimStepLo % 125000 = 0 ∧
    flag (atClk (tHub [(aTimStepLo, 250000)]) 5) aTimStepCmd 0 = false ∧ rd64 (atClk (tHub [(aTimStepLo, 7)]) 5) aTimStepLo % 125000 ≠ 0 ∧
    flag (atClk (tHub [(aTimStepLo, 250000), (aTimStepCmd, 1)]) 5) aTimStepCmd 0 = true := by decide +kernel
/-- A step armed at clock 100, at an edge 3,200 clocks later. -/
theorem test_Time_step :
    let h := { tHub [(aTimStepLo, 250000)] with tim := { (tHub []).tim with stepArmed := some 100, edgeClk := 3300, coreClk := 3300 } }
    h.tim.stepArmed = some 100 ∧ 100 + 3200 ≤ h.tim.edgeClk ∧ h.tim.coreClk = h.tim.edgeClk ∧ rd64 h aTimStepLo % 125000 = 0 ∧
      rd64 (wr h aTimStepLo 250001) aTimStepLo % 125000 ≠ 0 := by decide
/-- Reference 7 of output 7, whose first instant is hub time 0; every layer's register is at reset. -/
theorem test_Time_frame : flag (tHub [(aTimFrCfg 7, 1)]) (aTimFrCfg 7) 0 = true ∧ dspPresent (tHub []) 7 = true ∧
    frInstant (tHub [(aTimFrCfg 7, 1)]) 7 (frNext (tHub [(aTimFrCfg 7, 1)]) 7) < (tHub []).tim.edgeFx + 125000 * 65536 ∧
    (∀ j < 8, bitOf (active (tHub [(aTimFrCfg 7, 1)]) (aDspLayerCtl 7 j)) 0 = false) := by decide

/-- TIME1 gives a pulse each tick at edge 1. -/
theorem test_TimePorts_pulse :
    let h := { tHub [(aTimTpCfg 1, 1)] with tim := { (tHub []).tim with edges := 1, edgeFx := 125000 * 65536 } }
    tpPeriod h 1 = some 125000 ∧ tpIsInput h 1 = false ∧ hubNs h % 125000 = 0 ∧ h.tim.coreClk = h.tim.edgeClk ∧
      tget 0 h.tim.lastPulse 1 < h.tim.edges := by decide
theorem test_TimePorts_discipline :
    let h := { tHub [(aTimTime1Cfg, 1), (aTimDiscStatus, 2)] with tim := { (tHub []).tim with edges := 32768 } }
    flag h aTimTime1Cfg 0 = true ∧ 2 ^ fld h aTimTime1Cfg 4 4 ≤ edgesSince h h.tim.windowStart ∧ flag h aTimDiscStatus 1 = true ∧
      flag (tHub [(aTimTime1Cfg, 1)]) aTimDiscStatus 1 = false := by decide
/-- A window without a holdover, at its last edge, and a code frame whose port has become an input. -/
theorem test_TimePorts_input :
    let h := { tHub [(aTimTime1Cfg, 1)] with tim := { (tHub []).tim with edges := 1, pulseAt := [(1, 125000)] } }
    2 ^ fld h aTimTime1Cfg 4 4 ≤ edgesSince h h.tim.windowStart ∧ flag h aTimDiscStatus 1 = false ∧ tpIsInput h 1 = true ∧
      tpIsInput h 0 = false ∧ tfind h.tim.pulseAt 1 = some 125000 ∧ stepDue h = false := by decide
theorem test_TimePorts_audio :
    let h := { tHub [(aTimAudCfg 7, 2 ^ 31)] with tim := { (tHub []).tim with edges := 8, pulseAt := [(0, 125000)] } }
    flag h (aTimAudCfg 7) 31 = true ∧ 2 ^ fld h (aTimAudCfg 7) 24 2 ≤ edgesSince h (tget ⟨0, 0⟩ h.tim.aud 7).from_ ∧
      tfind h.tim.pulseAt 0 = some 125000 := by decide

/-- PTP runs on E3 with clockIdentity 1; an Announce of clock 2. -/
def tPtp : Hub := tHub [(aTimPtpCfg, 8), (aTimPtpIdLo, 1)]
theorem test_Ptp : ptpOn (atClk tPtp 9) 3 = true ∧ 3 < tPtp.part.res.eth ∧ flag tPtp aTimPtpCfg 3 = true ∧ (2 : Nat) ≠ rd64 tPtp aTimPtpIdLo ∧
    (ptpDue (atClk tPtp 9) (fld (atClk tPtp 9) aTimPtpCfg 8 4) (atClk tPtp 9).tim.syncAt).isSome = true ∧
    (ptpDue (atClk tPtp 9) (fld (atClk tPtp 9) aTimPtpCfg 12 4) (atClk tPtp 9).tim.annAt).isSome = true := by decide +kernel

theorem test_Access_ports : (aTopId % 4 = 0 ∧ aTopId < 2 ^ 24 ∧ semTakeAt aTopId = none) ∧
    shMask (atClk State.reset.hub 3).part aTrnCtl = 0 := by decide +kernel
/-- A direct write of the depth limit of queue 3. -/
theorem test_Access_shadowed :
    let h := atClk State.reset.hub 3
    aSwcQCfg 3 % 4 = 0 ∧ shMask h.part (aSwcQCfg 3) ≠ 0 ∧ h.txs.queue.length + h.txs.delivering.toList.length < 64 ∧
      timRecordBad h (lay h.part (projected h) [(aSwcQCfg 3, W 5)]) (aSwcQCfg 3) 5 = false ∧
      overlaps h (recScope h (lay h.part (projected h) [(aSwcQCfg 3, W 5)]) (aSwcQCfg 3)) none = 0 := by decide +kernel
/-- The same while a transaction holds its element. -/
theorem test_Access_discarded :
    let h := atClk (tAtTx [] []).hub 3
    shMask h.part (aSwcQCfg 3) ≠ 0 ∧ h.txs.queue.length + h.txs.delivering.toList.length < 64 ∧
      overlaps h (recScope h (lay h.part (projected h) [(aSwcQCfg 3, W 5)]) (aSwcQCfg 3)) none ≠ 0 := by decide +kernel
/-- CSR.RD of 32 and 64 bits, CSR.WR of an immediate and from g0, CSR.RMW. -/
theorem test_Access_rd :
    (AtInstr (tState (atClk (tAt [] [tWord 8 2 0x100000]).hub 4)) 0 0x08 (tCmd [tWord 8 2 0x100000]) (tIns (tAt [] [tWord 8 2 0x100000]))) ∧
    (AtInstr (tState (atClk (tAt [] [tWord 8 1 0x100010]).hub 4)) 0 0x08 (tCmd [tWord 8 1 0x100010]) (tIns (tAt [] [tWord 8 1 0x100010]))) := by decide +kernel
/-- CSR.WR of one word that acts at once, of g0, and of two words. -/
theorem test_Access_wr :
    (AtInstr (tState (atClk (tAt [] [tWord 9 0 aTimStepLo, 250000]).hub 4)) 0 0x09 (tCmd [tWord 9 0 aTimStepLo, 250000])
        (tIns (tAt [] [tWord 9 0 aTimStepLo, 250000])) ∧ (tIns (tAt [] [tWord 9 0 aTimStepLo, 250000])).x 0 = 250000 ∧
      mayWriteCsr State.reset.mem (atClk (tAt [] [tWord 9 0 aTimStepLo, 250000]).hub 4) 0 (tCmd [tWord 9 0 aTimStepLo, 250000]) [(aTimStepLo, 250000)] = true) ∧
    (AtInstr (tState (atClk (tAt [] [tWord 9 0x100 aTimStepLo]).hub 4)) 0 0x09 (tCmd [tWord 9 0x100 aTimStepLo]) (tIns (tAt [] [tWord 9 0x100 aTimStepLo])) ∧
      mayWriteCsr State.reset.mem (atClk (tAt [] [tWord 9 0x100 aTimStepLo]).hub 4) 0 (tCmd [tWord 9 0x100 aTimStepLo]) [(aTimStepLo, 0)] = true) ∧
    AtInstr (tState (atClk (tAt [] [tWord 9 0x1000 aTimStepLo, 2 ^ 32]).hub 4)) 0 0x09 (tCmd [tWord 9 0x1000 aTimStepLo, 2 ^ 32])
      (tIns (tAt [] [tWord 9 0x1000 aTimStepLo, 2 ^ 32])) ∧ aTimStepLo % 8 = 0 ∧
    mayWriteCsr State.reset.mem (atClk (tAt [] [tWord 9 0x1000 aTimStepLo, 2 ^ 32]).hub 4) 0 (tCmd [tWord 9 0x1000 aTimStepLo, 2 ^ 32])
      [(aTimStepLo, 0), (aTimStepLo + 4, 1)] = true := by decide +kernel
/-- CSR.WR of a shadowed register, in the current transaction and in an implicit one. -/
theorem test_Access_staged :
    mayWriteCsr State.reset.mem (atClk (tAtTx [] []).hub 4) 0 (tCmdTx []) [(aSwcQCfg 3, 5)] = true ∧
    mayWriteCsr State.reset.mem (atClk (tAt [] []).hub 4) 0 (tCmd []) [(aSwcQCfg 3, 5)] = true := by decide +kernel
theorem test_Access_rmw :
    AtInstr (tState (atClk (tAt [] [tWord 10 0 aTimStepLo, 255 * 2 ^ 32 + 3]).hub 4)) 0 0x0A (tCmd [tWord 10 0 aTimStepLo, 255 * 2 ^ 32 + 3])
        (tIns (tAt [] [tWord 10 0 aTimStepLo, 255 * 2 ^ 32 + 3])) ∧
      csrAddrOk (atClk (tHub []) 4) aTimStepLo = true ∧ otherRing .m0 aTimStepLo = false ∧
      mayWriteCsr State.reset.mem (readFor (atClk (tHub []) 4) .m0 (.thread 0) aTimStepLo).1 0 (tCmd [tWord 10 0 aTimStepLo, 255 * 2 ^ 32 + 3])
        [(aTimStepLo, 3)] = true := by decide +kernel
theorem test_Access_sideband : pecOk State.reset.hub .none = true ∧ pecOk (tHub [(aPwrSbCfg, 256)]) .good = true ∧
    ({ State.reset.hub.pwr with ptr := W aPwrSbCfg }).ptr.toNat = aPwrSbCfg ∧ ({ State.reset.hub.pwr with ptr := W aPwrEvent }).ptr.toNat = aPwrEvent ∧
    coreUp State.reset.hub = true ∧ State.reset.hub.pwr.ptr.toNat ≠ aPwrSbCfg ∧ State.reset.hub.pwr.ptr.toNat ≠ aPwrEvent := by decide

/-- A submission of M0; a valid one holds nothing, one with record 0 in an uncorrectable word fails. -/
def tSub (recs : Recs) : Sub := ⟨0, .direct, .m0, recs, none, 0, [], []⟩

theorem test_Config_validation :
    let h := State.reset.hub
    queueUse h < 64 ∧ judge h (tSub []) (none.toList ++ badRecs h (tSub [])) = none ∧
      judge h (tSub [(aSwcQCfg 3, W 5)]) ((some 0).toList ++ badRecs h (tSub [(aSwcQCfg 3, W 5)])) = some (.fault, 2 ^ 31 + 4) := by decide
theorem test_Config_delivery :
    let h := { State.reset.hub with txs := { State.reset.hub.txs with queue := [tSub []] }, tim := { State.reset.hub.tim with edgeClk := 3200 } }
    h.txs.queue = [tSub []] ∧ h.txs.delivering = none ∧ inHold h = false ∧ h.txs.rekeyFrom = none ∧ (tSub []).accClk + 3200 ≤ h.tim.edgeClk ∧
      badRecs h (tSub []) = [] ∧ h.tim.phase = 0 := by decide
/-- Record 1 of the oldest lies in an uncorrectable word. -/
theorem test_Config_delivery_bad :
    ((some 1).toList ++ badRecs State.reset.hub (tSub [(aUsbCfg, 0), (aSwcQCfg 3, 5)])).filter (fun n => decide (n < 2)) = 1 :: [] := by decide
theorem test_Config_switch :
    ({ State.reset.hub.txs with delivering := some (tSub []) }).delivering = some (tSub []) ∧ State.reset.hub.txs.rekeyFrom = none ∧
      ({ State.reset.hub.txs with rekeyFrom := some 0 }).rekeyFrom ≠ none := by decide

/-! ### Trunks (O13 to O15) -/

/-- Trunk 3 in a state of its link, on all four lanes, with what its sequencer holds. -/
def tTrunk (state : Nat) (t : TrkSt) : Hub :=
  let h := tHub [(aTrkStatus 3, state + 15 * 2 ^ 8)]
  { h with trk := [(3, t)] }

def tIdle : TrkSt := { TrkSt.idle with sent := 1 }
def tLocked : TrkSt := { tIdle with locks := [(2, ⟨4, 16, 2, true, 7, 0⟩)] }

theorem test_Training_comma : commaOk (0x9C3A6E15B2D48F0761CB53A8 + 255 * 2 ^ 112) = true ∧ trkState (tTrunk 2 tIdle) 3 = 2 ∧
    bitOf (lockedLanes (tTrunk 2 tLocked) 3) 2 = true := by decide
theorem test_Training_states : trkState (tTrunk 3 tIdle) 3 = 3 ∧ trkState (tTrunk 4 tIdle) 3 = 4 ∧ trkState (tTrunk 5 tIdle) 3 = 5 ∧
    trkState (tTrunk 6 tIdle) 3 = 6 ∧ trkState (tTrunk 8 tIdle) 3 = 8 ∧ (trk (tTrunk 5 tIdle) 3).eqMine = false ∧
    lockedLanes (tTrunk 8 tIdle) 3 &&& stripeSet (tTrunk 8 tIdle) 3 = 0 := by decide
/-- A request for coefficients 0, 63, 0 on lane 15. -/
def tEq : Nat := 3 * 2 ^ 49 + 63 * 2 ^ 36

theorem test_Training_eq : 15 = 4 * 3 + bitsOf (BitVec.ofNat 64 tEq).toNat 49 2 ∧ flag (tTrunk 5 tIdle) (aLaneTxFfeOvr 15) 31 = false := by
  decide
/-- A comma with a wrong check, and a request while the override is in force on the lane of an ACTIVE link. -/
theorem test_Training_else : commaOk (0x9C3A6E15B2D48F0761CB53A8 + 254 * 2 ^ 112) = false ∧
    (let h := setFlag (tTrunk 7 tIdle) (aLaneTxFfeOvr 15) 31 true
     trkState h 3 = 7 ∧ flag h (aLaneTxFfeOvr 15) 31 = true) ∧ trkState (toRecovery (tTrunk 7 tIdle) 3) 3 = 8 := by decide +kernel
theorem test_Training_clip : clipFfe 0 63 0 = (0, 63, 0, false) := by decide

/-- A stave with a wrong CRC, one whose codeword has too many wrong symbols, and a DATA stave with the SEQ expected, its CRC 3210
taken over the header alone. -/
theorem test_Staves_in : trkState (tTrunk 7 tIdle) 3 = 7 ∧ staveBad 0 (BitVec.ofNat 64 (2 ^ 60)) [] [] = true ∧
    staveBad 0 (BitVec.ofNat 64 (2 ^ 60 + 3210)) [] [8] = true ∧ staveBad 0 (BitVec.ofNat 64 (2 ^ 60 + 3210)) [] [7, 7] = false := by
  decide +kernel
theorem test_Staves_data :
    let x := BitVec.ofNat 64 (2 ^ 60 + 3210)
    bitOf x.toNat 35 = false ∧ bitsOf x.toNat 60 4 = 1 ∧ bitsOf x.toNat 48 12 = fld (takeAck (tTrunk 7 tIdle) 3 0) (aTrkSeq 3) 16 12 := by
  decide +kernel
/-- The states in which a NULL stave goes out, with a message waiting, and before the TS1 of a link in NEGOTIATE. -/
theorem test_Staves_out : trkState (tTrunk 4 { tIdle with idleDone := true }) 3 = 4 ∧ (trk (tTrunk 3 { tIdle with sent := 31 }) 3).sent % 16 = 15 ∧
    (trk (tTrunk 5 { tIdle with linkq := [[1]] }) 3).linkq = [[1]] ∧ (trk (tTrunk 5 tIdle) 3).linkq = [] := by decide
theorem test_Staves_idle :
    let h := setFlag (tTrunk 7 tIdle) (aTrkCtl 3) 8 true
    trkState h 3 = 7 ∧ idleEn h 3 = true ∧ trunkQuiet h 3 = true ∧ (trk h 3).idleAsked = false ∧
      (trk (tTrunk 7 { tIdle with idleAsked := true }) 3).idleAsked = true ∧ trkState (tTrunk 1 tIdle) 3 = 1 := by decide
/-- Trunk 3 idles since edge 0, and wakes at the edge that its register names. -/
theorem test_Staves_wake :
    let h := { tTrunk 9 tIdle with tim := { (tHub []).tim with edges := 255 } }
    trkState h 3 = 9 ∧ fld h (aTrkIdleCfg 3) 16 8 ≤ edgesSince h (trk h 3).idleFrom ∧ lanePresent h.part.res 31 = true := by decide
theorem test_Staves_tokens :
    let h := atClk { tTrunk 7 tIdle with tim := { (tHub []).tim with edges := 1 } } 5
    trkState h 3 = 7 ∧ (trk h 3).syncEdge < h.tim.edges := by decide

def tChange (isReturn acked : Bool) (sends : Nat) : Change := ⟨isReturn, 7, 100, 2, sends, acked, 3, none⟩

theorem test_Stripe_answers :
    (trk (tTrunk 7 { tIdle with change := some (tChange false false 0) }) 3).change = some (tChange false false 0) ∧
    (tChange false false 0).id = bitsOf (BitVec.ofNat 64 (2 * 2 ^ 27)).toNat 27 4 ∧ bitOf (BitVec.ofNat 64 (2 * 2 ^ 27)).toNat 26 = false ∧
    (tChange true false 0).id = bitsOf (BitVec.ofNat 64 (2 * 2 ^ 27 + 2 ^ 26)).toNat 27 4 ∧ bitOf (BitVec.ofNat 64 (2 * 2 ^ 27 + 2 ^ 26)).toNat 26 = true := by decide
/-- The tenth repetition and what follows it, for a retirement and a return. -/
theorem test_Stripe_sends : (tChange false false 10).sends < 11 ∧ 11 ≤ (tChange false false 11).sends ∧
    (tChange false false 11).isReturn = false ∧ (tChange true false 11).isReturn = true ∧ (tChange true false 11).acked = false := by decide
/-- The switch to lanes 0 to 2 at comma 100, with a retirement of lane 1 by the partner crossing it. -/
theorem test_Stripe_switch :
    let h := setFld (tTrunk 7 { tIdle with change := some (tChange false true 1), theirs := some (13, 99, true) }) (aTrkStatus 3) 16 16 100
    trkState h 3 = 7 ∧ changeDue h 3 = true ∧ (trk h 3).change.filter (·.acked) = some (tChange false true 1) ∧
      (match (trk h 3).theirs with
        | some x => if x.2.2 then stripeSet h 3 &&& (15 ^^^ x.1) else 0
        | none => 0) = 2 ∧
      changeDue (setFld h (aTrkStatus 3) 16 16 98) 3 = false := by decide

/-! ### Lanes, the fault manager, memories and telemetry (O16 to O20) -/

/-- A retired lane of USB, lane 0 of output 0, and the last lane of trunk 7. -/
theorem test_LaneCommands_retire :
    (TStands [(aLaneRetired 2, 2 ^ 31)] [tWord 0x68 95 1] 0x68 ∧ laneRetired (tHub [(aLaneRetired 2, 2 ^ 31)]) 95 = true) ∧
    (TStands [] [tWord 0x68 32 0] 0x68 ∧ laneRetired (tHub []) 32 = false ∧ laneBusy (tHub []) 32 false = false ∧ lanePresent resetPart.res 32 = true) ∧
    (TStands [(aTrkStatus 7, 7 + 15 * 2 ^ 8)] [tWord 0x68 31 1] 0x68 ∧
      (let h := tHub [(aTrkStatus 7, 7 + 15 * 2 ^ 8)]
       laneRetired h 31 = false ∧ laneBusy h 31 true = false ∧ bitOf (stripeSet h 7) 3 = true ∧ stripeSet h 7 ≠ 2 ^ 3 ∧ trkState h 7 = 7)) := by decide
/-- A PCIe lane whose port must retrain as x1, and a trunk lane at work with a change of its trunk under way. -/
theorem test_LaneCommands_change :
    (TStands [] [tWord 0x68 64 0] 0x68 ∧ laneRetired (tHub []) 64 = false ∧ laneBusy (tHub []) 64 false = false) ∧
    (let h := { tHub [(aTrkStatus 7, 7 + 15 * 2 ^ 8)] with trk := [(7, { TrkSt.idle with change := some ⟨false, 7, 100, 2, 1, false, 3, none⟩ })] }
     laneRetired h 31 = false ∧ laneBusy h 31 true = true) := by decide
theorem test_LaneCommands_conflict : oConflict (tAt [] [0]).hub (tCmd [0]) (laneScope 31) = none ∧ oConflict (tAt [] [0]).hub (tCmd [0]) (laneScope 95) = none := by
  decide
/-- A scan of eye 2 of lane 31, which runs as PAM4, to the last address of the bus whose range has room, and to the top of the cellar. -/
theorem test_LaneCommands_scan :
    let r := [(aLaneStatus 31, 2 ^ 29 + 2 ^ 21)]
    TStands r [tWord 0x69 31 2, 2 ^ 63] 0x69 ∧ (tIns (tAt r [tWord 0x69 31 2, 2 ^ 63])).x 0 = 2 ^ 63 ∧ onBus (2 ^ 63) = true ∧
      hubRangeOk (tHub r) (2 ^ 63) 65088 = true ∧ fld (tHub r) (aLaneStatus 31) 28 3 = 2 ∧ flag (tHub r) (aLaneStatus 31) 21 = true ∧ scanOf (tHub r) 31 = none ∧ busDenied (tHub r) .m0 (2 ^ 63) = false ∧
      installedBytes (tHub [(aMemCellarStatus, 2 ^ 31), (aMemCellarSize, 1024)]) = 65088 + 68719411648 ∧
      hubRangeOk (tHub [(aMemCellarSize, 1024)]) 68719411648 65088 = true ∧ cellarReady (tHub [(aMemCellarStatus, 2 ^ 31)]) = true := by decide

def tScan (n : Nat) : Scan := ⟨0, 2 ^ 63, 0, 10, 0, 0, 0, 0, [], 0, 0, List.replicate n 0, 0, 0, some 0, false⟩
def tScans (n : Nat) : Hub := { tEdge 1 (tWith (tHub []) (tCmd [0])).hub with lns := { (tHub []).lns with scans := [(31, tScan n)] } }

theorem test_LaneCommands_window : scanOf (tScans 0) 31 = some (tScan 0) ∧ (tScan 0).edge ≠ some (tScans 0).tim.edges ∧ (tScan 0).broken = false ∧
    max (tScan 0).from_ ((tScans 0).tim.edgeClk + 64000) ≤ (tScans 0).tim.edgeClk + 143999 := by decide
/-- A scan started late in its tick, and one that the lane broke off. -/
theorem test_LaneCommands_late : max 143999 64000 ≤ 143999 ∧ { tScan 5 with broken := true }.broken = true ∧ { tScan 0 with edge := none }.edge ≠ some 1 := by decide
theorem test_LaneCommands_scanEnd : scanOf (tScans 16256) 31 = some (tScan 16256) ∧ 16256 ≤ (tScan 16256).counts.length ∧
    findCmd (tScans 16256) (tScan 16256).cmd = some (tCmd [0]) := by
  exact ⟨rfl, Nat.le_of_eq List.length_replicate.symm, by decide⟩
theorem test_LaneCommands_loop : TStands [] [tWord 0x6A 31 1] 0x6A ∧ TStands [] [tWord 0x6A 64 3] 0x6A ∧ lanePortOn (tHub []) 31 = false ∧
    oConflict (tAt [] [0]).hub (tCmd [0]) (laneScope 64) = none ∧ lanePresent resetPart.res 64 = true ∧ lanePortOn (tHub []) 64 = false := by decide
theorem test_LaneCommands_events : lanePresent resetPart.res 95 = true ∧ fld (tHub [(aLaneStatus 0, 2 ^ 29)]) (aLaneStatus 0) 28 3 = 2 ∧
    flag (tHub [(aLaneStatus 0, 2 ^ 29)]) (aLaneCtl 0) 2 = false := by decide

theorem test_FaultManager_leak :
    let h := tEdge 8 (tHub [(aFltClassCfg 9, 1)])
    fld h (aFltClassCfg 9) 0 16 = 1 ∧ 8 * fld h (aFltClassCfg 9) 0 16 ≤ edgesSince h (tget 0 h.flt.leakFrom 9) := by decide
theorem test_FaultManager_holdoff :
    let h (b : Bool) := { tHub [] with flt := { (tHub []).flt with holdoff := [(1, true)], due := [(1, b)] } }
    (tget false (h true).flt.holdoff 1 = true ∧ tget false (h true).flt.due 1 = true ∧ mgmtUp (h true) .m1 = true) ∧
      tget false (h false).flt.due 1 = false := by decide
/-- Lane errors of the first lane; class 9 has a bucket for each of its banks. -/
theorem test_FaultManager_errors : lanePresent resetPart.res 0 = true ∧ lanePresent resetPart.res 97 = true ∧ classCount 9 ≠ 0 := by decide
theorem test_FaultManager_ports :
    (let h := tEdge 1600 { tHub [] with lns := { (tHub []).lns with x1 := [(7, 0)] } }
     tfind h.lns.x1 7 = some 0 ∧ 1600 ≤ edgesSince h 0) ∧
    bitOf ({ (tHub []).tun with ethUp := 8 }).ethUp.toNat 3 = true ∧
    (3 < (tHub []).part.res.eth ∧ retired (tHub []) 7 3 = false ∧ laneRetired (tHub []) 83 = false) := by decide
/-- Retired memory channel 7 of class 3 waits for its test. -/
theorem test_FaultManager_test :
    let h := (tWith { tHub [(aFltRet 3 0, 128)] with flt := { (tHub []).flt with restores := [(3, 7, 0)] } } (tCmd [0])).hub
    h.flt.restores.find? (fun r => decide (r.1 = 3) && decide (r.2.1 = 7) && (findCmd h r.2.2).isSome) = some (3, 7, 0) ∧
      retired h 3 7 = true ∧ restoreFit h 3 7 = true := by decide

/-- Lane 31 of the ACTIVE trunk 7, retired, waits for its test and for no change of the trunk. -/
theorem test_FaultManager_lane :
    let r := [(aTrkStatus 7, 7 + 7 * 2 ^ 8), (aLaneRetired 0, 2 ^ 31), (aFltRet 0 0, 2 ^ 31)]
    let h := (tWith { tHub r with flt := { (tHub []).flt with restores := [(0, 31, 0)] } } (tCmd [0])).hub
    retired h 0 31 = true ∧ restoreFit h 0 31 = true ∧ trkState h 7 = 7 ∧
      ((((trk h 7).change.bind (·.waiter)).toList ++ (trk h 7).todo.filterMap (fun e => e.2.2)).contains 0) = false := by decide
theorem test_RestoreInstruction :
    (TStands [] [tWord 0x6B (8 * 4096 + 23) 0] 0x6B ∧ resPresent (tHub []) 8 23 = true ∧ retired (tHub []) 8 23 = false ∧
      oConflict (tAt [] [0]).hub (tCmd [0]) (resScope 8 23) = none) ∧
    (let r := [(aFltRet 3 0, 128), (aMemCellarStatus, 255 * 2 ^ 8)]
     TStands r [tWord 0x6B (3 * 4096 + 7) 0] 0x6B ∧ retired (tHub r) 3 7 = true ∧ (chanMap (tHub r)).contains 7 = true ∧
       oConflict (tAt r [0]).hub (tCmd [0]) (resScope 3 7) = none) ∧
    (let r := [(aFltRet 7 0, 8)]
     TStands r [tWord 0x6B (7 * 4096 + 3) 0] 0x6B ∧ retired (tHub r) 7 3 = true ∧ restoreFit (tHub r) 7 3 = true ∧
       restoreFit (tHub ((aLaneRetired 2, 2 ^ 19) :: r)) 7 3 = false ∧ oConflict (tAt r [0]).hub (tCmd [0]) (resScope 7 3) = none) := by decide

/-- A copy to the last line of a cellar of 64 MiB, and a fill of no line. -/
theorem test_MemoryCommands_instructions :
    let r := [(aMemCellarStatus, 2 ^ 31), (aMemCellarSize, 1)]
    (TStands r [tWord 0x60 0 64, 0, 67108800] 0x60 ∧ hubRangeOk (tHub r) 0 64 = true ∧ hubRangeOk (tHub r) 67108800 64 = true ∧ cellarReady (tHub r) = true ∧
      busDenied (tHub r) .m0 67108800 = false) ∧
    (TStands r [tWord 0x61 0 0, 67108864, 5] 0x61 ∧ hubRangeOk (tHub r) 67108864 0 = true) := by decide

def tCopy (fill : Bool) : Copy := ⟨0, fill, 0, 64, 8⟩
def tCopies (fill : Bool) : Hub :=
  let h := (tWith (tHub []) (tCmd [0])).hub
  { h with mst := { h.mst with copies := [tCopy fill], chan := [0] } }

theorem test_MemoryCommands_complete : findTag (tCopies true) 0 7 = some (tCmd [0]) ∧
    (tCopies true).mst.copies.find? (fun x => decide (x.cmd = 0)) = some (tCopy true) ∧ channelHeld (tCopies true) 0 = true ∧
    (copyData State.reset.mem (freeChannel { tCopies true with mst := { (tCopies true).mst with copies := [] } } 0) (tCopy true)).2.2 = true ∧
    (copyData State.reset.mem (freeChannel { tCopies false with mst := { (tCopies false).mst with copies := [] } } 0) (tCopy false)).2.2 = true := by decide
/-- Both tests of a phase, in its turn and left over from the tick before. -/
theorem test_MemoryCommands_phase : phaseOpen (tEdge 1 (tHub [])) 3 = true ∧ phaseSuspended (tEdge 1 (tHub [])) 3 = false ∧
    (let h := { tHub [] with tim := { (tHub []).tim with suspended := 8 } }
     phaseOpen h 3 = true ∧ phaseSuspended h 3 = true) := by decide
theorem test_MemoryCommands_errors : (tHub []).mst.testEdge < (tEdge 1 (tHub [])).tim.edges ∧ (siteBucket (.cask 255 none)).1 ≠ 4 ∧
    ((siteBucket (.display 7 none)).1 = 4 ∧ (siteBucket (.display 7 none)).2.1 < resetPart.res.outputs) := by decide
/-- Channel 7 of eight; a line of it whose row failed once before. -/
theorem test_MemoryCommands_cellar :
    let h := { tHub [(aMemCellarStatus, 2 ^ 31 + 255 * 2 ^ 8), (aMemCellarSize, 1), (aMemScrubCfg, 2 ^ 31 + 1)] with
      mst := { (tHub []).mst with watch := [(7, [3])] } }
    channelOn h 7 = true ∧ chanOf h 14336 = 7 ∧ 14336 < installedBytes h ∧ tget false h.mst.poison (14336 / 64) = false ∧
      (tget [] h.mst.watch 7).contains 3 = true ∧ flag h aMemScrubCfg 31 = true ∧ cellarReady h = true ∧ flag h aMemCellarStatus 30 = false ∧
      (tget [] h.mst.watch 7).contains 4 = false ∧
      cellarReady (tHub []) = false ∧ fld (tHub []) aMemCellarStatus 8 8 = 0 := by decide

/-- The last counter of the tunnel bank counts packets, without and with a filter. -/
theorem test_TelemetryCommands_select :
    let recs (o f : Nat) : Recs := [(aTelSelSel 0x20 15, W o), (aTelSelFltLo 0x20 15, W f), (aTelSelFltHi 0x20 15, W (f / 2 ^ 32))]
    (TStages [] [tWord 0x58 0x200F 0x0200, 0] 0x58 (recs 0x0200 0) scGlobal ∧ selectCode 0x20 15 0x0200 false 0 = 0) ∧
    (TStages [] [tWord 0x58 0x200F 0x80000200, 2 ^ 63] 0x58 (recs 0x80000200 (2 ^ 63)) scGlobal ∧ selectCode 0x20 15 0x0200 true (2 ^ 63) = 0 ∧
      15 < bankSize resetPart.res 0x20) := by decide
theorem test_TelemetryCommands_arm : (TStands [] [tWord 0x59 (0x20 * 256 + 15) 3] 0x59 ∧ 15 < bankSize resetPart.res 0x20) ∧
    TStands [] [tWord 0x59 (0x20 * 256 + 255) 0] 0x59 := by decide
theorem test_TelemetryCommands_mark : TStages [] [tWord 0x5A 23 24] 0x5A [(aTelMarkCfg 23, W 24)] (scPort 23) ∧ spPresent resetPart.res 23 = true ∧
    markRateOk 24 = true ∧ markRateOk 4 = true ∧ markRateOk 0 = true := by decide
theorem test_TelemetryCommands_latch : phaseOpen State.reset.hub 1 = true ∧ phaseSuspended (enterPhase State.reset.hub 2) 2 = false ∧
    phaseSuspended (enterPhase { State.reset.hub with tim := { State.reset.hub.tim with suspended := 4 } } 2) 2 = true ∧
    bitOf State.reset.hub.mst.dpLost 12 = false ∧ bitOf State.reset.hub.mst.dpLost 13 = false := by decide

/-! ### Key vault, power and resets (O21 to O25) -/

/-- Slot 1023 is a READY branch of depth 3, slot 5 a READY leaf, both current. -/
def tBranch : KeySlot := { KeySlot.empty with state := 2, usage := 1, depth := 3, epoch := 1, gen := 1 }
def tKeys (h : Hub) : Hub :=
  { h with keys := { h.keys with slots := [(5, { tBranch with usage := 2 }), (1023, tBranch)], lc := 2 }, part := { h.part with epoch := 1 } }
def tVault (body : List Nat) : State := tWith (tKeys (tHub [])) (tCmd body)

/-- A graft from slot 1023 into slot 0, and one from the root into slot 1022. -/
theorem test_KeyVault_graft :
    (let b := [tWord 0x50 0 (3 * 2 ^ 16 + 1023), 0, 0]
     AtLong (tVault b) 0 0x50 (tCmd b) (tIns (tVault b)) ∧ onlyBits (3 * 2 ^ 16 + 1023) 0xF83FF = true ∧ usageOk 3 = true ∧
       lcForbids (tVault b).hub = false ∧ vaultBusy (tVault b).hub 0 = false ∧ fillable (slot (tVault b).hub 0) = true ∧
       graftParentBad (tVault b).hub false 1023 = false) ∧
    (let b := [tWord 0x50 1022 (2 ^ 16 + 2 ^ 15), 0, 0]
     AtLong (tVault b) 0 0x50 (tCmd b) (tIns (tVault b)) ∧ onlyBits (2 ^ 16 + 2 ^ 15) 0xF83FF = true ∧ graftParentBad (tVault b).hub true 0 = false) := by decide
theorem test_KeyVault_load_wrap :
    (let b := [tWord 0x51 0 72, 2 ^ 63]
     AtLong (tVault b) 0 0x51 (tCmd b) (tIns (tVault b)) ∧ hubRangeOk (tVault b).hub (2 ^ 63) 72 = true ∧ onBus (2 ^ 63) = true) ∧
    (let b := [tWord 0x52 1023 0, 2 ^ 63]
     AtLong (tVault b) 0 0x52 (tCmd b) (tIns (tVault b)) ∧ (slot (tVault b).hub 1023).state = 2 ∧
       ancestryCurrent (tVault b).hub (slot (tVault b).hub 1023) = true ∧ vaultBusy (tVault b).hub 1023 = false) := by decide
theorem test_KeyVault_completes :
    let ops (o : VaultOp) : Hub := { tKeys (tHub []) with keys := { (tKeys (tHub [])).keys with ops := [o] } }
    (ops (.graft 0 0 0 true 0 3 0)).keys.ops = .graft 0 0 0 true 0 3 0 :: [] ∧ (ops (.load 0 0 (some 0) 0)).keys.ops = .load 0 0 (some 0) 0 :: [] ∧
      (ops (.wrap 0 1023 0)).keys.ops = .wrap 0 1023 0 :: [] ∧ (slot (tKeys (tHub [])) 1023).state = 2 := by decide
theorem test_KeyVault_kill_bind :
    (let b := [tWord 0x53 1023 0]
     AtLong (tVault b) 0 0x53 (tCmd b) (tIns (tVault b))) ∧
    (let b := [tWord 0x54 1023 (20 * 2 ^ 12 + 4095)]
     let s := { tAtTx [] b with hub := { (tAtTx [] b).hub with keys := { (tAtTx [] b).hub.keys with lc := 2 } } }
     let recs := [(aTunT 20 4095, W (putBits (putBits (cfg s.hub (standing s.hub (tCmdTx b) []) (aTunT 20 4095)) 15 1 1) 0 10 1023))]
     AtInstr s 0 0x54 (tCmdTx b) (tIns s) ∧ spPresent s.hub.part.res 20 = true ∧ builtIn 20 4095 = false ∧ lcForbids s.hub = false ∧
       mayStage s.hub (tCmdTx b) recs (endScope s.hub (standing s.hub (tCmdTx b) []) 20 4095) = true) := by decide +kernel
theorem test_KeyVault_import :
    let h := setFld (setFld (tHub [(aKeyImportGen, 1)]) aKeyImportCtl 16 4 3) aKeyImportCtl 0 10 1023
    h.keys.lc = 1 ∧ h.keys.change = none ∧ usageOk 3 = true ∧ fillable (slot h 1023) = true ∧ (slot h 1023).gen < (rd h aKeyImportGen).toNat := by decide
/-- A load into a slot that keeps its key, and a sweep not yet made in this tick. -/
theorem test_KeyVault_else : fillable (slot (tKeys (tHub [])) 1023) = false ∧ vaultBusy (tKeys (tHub [])) 1023 = false ∧
    busDenied (tKeys (tHub [])) .m0 (2 ^ 63) = false ∧ (tKeys (tHub [])).tim.sweepAt ≠ some (tKeys (tHub [])).tim.edges ∧
    (slot (tKeys (tHub [])) 0).gen < 0xFFFFFFFF ∧ (let g := tKeys (tHub []); (slot g 1023).state = 2 ∧ ancestryCurrent g (slot g 1023) = true) := by decide
theorem test_KeyVault_grace :
    let h := tEdge 255 { tHub [(aTrkKeyGrace 23, 255)] with keys := { (tHub []).keys with grace := [(23 * 4096 + 4095, (5, 0))] } }
    tfind h.keys.grace (endKey 23 4095) = some (5, 0) ∧ fld h (aTrkKeyGrace 23) 0 8 ≤ edgesSince h 0 := by decide

theorem test_LifeCycle :
    (tHub []).keys.change = none ∧ lcPermits (tHub []) 4 = true ∧ (lcDestroys (tHub []) 2 = true → (tHub []).part.epoch.toNat ≠ 255) ∧
      lcPermits (tHub []) 0 = false ∧ (0 : Nat) ≠ (tHub []).keys.lc ∧ (tHub []).part.compat = false ∧ (tHub []).part.lcBase = 1 ∧
      ({ (tHub []).keys with change := some 4 }).change = some 4 := by decide

/-- Rail 8 at its reset level, and as low as its warning level allows. -/
theorem test_Supply_hold :
    fld (tHub []) (aPwrMonLevels 8) 16 16 ≤ 2900 ∧ 2900 < fld (tHub []) (aPwrMonLevels 8) 0 16 ∧ 3099 < fld (tHub []) (aPwrMonLevels 8) 0 16 ∧
      inHold (tHub []) = false ∧ inHold (tEdge 8 (tHub [(aPwrStatus, 2 ^ 30)])) = true ∧
      8 ≤ edgesSince (tEdge 8 (tHub [])) (tHub []).pwr.holdLow := by decide
theorem test_Supply_feeds : feedIn (tHub []) 1 13800 = true ∧ feedOn (tHub []) 1 = false ∧ feedOn (tHub [(aPwrFeedStatus 1, 2 ^ 31)]) 1 = true := by
  decide
/-- Channel 15 waits to be debounced; channel 23 is on. -/
theorem test_Supply_instructions :
    (TStands [(aPwrPwcStatus 15, 2 ^ 29)] [tWord 0x70 15 0] 0x70 ∧
      (let h := tHub [(aPwrPwcStatus 15, 2 ^ 29)]
       pwcOnPart h 15 = true ∧ pwcState h 15 = 1 ∧ pwcState (setFlag h (aPwrPwcStatus 15) 26 true) 15 = 1) ∧
      oConflict (tAt [(aPwrPwcStatus 15, 2 ^ 29)] [0]).hub (tCmd [0]) (resScope 8 15) = none) ∧
    (TStands [(aPwrPwcStatus 23, 3 * 2 ^ 29)] [tWord 0x71 23 0] 0x71 ∧ pwcState (tHub [(aPwrPwcStatus 23, 3 * 2 ^ 29)]) 23 = 3 ∧
      pwcOnPart (tHub []) 23 = true ∧ oConflict (tAt [] [0]).hub (tCmd [0]) (resScope 8 23) = none) := by decide
theorem test_Supply_channels :
    (tHub []).pwr.mode ≠ .off ∧ pwcOnPart (tHub []) 16 = true ∧ tget false (tHub []).pwr.det 16 ≠ true ∧ pwcState (tHub [(aPwrPwcStatus 2, 2 ^ 30)]) 2 = 2 ∧
      pwcWindow 2 4750 = true ∧ pwcWindow 2 5250 = true ∧ pwcState (tHub [(aPwrPwcStatus 2, 2 ^ 31)]) 2 = 4 ∧ retryLeft (tHub []) 2 = 0 := by decide
/-- A retired channel, and one whose output came on. -/
theorem test_Supply_else : pwcState (tHub [(aPwrPwcStatus 15, 5 * 2 ^ 29)]) 15 = 5 ∧ pwcState (setFlag (tHub [(aPwrPwcStatus 15, 3 * 2 ^ 29)]) (aPwrPwcStatus 15) 26 true) 15 = 3 ∧
    ({ (tHub []).pwr with mode := .off }).mode = .off ∧ feedOn (tHub [(aPwrFeedStatus 1, 2 ^ 31)]) 1 = true ∧
    16 * fld (tHub [(aPwrPwcStatus 2, 2 ^ 30)]) (aPwrPwcCfg0 2) 16 8 ≤ edgesSince (tEdge 4080 (tHub [(aPwrPwcStatus 2, 2 ^ 30)])) (tget 0 (tHub []).pwr.rampFrom 2) := by decide
/-- The end of the ramp of channel 2, and 400 edges after its gate went down. -/
theorem test_Supply_times :
    (let h := tEdge 2040 (tHub [(aPwrPwcStatus 2, 2 ^ 30), (aPwrPwcCfg1 2, 255)])
     8 * fld h (aPwrPwcCfg1 2) 0 8 ≤ edgesSince h (tget 0 h.pwr.rampFrom 2)) ∧
    (let h := tEdge 400 { tHub [] with pwr := { (tHub []).pwr with gateDown := [(2, 0)] } }
     tfind h.pwr.gateDown 2 = some 0 ∧ 400 ≤ edgesSince h 0 ∧ pwcState h 2 = 0) ∧
    (let h := tEdge 8184 { tHub [] with pwr := { (tHub []).pwr with det := [(23, true)] } }
     pwcPresent h 23 = true) := by decide

theorem test_PowerState_instructions : TStands [] [tWord 0x72 0 0] 0x72 ∧ TStands [] [tWord 0x72 0 1] 0x72 ∧ TStands [] [tWord 0x72 0 3] 0x72 := by decide
theorem test_PowerState_doze :
    let r := [(aPwrDozeCfg, 2 ^ 31), (aMemCellarStatus, 2 ^ 31)]
    TStands r [tWord 0x72 0 2] 0x72 ∧ dozeDenied (tAt r [tWord 0x72 0 2]).hub 0 = none := by decide
theorem test_PowerState_heat : (115 : Int) < 116 ∧ (fld (tHub []) aPwrTherm 0 8 : Int) < 106 := by decide

def tAsleep (m : PwrMode) (src : Nat) : Hub := { tHub [(aPwrWakeEn, 2 ^ src), (aPwrWakeTimer, 1)] with pwr := { (tHub []).pwr with mode := m } }

theorem test_PowerState_wakes :
    (∀ k < 8, dozing (tAsleep .doze (k + 1)) = true ∧ (wakeCodes (2 ^ k)).find? (wakeEnabled (tAsleep .doze (k + 1))) = some (k + 1)) ∧
    (wakeEnabled (tAsleep .off 1) 1 = true ∧ wakeEnabled (tAsleep .off 7) 7 = true ∧ wakeEnabled (tAsleep .off 5) 5 = true) ∧
    ((rd (tAsleep .doze 5) aPwrWakeTimer).toNat ≠ 0 ∧
      8 * (rd (tAsleep .doze 5) aPwrWakeTimer).toNat * 98 ≤ edgesSince (tEdge 8 (tAsleep .doze 5)) (tAsleep .doze 5).pwr.dozeFrom * 100) := by decide

/-- A sample at 200 °C: with its source enabled it wakes the hub, else not. -/
def tSample : SentrySample := ⟨0, 0, 0, 0, 200, [], 0⟩
theorem test_PowerState_sentry :
    (sentryFinds (tAsleep .doze 6) tSample).find? (fun e => wakeEnabled (sentryRead tSample (tAsleep .doze 6)) e.1) = some (6, 0) ∧
      (sentryFinds (tAsleep .doze 1) tSample).find? (fun e => wakeEnabled (sentryRead tSample (tAsleep .doze 1)) e.1) = none := by decide +kernel
/-- The reset of dock 63, and a rewrite of the trim store by the highest port. -/
theorem test_PowerState_commands :
    dockCreated (setFld (tHub [(aVdkCfg 63, 2 ^ 31), (aVdkStatus 63, 1)]) aPwrDockReset 0 6 63) 63 = true ∧
      dockFrozen (setFld (tHub [(aVdkCfg 63, 2 ^ 31), (aVdkStatus 63, 1)]) aPwrDockReset 0 6 63) 63 = false ∧
      flag (tHub []) aPwrTrimStatus 31 = false ∧ (tHub []).keys.lc ≠ 0 ∧ (tHub []).keys.lc ≠ 4 ∧
      ({ (tHub []).pwr with trimNew := some [] }).trimNew = some [] := by decide

theorem test_Resets : (tHub []).pwr.mode = .run ∧ ({ (tHub []).pwr with mode := .railWait }).mode = .railWait ∧ ({ (tHub []).pwr with mode := .warm }).mode = .warm ∧
    TStands [] [tWord 0x07 0 0xC0DE0002] 0x07 := by decide

/-! ### Docks and racking (O26, O27) -/

theorem test_DockInstructions_usb :
    let recs := [(aUsbPortAssign 15, W (2 ^ 31 + 14 * 2 ^ 8 + 63))]
    TStages [] [tWord 0x38 15 (2 ^ 31 + 14 * 2 ^ 8 + 63)] 0x38 recs (((scPort 20).union (scDock 63)).union Scope.empty) ∧ usbPresent resetPart.res 15 = true ∧
      bitOf (cfg (tAtTx [] [0]).hub (standing (tAtTx [] [0]).hub (tCmdTx [0]) []) (aUsbPortAssign 15)) 31 = false := by decide
/-- The shortest and the longest buffer, each at the end of the store, and one that is closed. -/
theorem test_DockInstructions_epm :
    let x (off len : Nat) := len * 2 ^ 32 + off
    let b (n en off len : Nat) := [tWord 0x39 n (en * 2 ^ 31 + 63), x off len]
    let recs (n en off len : Nat) : Recs := [(aUsbEpmCtl n, W (en * 2 ^ 31 + 63)), (aUsbEpmOffset n, W off), (aUsbEpmLength n, W len)]
    let sc := ((scPort 20).union (scDock 63)).union Scope.empty
    (TStages [] (b 255 1 (524288 - 1088) 1088) 0x39 (recs 255 1 (524288 - 1088) 1088) sc ∧ onlyBits (x (524288 - 1088) 1088) 0x0007FFFF0007FFFF = true ∧
      bitsOf (x (524288 - 1088) 1088) 0 19 % 64 = 0 ∧ bitsOf (x (524288 - 1088) 1088) 32 19 % 64 = 0 ∧
      bitOf (cfg (tAtTx [] [0]).hub (standing (tAtTx [] [0]).hub (tCmdTx [0]) []) (aUsbEpmCtl 255)) 31 = false) ∧
    (TStages [] (b 0 1 262144 262144) 0x39 (recs 0 1 262144 262144) sc ∧ onlyBits (x 262144 262144) 0x0007FFFF0007FFFF = true) ∧
    TStages [] (b 0 0 0 0) 0x39 (recs 0 0 0 0) sc := by decide
/-- Dock 63 with every trunk and the largest allowances. -/
theorem test_DockInstructions_create :
    let x := 1016 * 2 ^ 48 + 1024 * 2 ^ 32 + 4096 * 2 ^ 16 + 4096
    TStages [] [tWord 0x40 63 255, x] 0x40 ((aVdkCfg 63, W (2 ^ 31 + 255)) :: allowRecs 63 x) ((scDock 63).union (scTrunks 255)) ∧ allowOk x = true ∧
      63 < resetPart.res.docks ∧ dockState (tHub []) 63 ≠ 5 ∧
      maskIn (tAtTx [] [0]).hub (standing (tAtTx [] [0]).hub (tCmdTx [0]) []) 63 ||| 255 = 255 := by decide
/-- A resize that keeps the mask, and one from trunk 0 to trunk 7. -/
theorem test_DockInstructions_resize :
    let r := [(aVdkCfg 3, 2 ^ 31 + 1), (aVdkStatus 3, 1)]
    let h := (tAtTx r [0]).hub
    let t := standing h (tCmdTx [0]) []
    (TStages r [tWord 0x42 3 0, 0] 0x42 ([] ++ allowRecs 3 0 ++ []) ((scDock 3).union (scTrunks 1)) ∧ bitOf (cfg h t (aVdkCfg 3)) 31 = true ∧
      moveRuns h 3 = false ∧ maskIn h t 3 = 1 ∧ dockState h 3 ≠ 5) ∧
    (TStages r [tWord 0x42 3 128, 0] 0x42 ([(aVdkCfg 3, W (2 ^ 31 + 128))] ++ allowRecs 3 0 ++ rehome h t 3 0 7) ((scDock 3).union (scTrunks 129)) ∧
      lowest 1 = 0 ∧ lowest 128 = 7) := by decide +kernel
/-- Dock 3 holds nothing; with FORCE it would not matter. -/
theorem test_DockInstructions_destroy :
    let r := [(aVdkCfg 3, 2 ^ 31 + 1), (aVdkStatus 3, 1)]
    TStands r [tWord 0x41 3 0] 0x41 ∧ TStands r [tWord 0x41 3 1] 0x41 ∧ dockHolds (tHub r) 3 = false ∧ dockState (tHub r) 3 = 1 ∧
      rackRuns (tHub r) 3 true = false ∧ rackRuns (tHub r) 3 false = false ∧ oConflict (tAt r [0]).hub (tCmd [0]) (scDock 3) = none := by decide +kernel

/-- Dock 3 in a state, with slot 5 a racking key. -/
def tRack (state : Nat) (ops : List RackOp) : Hub :=
  let h := (tWith (tHub [(aVdkCfg 3, 2 ^ 31 + 1), (aVdkStatus 3, state), (aMemCellarStatus, 2 ^ 31), (aMemCellarSize, 1)]) (tCmd [0])).hub
  { h with
    keys := { h.keys with slots := [(5, { KeySlot.empty with state := 2, usage := 3, gen := 1 })], lc := 2 }
    dck := { h.dck with ops := ops }
    mst := { h.mst with chan := [0] } }
def tRackAt (state : Nat) (body : List Nat) : State := tWith (tRack state []) (tCmd body)

theorem test_Racking_freeze :
    (let b := [tWord 0x44 3 0]
     AtLong (tRackAt 1 b) 0 0x44 (tCmd b) (tIns (tRackAt 1 b)) ∧ dockState (tRackAt 1 b).hub 3 = 1 ∧ moveRuns (tRackAt 1 b).hub 3 = false ∧
       tfind (tRackAt 1 b).hub.swc.fences 3 = none ∧ (tRackAt 1 b).hub.swc.waiting.contains 3 = false ∧
       oConflict (tRackAt 1 b).hub (tCmd b) (scDock 3) = none) ∧
    (let h := tEdge 2 { tRack 2 [] with dck := { (tRack 2 []).dck with freezeEdge := [(3, 0)], freezeCmd := [(3, 0)] } }
     tfind h.dck.freezeEdge 3 = some 0 ∧ dockState h 3 = 2 ∧ 2 ≤ edgesSince h 0 ∧ tfind h.dck.freezeCmd 3 = some 0) := by decide
/-- An image to a management port: its range needs no cellar. -/
theorem test_Racking_save :
    let b := [tWord 0x45 3 5, 2 ^ 63]
    AtLong (tRackAt 3 b) 0 0x45 (tCmd b) (tIns (tRackAt 3 b)) ∧ (∀ n, hubRangeOk (tRackAt 3 b).hub ((tIns (tRackAt 3 b)).x 0) n = true) ∧
      dockState (tRackAt 3 b).hub 3 = 3 ∧ keyOk (tRackAt 3 b).hub 5 3 = true ∧ (tRackAt 3 b).hub.dck.ops.length < 16 :=
  ⟨by decide, fun _ => rfl, by decide⟩
/-- No open scope holds dock 3, and the port of CR0 masters its bus. -/
theorem test_Racking_free : busDenied (tRackAt 3 [0]).hub (cmdPort (tRackAt 3 [0]).hub (tCmd [0])) (2 ^ 63) = false ∧
    oConflict (tRackAt 3 [0]).hub (tCmd [0]) (scDock 3) = none ∧ inHold (tRack 3 []) = false := by decide
theorem test_Racking_saveEnd :
    let op : RackOp := ⟨0, 3, true, 2 ^ 63, 5, 0, 0⟩
    let h := tRack 3 [op]
    (h.dck.ops.find? (fun o => decide (o.dock = 3) && o.save) = some op ∧ channelHeld h op.cmd = true ∧ dockPending h 3 = false ∧ onBus op.addr = true ∧
      keyOk h op.slot 3 = true ∧ flag h (aVdkRackCfg 3) 0 = false) ∧ (∀ g n, hubRangeOk g op.addr n = true) :=
  ⟨by decide, fun _ _ => rfl⟩
theorem test_Racking_restore :
    (let b := [tWord 0x46 3 5, 67108864 - 256]
     AtLong (tRackAt 3 b) 0 0x46 (tCmd b) (tIns (tRackAt 3 b)) ∧ hubRangeOk (tRackAt 3 b).hub (67108864 - 256) 256 = true ∧ dockState (tRackAt 3 b).hub 3 = 3 ∧
       keyOk (tRackAt 3 b).hub 5 3 = true ∧ oConflict (tRackAt 3 b).hub (tCmd b) (scDock 3) = none) ∧
    (let b := [tWord 0x46 63 5, 0]
     AtLong (tRackAt 3 b) 0 0x46 (tCmd b) (tIns (tRackAt 3 b)) ∧ dockState (tRackAt 3 b).hub 63 = 0) := by decide

/-- The header of an image without surfaces at address 0 of the cellar: "1ARK" in the order of its bytes, version 1, 16,656 bytes, host
state of 16,384 bytes, every other section empty. -/
def tHeader : Mem := ⟨[(0, 0x31), (1, 0x41), (2, 0x52), (3, 0x4B), (4, 1), (6, 2), (8, 0x10), (9, 0x41), (97, 1), (113, 1), (121, 0x40), (129, 0x41), (145, 0x41), (161, 0x41), (177, 0x41)]⟩
def tRestoring : Hub := tRack 4 [⟨0, 3, false, 0, 5, 0, 0⟩]
theorem test_Racking_checked_header :
    let r0 := readHub tHeader tRestoring 0 256
    (tRestoring.dck.ops.find? (fun o => decide (o.dock = 3) && !o.save) = some ⟨0, 3, false, 0, 5, 0, 0⟩ ∧ channelHeld tRestoring 0 = true ∧
      tfind tRestoring.dck.image 3 = none ∧ cellarReady tRestoring = true) ∧ r0.2.2 = true ∧ imageNat r0.2.1 8 8 = 16656 ∧ imageLayout r0.2.1 = true ∧
      hubRangeOk tRestoring 0 16656 = true ∧ keyOk tRestoring 5 3 = true ∧ bitOf (imageNat r0.2.1 6 2) 0 = false ∧ bitOf (imageNat r0.2.1 6 2) 1 = true := by
  decide +kernel
theorem test_Racking_checked_body :
    let r := readHub tHeader (readHub tHeader tRestoring 0 256).1 256 (16656 - 256)
    r.2.2 = true ∧ flag r.1 aTopResourcesMem 15 = true := by decide +kernel
theorem test_Racking_thaw : let b := [tWord 0x47 3 0]
    AtLong (tRackAt 3 b) 0 0x47 (tCmd b) (tIns (tRackAt 3 b)) ∧ dockState (tRackAt 3 b).hub 3 = 3 ∧ rackRuns (tRackAt 3 b).hub 3 true = false := by decide

/-! ### Switch core and traffic manager (O28 to O30) -/



/-- A packet at SP23 whose port has room, and one whose port has none. -/
theorem test_SwitchCore_entry :
    let h := tSwc { (tHub []).swc with entry := [(23, [tPkt])] }
    let g := { tHub [(aSwcPortVoq 23, 0)] with swc := { (tHub []).swc with entry := [(23, [tPkt])] } }
    nextEntry h 23 [] (tget [] h.swc.entry 23) = some (tPkt, []) ∧ heldMove h tPkt = none ∧
      nextEntry g 23 [] (tget [] g.swc.entry 23) = none := by decide +kernel
/-- The same packet while its end moves from trunk 5 to trunk 7. -/
theorem test_SwitchCore_moving :
    let m : Move := ⟨5, 22, 1, 0, 0, 0, 0, [], false, false⟩
    let h := { tSwc { (tHub []).swc with entry := [(23, [tPkt])] } with tun := { (tHub []).tun with moves := [m] } }
    nextEntry h 23 [] [tPkt] = some (tPkt, []) ∧ heldMove h tPkt = some m := by decide +kernel

/-- A barrel of 16 cells, and one of one cell 2 us old. -/
theorem test_SwitchCore_barrel :
    let q (n : Nat) : Queue := { Queue.empty with openSlot := some 5, openCells := List.replicate n [] }
    let h (n clk : Nat) : Hub := { tSwc { (tHub []).swc with queues := [(4095, q n)] } with tim := { (tHub []).tim with coreClk := clk } }
    queueAt (h 16 0) 4095 = q 16 ∧ (q 16).openSlot = some 5 ∧ (q 16).openCells ≠ [] ∧ (q 16).openCells.length = 16 ∧
      queueAt (h 1 3200) 4095 = q 1 ∧ (q 1).openCells ≠ [] ∧ (q 1).openFrom + 3200 ≤ (h 1 3200).tim.coreClk := by decide

/-- Dock 63 of trunks 0 and 7 waits for a fence from its map, which gives every bucket to trunk 0. -/
def tFences : Hub :=
  { tHub [(aVdkCfg 63, 2 ^ 31 + 129), (aSwcGrpStatus 63, 2 ^ 30 + 129 * 2 ^ 16), (aTrkStatus 0, 7 + 2 ^ 8), (aTrkStatus 7, 7 + 2 ^ 8)] with
    swc := { (tHub []).swc with waiting := [63] } }

theorem test_SwitchCore_fence :
    tFences.swc.waiting.contains 63 = true ∧ tfind tFences.swc.fences 63 = none ∧ tFences.swc.fences.length < 8 ∧
      (let g := setFlag { tFences with swc := { tFences.swc with waiting := tFences.swc.waiting.filter (· ≠ 63) } } (aSwcGrpStatus 63) 30 false
       (newMap g 63 (dockMask tFences 63)).any (fun m => decide (m ≠ (List.range 256).map (mapTrunk g 63))) = true) := by decide +kernel

def tFence (acked : Nat) : Fence := ⟨65535, 1, 128, [], 0, acked, 0, [], []⟩
def tFenced (acked : Nat) : Hub :=
  tEdge 255 { tHub [(aTrkStatus 7, 7), (aSwcFenceCfg, 255 * 2 ^ 16)] with swc := { (tHub []).swc with fences := [(63, tFence acked)] } }

theorem test_SwitchCore_fenced :
    let u := BitVec.ofNat 64 (65535 * 2 ^ 48 + 63 * 2 ^ 40)
    (tfind (tFenced 0).swc.fences (bitsOf u.toNat 40 6) = some (tFence 0) ∧ (tFence 0).no = bitsOf u.toNat 48 16 ∧ bitOf (1 ||| 128) 7 = true) ∧
    fenceOver (tFenced 128) 63 (tFence 128) = true ∧ fenceOver (tFenced 0) 63 (tFence 0) = false ∧
    fld (tFenced 0) aSwcFenceCfg 16 8 ≤ edgesSince (tFenced 0) (tFence 0).edge := by decide

/-- The weight of class 7 of dock 63 at SP20, and of a dock. -/
theorem test_Traffic_bw :
    let b (c : Nat) := [tWord 0x28 63 (65535 * 2 ^ 16 + c + 20)]
    TStages [] (b (15 * 2 ^ 8)) 0x28 [(aTmgCw 63 20 7, W 65535)] ((scDock 63).union (scPort 20)) ∧
      TStages [] (b 0) 0x28 [(aTmgDw 63 20, W 65535)] ((scDock 63).union (scPort 20)) ∧ spPresent resetPart.res 20 = true := by decide
/-- Dock and queue shapers and a policer, with slopes at their bounds. -/
theorem test_Traffic_shp :
    let lo := 2 ^ 63
    (TStages [] [tWord 0x29 63 (2 ^ 30 + 2 ^ 29 + 20), 1, lo] 0x29 (fiveWords (aTmgDsIdle 63 20) 1 lo 2) ((scDock 63).union (scPort 20)) ∧ slopesOk 1 lo = true) ∧
    (TStages [] [tWord 0x29 4095 (2 ^ 29), 1, lo] 0x29 (fiveWords (aTmgQsIdle 4095) 1 lo 2) scGlobal ∧ 4095 < resetPart.res.queues ∧
      queueScope (tAtTx [] [0]).hub (standing (tAtTx [] [0]).hub (tCmdTx [0]) []) 4095 = scGlobal) ∧
    (TStages [] [tWord 0x2A 1016 (0x300 + 23), 0, 0] 0x2A (fiveWords (aTmgPlIdle 1016) 0 0 (0x300 + 23)) (scPort 23) ∧ 1016 % 16 = 8 ∧
      1016 / 16 < resetPart.res.docks ∧ slopesOk 0 0 = true) := by decide
theorem test_Traffic_qmap :
    TStages [] [tWord 0x2B 4095 (2 ^ 31 + 7 * 2 ^ 16 + 63 * 2 ^ 8 + 23)] 0x2B [(aTmgQmap 4095, W (2 ^ 31 + 7 * 2 ^ 16 + 63 * 2 ^ 8 + 23))]
      (((scDock 63).union (scPort 23)).union Scope.empty) ∧ queueMapped (tAtTx [] [0]).hub (projected (tAtTx [] [0]).hub) 4095 = false := by decide

theorem test_Egress_direct :
    let h := tSwc { (tHub []).swc with direct := [(23 * 4 + 2, [{ tPkt with egr := 23 }])] }
    tget 0 h.tel.busy 23 = 0 ∧ portUp h 23 = true ∧ directNext (dropLost h 23) 23 = some { tPkt with egr := 23 } := by decide +kernel
theorem test_Egress_sysq :
    let p := { tPkt with egr := 8 }
    let h := { tSwc { (tHub []).swc with sysq := [(8, [p])] } with tun := { (tHub []).tun with plinks := [(0, ⟨true, 0, 1⟩)] } }
    portUp h 8 = true ∧ sysNext (refresh (dropLost h 8) 8) 8 = some p ∧ sinkOk (refresh (dropLost h 8) 8) 8 p = true := by decide +kernel
/-- Queue 1 of dock 3 at P0 with one packet. -/
def tTree : Hub :=
  let p := { tPkt with egr := 8, queue := 1 }
  { tHub [(aTmgQmap 1, 2 ^ 31 + 3 * 2 ^ 8 + 8), (aVdkCfg 3, 2 ^ 31 + 1), (aVdkStatus 3, 1), (aTmgDw 3 8, 1), (aTmgCw 3 8 0, 1)] with
    swc := { (tHub []).swc with queues := [(1, { Queue.empty with cask := [p] })] }
    tun := { (tHub []).tun with plinks := [(0, ⟨true, 0, 1⟩)] } }
theorem test_Egress_tree :
    let g := refresh (dropLost tTree 8) 8
    portUp tTree 8 = true ∧ sysNext g 8 = none ∧ (selectHead g 8 ((heads g 8).filter Head.ok)).map (·.q) = some 1 := by decide +kernel
/-- Phase P1 in its turn, and with work left over from the tick before. -/
theorem test_Egress_phase : phaseOpen (tHub []) 0 = true ∧ phaseSuspended (enterPhase (tHub []) 1) 1 = false ∧
    phaseSuspended (enterPhase { tHub [] with tim := { (tHub []).tim with suspended := 2 } } 1) 1 = true := by decide
theorem test_Egress_pause :
    let h (en : Nat) := { tHub [(aTmgPortCfg 19, en)] with tun := { (tHub []).tun with ethUp := 8 } }
    portUp (h 0) 19 = true ∧ flag (raise (count (h 0) (aTmgCntPause 19) 1) 0x09 1 0 0) (aTmgPortCfg 19) 16 = false ∧
      portUp (h (2 ^ 16)) 19 = true ∧ flag (raise (count (h (2 ^ 16)) (aTmgCntPause 19) 1) 0x09 1 0 0) (aTmgPortCfg 19) 16 = true := by decide +kernel

/-! ### Tunnels (O31 to O33) -/

/-- The last end of SP20 for dock 63, of the highest type, and the first free one of trunk 7. -/
theorem test_TunnelInstructions_open :
    let o (sp : Nat) := 7 * 2 ^ 24 + 63 * 2 ^ 16 + 5 * 2 ^ 8 + sp
    let v := 2 ^ 31 + 7 * 2 ^ 28 + 5 * 2 ^ 24 + 63 * 2 ^ 16 + 0x83FF
    let h := (tAtTx [] [0]).hub
    let t := standing h (tCmdTx [0]) []
    (TStages [] [tWord 0x20 4095 (o 20), 0x83FF] 0x20 [(aTunT 20 4095, W v)] ((scDock 63).union (scPort 20)) ∧ builtIn 20 4095 = false ∧
      (openPairs t).length < 4096 ∧ onlyBits (o 20) 0x073F0F1F = true ∧ onlyBits 0x83FF 0x83FF = true) ∧
    (TStages [] [tWord 0x20 0xF000 (o 7), 0x83FF] 0x20 [(aTunT 7 1, W v)] ((scDock 63).union (scPort 7)) ∧
      (List.range 4096).find? (fun k => decide (1 ≤ k) && tidFree h t (openPairs t) 7 k) = some 1) := by decide +kernel
/-- End 4095 of trunk 0, of dock 3. -/
theorem test_TunnelInstructions_close :
    let r := [(aTunT 0 4095, 2 ^ 31 + 2 ^ 24 + 3 * 2 ^ 16), (aVdkCfg 3, 2 ^ 31 + 129)]
    let h := (tAtTx r [0]).hub
    let t := standing h (tCmdTx [0]) []
    TStages r [tWord 0x21 4095 0] 0x21 [(aTunT 0 4095, 0), (aTunR 0 4095, 0)] (endScope h t 0 4095) ∧ (endIn h t 0 4095).isSome = true := by decide
/-- A route to nowhere, to a port end and to the hub's own port. -/
theorem test_TunnelInstructions_route :
    let e (sp : Nat) := endScope (tAtTx [] [0]).hub (standing (tAtTx [] [0]).hub (tCmdTx [0]) []) sp 4095
    let o (sp dst tid : Nat) := tid * 2 ^ 16 + dst * 2 ^ 5 + sp
    (TStages [] [tWord 0x22 4095 (o 20 31 0)] 0x22 [(aTunR 20 4095, W (2 ^ 31 + 31 * 2 ^ 24))] ((e 20).union Scope.empty)) ∧
    (TStages [] [tWord 0x22 4095 (o 0 20 4095)] 0x22 [(aTunR 0 4095, W (2 ^ 31 + 20 * 2 ^ 24 + 4095))] ((e 0).union (scPort 20)) ∧
      builtIn 20 4095 = false) ∧
    (TStages [] [tWord 0x22 4095 (o 0 23 0)] 0x22 [(aTunR 0 4095, W (2 ^ 31 + 23 * 2 ^ 24))] ((e 0).union (scPort 23)) ∧ spPresent resetPart.res 23 = true) := by
  decide
/-- The end of dock 3, of trunk 7 alone, moves from trunk 0 to it. -/
theorem test_TunnelInstructions_move :
    let r := [(aTunT 0 4095, 2 ^ 31 + 2 ^ 24 + 3 * 2 ^ 16), (aVdkCfg 3, 2 ^ 31 + 128), (aVdkStatus 3, 1)]
    let h := (tAt r [0]).hub
    TStands r [tWord 0x23 4095 (7 * 2 ^ 5)] 0x23 ∧ (endIn h (projected h) 0 4095).map (·.dock) = some 3 ∧
      popcount 8 (maskIn h (projected h) 3) = 1 ∧ bitOf (maskIn h (projected h) 3) 7 = true ∧ endIn h (projected h) 7 4095 = none ∧ gatesClosed h 3 = false ∧
      oConflict h (tCmd [0]) (((scDock 3).union (scPort 0)).union (scPort 7)) = none := by decide

def tMove : Move := ⟨7, 0, 4095, 0, 0, 0, 0, [], false, false⟩
/-- The end moves off a trunk that is down, so nothing is left to drain, and off one with a packet still to send. -/
def tMoving (txq : List TunPacket) : Hub :=
  let t := tEdge 16 (tHub [(aTrkStatus 7, 7)])
  { t with trk := [(7, { TrkSt.idle with txq := txq })], tun := { t.tun with moves := [tMove] } }

theorem test_TunnelMoves : findMove (tMoving []) 7 4095 = some tMove ∧ moveDrained (tMoving []) tMove = true ∧
    moveDrained (tMoving [⟨{ tHdr with tid := 4095 }, [], []⟩]) tMove = false ∧ 16 ≤ edgesSince (tMoving []) tMove.edge ∧
    fld (tMoving []) aTunCfg 8 8 ≤ edgesSince (tMoving []) tMove.edge := by decide +kernel

/-- Trunk 7 is ACTIVE; its ends: 1 PCIe, 2 time, 3 Ethernet, of dock 63, which runs. -/
def tEnds : Hub :=
  tHub [(aTrkStatus 7, 7), (aVdkCfg 63, 2 ^ 31 + 128), (aVdkStatus 63, 1), (aTunT 7 1, 2 ^ 31 + 2 ^ 24 + 63 * 2 ^ 16),
    (aTunT 7 2, 2 ^ 31 + 4 * 2 ^ 24 + 63 * 2 ^ 16), (aTunT 19 1, 2 ^ 31 + 3 * 2 ^ 24 + 63 * 2 ^ 16), (aTunEthcCtl 63 0, 2 ^ 31 + 2 ^ 9 + 8)]

theorem test_TunnelMessages_trunk :
    controlUp tEnds 7 = true ∧ ((resolveEnd tEnds 7 2).map (·.type) = some 4) ∧ ((resolveEnd tEnds 7 2).map (fun e => gatesClosed tEnds e.dock) = some false) ∧
      trunkDrops ⟨{ tHdr with type := 6 }, [], []⟩ = true ∧ trunkDrops ⟨{ tHdr with vc := 7 }, [], []⟩ = true := by decide
/-- A packet of each case: no end, an end of another type, and the PCIe end. -/
theorem test_TunnelMessages_packet :
    let p (tid : BitVec 12) : TunPacket := ⟨{ tHdr with tid := tid }, [], []⟩
    let g := tally { tEnds with arrived := [] } 0x20 0x0200 1 (some ⟨7, 63, 0, none⟩)
    trunkDrops (p 1) = false ∧ trunkDrops (p 4095) = false ∧ resolveEnd g 7 4095 = none ∧
      (∃ e, resolveEnd g 7 2 = some e ∧ (1 : Nat) ≠ e.type) ∧
      (∃ e, resolveEnd g 7 1 = some e ∧ (1 : Nat) = e.type ∧ openIn g 7 e (p 1) = (g, some (p 1)) ∧ gatesClosed g e.dock = false) := by
  refine ⟨by decide, by decide, by decide +kernel, ⟨_, rfl, by decide⟩, ⟨_, rfl, by decide, rfl, by decide +kernel⟩⟩
/-- An encrypted packet for an end without encryption, and a packet for the end of a dock that is frozen. -/
theorem test_TunnelMessages_dropped :
    let p : TunPacket := ⟨{ tHdr with keyEn := true }, [], List.replicate 16 0⟩
    let h := wr tEnds (aVdkStatus 63) 3
    (∃ e, resolveEnd tEnds 7 1 = some e ∧ (openIn tEnds 7 e p).2 = none) ∧
      (∃ e, resolveEnd h 7 1 = some e ∧ gatesClosed h e.dock = true ∧ e.type = 1) := by
  refine ⟨⟨_, rfl, by decide +kernel⟩, ⟨_, rfl, by decide +kernel, by decide +kernel⟩⟩
/-- The shortest frame, to every station, on E3; to no station it is for nobody. -/
theorem test_TunnelMessages_ethernet :
    let h := { tEnds with tun := { tEnds.tun with ethUp := 8 } }
    let frame := List.replicate 14 (255 : Byte)
    let g := tally (tally h 0xD3 0x0D01 1 (some ⟨19, 64, 0, none⟩)) 0xD3 0x0D02 14 (some ⟨19, 64, 0, none⟩)
    3 < h.part.res.eth ∧ bitOf h.tun.ethUp.toNat 3 = true ∧ retired h 7 3 = false ∧ frame.length = 14 ∧ ingressFull g 19 = false ∧
      (classify g 3 frame).filter (fun d => (portEndOf g 19 d).isSome) = [63] ∧
      (classify g 3 (List.replicate 14 2)).filter (fun d => (portEndOf g 19 d).isSome) = [] ∧
      ingressFull (tally (tally { h with regs := tput h.regs (aSwcPortVoq 19) 0 } 0xD3 0x0D01 1 (some ⟨19, 64, 0, none⟩)) 0xD3 0x0D02 14
        (some ⟨19, 64, 0, none⟩)) 19 = true := by decide +kernel
theorem test_TunnelMessages_waits :
    let v : Dev := ⟨3, 63, 19, 0, 0, 0, 0, 0⟩
    let h := tEdge 2040000 { tHub [(aTunCfg, 255 * 2 ^ 24)] with
      tun := { (tHub []).tun with devs := [(1023, v)], waitTag := [(7, ⟨tHdr, [], []⟩)], waitPool := [(7, ⟨tHdr, [], []⟩)] } }
    tfind h.tun.devs 1023 = some v ∧ v.kind = 3 ∧ fld h aTunCfg 24 8 = 255 ∧ 255 * 8000 ≤ edgesSince h v.edge ∧
      h.tun.waitTag.find? (waitReady h) = some (7, ⟨tHdr, [], []⟩) ∧ h.tun.waitPool.find? (waitReady h) = some (7, ⟨tHdr, [], []⟩) ∧
      h.tun.tags.length < 4096 := by decide

/-! ### Host functions and bridges (O34, O35) -/

/-- Dock 63 runs on trunk 7; its PCIe end there is 1, on P7 it is 1 too. -/
def tHost (regs : List (Nat × Nat)) : Hub :=
  tHub ([(aVdkCfg 63, 2 ^ 31 + 128), (aVdkStatus 63, 1), (aTunT 7 1, 2 ^ 31 + 2 ^ 24 + 63 * 2 ^ 16), (aTunT 15 1, 2 ^ 31 + 2 ^ 24 + 63 * 2 ^ 16),
    (aTunR 15 1, 2 ^ 31 + 7 * 2 ^ 24 + 1), (aTunVswId, 1)] ++ regs)

theorem test_HostFunction_gates : gatesClosed (tHost [(aVdkStatus 63, 2)]) 63 = true ∧ gatesClosed (tHost [(aVdkStatus 63, 5)]) 63 = true ∧
    gatesClosed (tHost []) 63 = false ∧ dockCreated (tHost []) 63 = true ∧ hfD3 (tHost []) 63 = false := by decide
/-- EN stays with SIZE 12; EN rises with SIZE 4 and 12; HEAD at the end of a ring of 2^12 events. -/
theorem test_HostFunction_ring :
    let e : Evr := { Evr.idle with ctl := 2 ^ 31 + 12 * 2 ^ 16 }
    evrAt { tHost [] with tun := { (tHost []).tun with evr := [(63, e)] } } 63 = e ∧ bitOf e.ctl 31 = true ∧
      bitsOf (BitVec.ofNat 32 (2 ^ 31 + 12 * 2 ^ 16 + 15)).toNat 16 4 = bitsOf e.ctl 16 4 ∧ bitOf (evrAt (tHost []) 63).ctl 31 = false ∧
      4 ≤ bitsOf (BitVec.ofNat 32 (2 ^ 31 + 4 * 2 ^ 16)).toNat 16 4 ∧ bitsOf (BitVec.ofNat 32 (2 ^ 31 + 12 * 2 ^ 16)).toNat 16 4 ≤ 12 ∧
      bitsOf (BitVec.ofNat 32 4095).toNat 0 12 < 2 ^ bitsOf e.ctl 16 4 := by decide
/-- P7 is locked by requester 5 of dock 63 since edge 0. -/
theorem test_HostFunction_lock :
    let h := tEdge 8 { tHost [(aTunBrgLock 7, 2 ^ 31 + 63 * 2 ^ 16 + 5)] with tun := { (tHost []).tun with lockEdge := [(7, 0)] } }
    tfind h.tun.lockEdge 7 = some 0 ∧ 8 ≤ edgesSince h 0 ∧ lockOwner h 7 = some (63, 5) ∧ (sendUnlock h 22 7 63 5).tun.broken.contains (63, 5) = false ∧
      gatesClosed h 63 = false ∧ (List.range 8).find? (fun n => decide (lockOwner h n = some (63, 5))) = some 7 := by decide +kernel

def tReq (type1 : Bool) (bus : BitVec 8) (dev : BitVec 5) : ConfigReq := ⟨type1, bus, dev, 0, 0, false, 15, 0, 0, 0⟩
/-- Buses 5 behind the upstream port and 6 to 9 behind P7, whose memory window is the first MiB. -/
def tBuses : Hub :=
  { tHost [] with tun := { (tHost []).tun with
      config := tput (tput (tput [] (cfgKey 63 0 6) (W (9 * 2 ^ 16 + 5 * 2 ^ 8))) (cfgKey 63 9 6) (W (9 * 2 ^ 16 + 6 * 2 ^ 8))) (cfgKey 63 9 1) 2 ++ [(cfgKey 63 0 1, 2), (cfgKey 63 1 1, 2)]
      plinks := [(7, ⟨true, 0, 1⟩)] } }

/-- Dock 63's host function with memory space on: reads of its page, doorbells and its event ring are served. -/
theorem test_HostFunction_host :
    let h := wr tBuses aTunHfId 1
    gatesClosed (atClk h 3) 63 = false ∧ (trunkEnd (atClk h 3) 63 1).isSome = true ∧ hfPresent (atClk h 3) = true ∧
      cfgCmd (atClk h 3) 63 1 1 = true ∧ (trunkEnd h 63 1).isSome = true ∧ hfPresent h = true ∧ cfgCmd h 63 1 1 = true ∧ dockCreated h 63 = true ∧
      hfD3 h 63 = false ∧ bitsOf (BitVec.ofNat 32 (2 ^ 31 + 3 * 2 ^ 16)).toNat 16 4 < 4 ∧ 12 < bitsOf (BitVec.ofNat 32 (2 ^ 31 + 13 * 2 ^ 16)).toNat 16 4 ∧
      2 ^ bitsOf (evrAt h 63).ctl 16 4 ≤ bitsOf (BitVec.ofNat 32 4095).toNat 0 12 ∧
      (List.range 8).find? (fun n => decide (lockOwner h n = some (63, 5))) = none := by decide +kernel
theorem test_Bridge_config :
    (trunkEnd tBuses 63 1).map (·.dock) = some 63 ∧ gatesClosed tBuses 63 = false ∧ fld tBuses aTunVswId 0 16 ≠ 0xFFFF ∧
      (tReq true 5 0).bus.toNat = secBus tBuses 63 0 ∧ (dockPorts tBuses 63).contains ((tReq true 5 8).dev.toNat - 1) = true ∧
      (∀ b ∈ [6, 9], (dockPorts tBuses 63).find? (fun n => decide (0 < secBus tBuses 63 (2 + n)) && decide (secBus tBuses 63 (2 + n) ≤ b) &&
        decide (b ≤ subBus tBuses 63 (2 + n))) = some 7) ∧
      (dockPorts tBuses 63).find? (fun n => decide (0 < secBus tBuses 63 (2 + n)) && decide (secBus tBuses 63 (2 + n) ≤ 10) &&
        decide (10 ≤ subBus tBuses 63 (2 + n))) = none := by decide +kernel
theorem test_Bridge_locked :
    let t : Tlp := { tlpZero with kind := .memRdLk, reqId := 5, addr := 0xFFFFC, len := 4 }
    ({ tBuses.tun with broken := [(63, 5)] }).broken.contains (63, t.reqId.toNat) = true ∧ tBuses.tun.broken.contains (63, t.reqId.toNat) = false ∧
      decodeMem tBuses 63 t.addr.toNat t.len = .port 7 ∧
      (List.range 8).any (fun m => decide (m ≠ 7) && decide ((lockOwner tBuses m).map (·.1) = some 63)) = false := by decide +kernel
/-- A completion, a posted and a non-posted request of the device on P7; and the request while the gates are closed. -/
theorem test_Bridge_device :
    (portEnd tBuses 15).map (·.tid) = some 1 ∧ pcieUp tBuses 7 = true ∧ (routeOf tBuses 15 1).isSome = true ∧ isCpl { tlpZero with kind := .cpl } = true ∧
      tlpClass { tlpZero with kind := .memWr } = 0 ∧ tlpClass { tlpZero with kind := .memRd } ≠ 0 ∧ isCpl { tlpZero with kind := .memRd } = false ∧
      (let i : PInfo := ⟨15, 63, 0, none⟩
       gatesClosed (tally (tally tBuses 0xC7 0x0C01 1 (some i)) 0x20 0x0200 1 (some i)) 63 = false ∧
       gatesClosed (tally (tally (wr tBuses (aVdkStatus 63) 2) 0xC7 0x0C01 1 (some i)) 0x20 0x0200 1 (some i)) 63 = true) := by decide +kernel

def tTag (discard : Option Nat) : Tag := ⟨1, true, 63, 15, 1, 0, 0, 0, 0, 0, 0, discard, tlpZero, none⟩
theorem test_Bridge_tags :
    let h (d : Option Nat) := tEdge 2047 { tHost [(aTunBrgCfg, 2047 * 2 ^ 16 + 2047)] with
      tun := { (tHost []).tun with tags := [(4095, tTag d)], freed := [(1023, 2031)] } }
    tfind (h (some 0)).tun.tags 4095 = some (tTag (some 0)) ∧ fld (h (some 0)) aTunBrgCfg 16 11 ≤ edgesSince (h (some 0)) 0 ∧
      tfind (h none).tun.tags 4095 = some (tTag none) ∧ fld (h none) aTunBrgCfg 0 16 ≠ 0 ∧ fld (h none) aTunBrgCfg 0 16 ≤ edgesSince (h none) 0 ∧
      tfind (h none).tun.freed 1023 = some 2031 ∧ 16 ≤ edgesSince (h none) 2031 ∧
      (h none).tun.tags.any (fun t => decide (t.2.dev = 1023)) = false := by decide
/-- A link of the fastest rate and two lanes, and one that goes down. -/
theorem test_Bridge_up : pcieLanes (tHub []) 7 2 ≠ [] ∧ pcieUp tBuses 7 = true := by decide
theorem test_Bridge_links :
    let g := { tHub [] with lns := { (tHub []).lns with x1 := tdel (tHub []).lns.x1 7 } }
    7 < resetPart.res.pcie ∧ pcieUp g 7 = false ∧ retired g 5 7 = false := by decide

/-! ### USB (O36) -/

/-- Port 15 is U0 at SuperSpeed, virtual port 14 of dock 63, which has a buffer of one block, an end on SP20 and one on trunk 7, and a
device function. -/
def tUsb (regs : List (Nat × Nat)) : Hub :=
  tHub ([(aVdkCfg 63, 2 ^ 31 + 128), (aVdkStatus 63, 1), (aUsbPortAssign 15, 2 ^ 31 + 14 * 2 ^ 8 + 63), (aUsbPortAssign 11, 2 ^ 31 + 13 * 2 ^ 8 + 63),
    (aUsbPortStatus 11, 12), (aTunT 20 1, 2 ^ 31 + 2 * 2 ^ 24 + 63 * 2 ^ 16), (aTunT 7 1, 2 ^ 31 + 2 * 2 ^ 24 + 63 * 2 ^ 16), (aUsbEpmCtl 255, 2 ^ 31 + 63),
    (aUsbEpmLength 255, 1088), (aUsbVhId, 1), (aUsbDfId, 1), (aUsbVhCfg 63, 256)] ++ regs)
def tNoBlock : Hub := tUsb [(aUsbEpmCtl 255, 0)]
def tData : UsbPacket := ⟨8, []⟩

theorem test_Usb_device :
    usbAssign (tUsb []) 11 = some (63, 13) ∧ usbLink (tUsb []) 11 ≠ 0 ∧ usbNoSs (tUsb []) 11 = false ∧ (portEndOf (tUsb []) 20 63).isSome = true ∧
      gatesClosed (tUsb []) 63 = false ∧ tget [] (tUsb []).usb.heldUp 63 = [] ∧ (ssUp (tUsb []) 11 63 tData).isSome = true ∧
      ssUp tNoBlock 11 63 tData = none ∧ tget [] ({ (tUsb []).usb with heldUp := [(63, [(11, tData)])] }).heldUp 63 ≠ [] := by decide +kernel
/-- A data packet of a device is held for a block, or a packet of the host: here a result, which only the hub sends and which goes nowhere. -/
theorem test_Usb_block :
    let up := { tUsb [] with usb := { (tUsb []).usb with heldUp := [(63, [(11, tData)])] } }
    let down := { tUsb [] with usb := { (tUsb []).usb with heldDown := [(63, [{ tPkt with hdr := { tHdr with kind := 5 } }])] } }
    usbFree up 63 ≠ 0 ∧ tget [] up.usb.heldDown 63 = [] ∧ tget [] up.usb.heldUp 63 = (11, tData) :: [] ∧
      (ssUp { up with usb := { up.usb with heldUp := tset [] up.usb.heldUp 63 [] } } 11 63 tData).isSome = true ∧
      tget [] down.usb.heldDown 63 = { tPkt with hdr := { tHdr with kind := 5 } } :: [] ∧ usbFree down 63 ≠ 0 ∧
      (usbUnit { down with usb := { down.usb with heldDown := tset [] down.usb.heldDown 63 [] } } 63 5 0 []).isSome = true := by decide +kernel
/-- A device of speed 1 on port 15, one of speed 3 on the last SuperSpeed port; they leave; and port 15 comes out of its reset. -/
theorem test_Usb_connect :
    usbPresent resetPart.res 15 = true ∧ usbSpeed (tUsb []) 15 = 0 ∧ flag (tUsb []) (aUsbPortStatus 15) 7 = false ∧ usbNoSs (tHub []) 11 = false ∧
      usbAssign (usbLinkTo (setFld (tHub []) (aUsbPortStatus 11) 0 3 3) 11 1) 11 = none ∧
      usbAssign (usbLinkTo (setFld (tUsb []) (aUsbPortStatus 15) 0 3 1) 15 1) 15 = some (63, 14) ∧ tfind (tUsb []).usb.resetFrom 15 = none ∧
      usbSpeed (tUsb []) 11 ≠ 0 ∧ usbSpeed (tHub [(aUsbPortStatus 11, 5)]) 11 ≠ 0 := by decide +kernel
theorem test_Usb_reset :
    let h := tEdge 2040 { tUsb [(aUsbCfg, 255), (aUsbPortStatus 15, 1)] with usb := { (tUsb []).usb with resetFrom := [(15, 0)] } }
    tfind h.usb.resetFrom 15 = some 0 ∧ 8 * fld h aUsbCfg 0 8 ≤ edgesSince h 0 ∧
      (let g := usbLinkTo { h with usb := { h.usb with resetFrom := tdel h.usb.resetFrom 15 } } 15 1
       usbAssign g 15 = some (63, 14) ∧ usbSpeed g 15 ≠ 0) := by decide +kernel
theorem test_Usb_function : dfReachable (atClk (tUsb []) 7) 63 = true ∧ dfReachable (tUsb []) 63 = true ∧ dfPresent (tUsb []) 63 = true := by decide +kernel
/-- Virtual port 14, which is suspended, of a dock whose hub may wake; and the device function, port 15, which has no port of the hub. -/
theorem test_Usb_wake :
    let h := { tUsb [] with usb := { (tUsb []).usb with
      ctl := [(63 * 4, { Ctl.idle with wake := true }), (63 * 4 + 2, { Ctl.idle with wake := true, suspended := true })]
      vports := tput [] (vpKey 63 0 14) { VPort.idle with suspended := true } } }
    wakeArmed h 63 14 = true ∧ wakeArmed h 63 15 = true ∧ tfind h.usb.wakes (63 * 16 + 14) = none ∧ tfind h.usb.wakes (63 * 16 + 15) = none ∧
      usbPhys h 63 14 = some 15 ∧ usbPhys h 63 15 = none := by decide
theorem test_Usb_report :
    let w : Wake := ⟨5, false⟩
    let h := { tUsb [] with usb := { (tUsb []).usb with wakes := [(63 * 16 + 14, w), (63 * 16 + 15, w)] }, tim := { (tUsb []).tim with coreClk := 1600005 } }
    tfind h.usb.wakes (63 * 16 + 14) = some w ∧ tfind h.usb.wakes (63 * 16 + 15) = some w ∧ w.start + 1600000 ≤ h.tim.coreClk := by decide

/-! ### Displays (O37, O38) -/

/-- Layer 7 of output 7 with a base above bit 16, which stays, its timing and check window 15. -/
theorem test_DisplayInstructions_layer :
    let b := [tWord 0x30 0x77 0x1FF07, 2 ^ 64 - 1, 2 ^ 32 - 1, 0, 0]
    TStages [(aDspLayerCtl 7 7, 2 ^ 31)] b 0x30
      [(aDspLayerCtl 7 7, W (2 ^ 31 + 0x1FF07)), (aDspLayerAddrLo 7 7, W (2 ^ 64 - 1)), (aDspLayerAddrHi 7 7, W ((2 ^ 64 - 1) / 2 ^ 32)),
        (aDspLayerStride 7 7, W (2 ^ 32 - 1)), (aDspLayerSrcXy 7 7, W (0 % 2 ^ 32)), (aDspLayerSrcWh 7 7, W (0 / 2 ^ 32 % 2 ^ 32)),
        (aDspLayerDstXy 7 7, W (0 % 2 ^ 32)), (aDspLayerDstWh 7 7, W (0 / 2 ^ 32 % 2 ^ 32))] (scOut 7) ∧
      cfg (tAtTx [(aDspLayerCtl 7 7, 2 ^ 31)] b).hub (standing (tAtTx [(aDspLayerCtl 7 7, 2 ^ 31)] b).hub (tCmdTx b) []) (aDspLayerCtl 7 7) = 2 ^ 31 ∧
      (tIns (tAtTx [(aDspLayerCtl 7 7, 2 ^ 31)] b)).o 1 3 = 3 ∧ dspPresent (tHub []) 7 = true := by decide
theorem test_DisplayInstructions_timing :
    let b := [tWord 0x31 7 0x2F, 0, 0, 3 * 2 ^ 32 + 5]
    TStages [] b 0x31 [(aDspTctl 7, W (3 * 2 ^ 6 + 2 ^ 5 + 3 * 4 + 2 + 1)), (aDspH0 7, 0), (aDspH1 7, 0), (aDspV0 7, 0), (aDspV1 7, 0), (aDspPclk 7, W (3 * 2 ^ 32 + 5))]
      (scOut 7) ∧ onlyBits (3 * 2 ^ 32 + 5) 0x3FFFFFFFF = true ∧ (tIns (tAtTx [] b)).o 2 3 = 3 := by decide
theorem test_DisplayInstructions_check :
    TStages [] [tWord 0x32 0xF7 1, 0, 2 ^ 32 - 1] 0x32 [(aDspChkCtl 7 15, 1), (aDspChkXy 7 15, 0), (aDspChkWh 7 15, 0), (aDspChkExpect 7 15, W (2 ^ 32 - 1))] (scOut 7) := by
  decide

/-- Output 7 with HPD, scanning, layer 7 and check window 15 enabled, its link on four lanes. -/
def tDisplay (regs : List (Nat × Nat)) : Hub := tHub ([(aDspStatus 7, 2 ^ 27 + 4 * 2 ^ 20), (aDspTctl 7, 1), (aDspLayerCtl 7 7, 1), (aDspChkCtl 7 15, 1)] ++ regs)
def tSink : SinkReport := ⟨0, false, 0, 0, 0⟩

theorem test_DisplayEvents_hpd : flag (tHub []) (aDspStatus 7) 27 = false ∧ flag (tDisplay []) (aDspStatus 7) 27 = true ∧
    fld (raise (setSink (tDisplay []) 7 tSink) 0x0A 0 7 0) (aDspStatus 7) 20 3 ≠ 0 := by decide
/-- A latch point while the transactions of P0 still apply is kept; one after them takes effect. -/
theorem test_DisplayEvents_latch :
    scanning (tHub []) 7 = false ∧ scanning (tDisplay []) 7 = true ∧ p0Busy (tDisplay []) = false ∧ scanning (lateLatches (tDisplay [])) 7 = true ∧
      p0Busy { tDisplay [] with txs := { (tDisplay []).txs with delivering := some ⟨0, .direct, .m0, [], none, 0, [], []⟩ } } = true := by decide +kernel
theorem test_DisplayEvents_scanned :
    (layerAt (active (tDisplay [])) 7 7).en = true ∧ tfind (tDisplay []).dsp.cut (7 * 8 + 7) = none ∧
      bitOf (active (tDisplay []) (aDspChkCtl 7 15)) 0 = true ∧ tget false (tDisplay []).dsp.checked (7 * 16 + 15) = false := by decide
/-- A command of each operation; AUX runs, with 2 and 3 missing replies and 6 and 7 deferred ones. -/
theorem test_DisplayEvents_aux :
    (∀ k < 4, bitOf (BitVec.ofNat 32 (2 ^ 31 + k * 2 ^ 28)).toNat 31 = true ∧ bitsOf (BitVec.ofNat 32 (2 ^ 31 + k * 2 ^ 28)).toNat 28 3 = k) ∧
      flag (tHub []) (aDspAuxCmd 7) 31 = false ∧
      (let h (go : Nat) (a b : Nat) := { tHub [(aDspAuxCmd 7, go)] with dsp := { (tHub []).dsp with aux := [(7, (a, b))] } }
       flag (h (2 ^ 31) 2 6) (aDspAuxCmd 7) 31 = true ∧ tget (0, 0) (h (2 ^ 31) 2 6).dsp.aux 7 = (2, 6) ∧ tget (0, 0) (h (2 ^ 31) 3 7).dsp.aux 7 = (3, 7) ∧
       fld (h (2 ^ 31) 0 0) (aDspAuxCmd 7) 28 1 ≠ 1 ∧ fld (h (2 ^ 31 + 2 ^ 28) 0 0) (aDspAuxCmd 7) 28 1 = 1) := by decide

/-! ### The whole hub (O1, O39 to O45) -/

theorem test_Queue : (State.reset.hub.runs = true) ∧ step { State.reset with pending := [] } = .next State.reset := ⟨rfl, rfl⟩
/-- A cellar with two bytes, the last of them at the top of 64 GiB, and its image without the byte that is 0. -/
theorem test_CellarForm : Memory.wf ⟨[(0, 1), (68719476735, 255)]⟩ = true ∧ Memory.wf ⟨[(0, 0)]⟩ = false ∧ Memory.wf ⟨[(5, 1), (5, 2)]⟩ = false := by decide
theorem test_CellarFormKept : Memory.wf State.reset.mem = true ∧ step State.reset = .next State.reset := ⟨rfl, rfl⟩
theorem test_CellarReadsAsWritten : onBus (2 ^ 63 - 1) = false ∧ onBus (2 ^ 63) = true ∧ ([7] : List Byte)[0]? = some 7 ∧
    isHole (tHub [(aMemCellarStatus, 255 * 2 ^ 8)]) 2047 = false ∧ isHole (tHub [(aMemCellarStatus, 2 ^ 16 + 255 * 2 ^ 8)]) 2047 = true := by decide
theorem test_HaltedCore : (∀ m ∈ [PwrMode.warm, .doze, .off, .railWait], (tAsleep m 1).runs = false) ∧ servedAlwaysOn (.nop 0) = false := by decide
theorem test_OnlyListed : mayWriteCellar (.memFill 0) = false ∧ exec (.memFill 0) State.reset = .next State.reset := ⟨rfl, rfl⟩

/-! ### Turner's rules (O46 to O50) -/

theorem test_Unassigned :
    let s (op : Nat) := tAt [] [tWord op 0 0xFFFFFC, 0]
    (0xFFFFFC % 4 = 0 ∧ 0xFFFFFC < 2 ^ 24 ∧ unassigned 0xFFFFFC = true) ∧
      (∀ op ∈ [0x08, 0x09, 0x0A], AtInstr { s op with hub := atClk (s op).hub 5 } 0 op (tCmd [tWord op 0 0xFFFFFC, 0]) (tIns (s op))) := by decide +kernel
theorem test_Staging_records : (([] : Recs).map (·.1)).Nodup ∧ (([(4, 1), (0, 2)] : Recs).map (·.1)).Nodup ∧ 4 ∈ ([(4, 1), (0, 2)] : Recs).map (·.1) ∧
    8 ∉ ([(4, 1), (0, 2)] : Recs).map (·.1) := by decide
set_option maxRecDepth 100000 in
/-- A transaction that 4,095 records fill but for one, and one that 4,096 fill. -/
theorem test_Staging_room :
    let t (n : Nat) : Tx := { tTx with recs := List.replicate n (aTelMarkCfg 23, 0) }
    let h (n : Nat) : Hub := { (tAt [] [0]).hub with txs := { (tHub []).txs with open_ := [(0, t n)] } }
    (openTx (h 4095) 0 = some (t 4095) ∧ (touches (h 4095) (standing (h 4095) (tCmdTx [0]) [(aTelMarkCfg 22, 1)]) [(aTelMarkCfg 22, 1)]).within tTx.scope = true ∧
      (stageRecs (t 4095).recs [(aTelMarkCfg 22, 1)]).length ≤ 4096) ∧
    (openTx (h 4096) 0 = some (t 4096) ∧ (touches (h 4096) (standing (h 4096) (tCmdTx [0]) [(aTelMarkCfg 22, 1)]) [(aTelMarkCfg 22, 1)]).within tTx.scope = true ∧
      4096 < (stageRecs (t 4096).recs [(aTelMarkCfg 22, 1)]).length) := by decide +kernel
/-- TX.ABORT of handle 7: open, by its owner and by force; free; accepted. -/
theorem test_Aborted :
    let s (f : Nat) := tAt [] [tWord 0x12 7 f]
    (∀ f < 2, AtInstr (s f) 0 0x12 (tCmd [tWord 0x12 7 f]) (tIns (s f))) ∧ txTarget (tCmd []) 7 = some 7 ∧ txTarget (tCmdTx []) 0xF000 = some 0 ∧
      tTx.accepted = false ∧ tTx.owner = cmdPort (s 0).hub (tCmd []) ∧ tfind ([] : Tab Tx) 7 = none ∧ tfind [(7, { tTx with accepted := true })] 7 = some { tTx with accepted := true } := by
  decide
/-- An IMEM command whose last word lies in a lost line of the fallback copy of bank 3. -/
theorem test_BadOperands_bank :
    let h := { tHub [(aFltRet 2 0, 8), (aMemDpFallback, 2 ^ 31)] with mst := { (tHub []).mst with poison := tput [] (4 * 1024 - 1) true } }
    ({ tCmd [0] with imem := true }.imem && imemBad h 32766 2) = true ∧ imemBad h 32758 2 = false := by decide +kernel
/-- IND with a bit above [4:0]; a reserved TARGET; words past the end of the body; a long instruction in a tick program; and a thread that
stands elsewhere. -/
theorem test_BadOperands :
    (tIns (tAt [] [tWord 0x10 0 0x20 + 2 ^ 49, 0, 0])).bad = true ∧ (tIns (tAt [] [tWord 0x12 0xF001 0])).bad = true ∧
      (tIns (tAt [] [tWord 0x20 1 0])).bad = true ∧ turnerRow (.txBegin 0) = some (0, 0x10) ∧
      (longOp 0x02 = true ∧ ({ tCmd [] with tp := some 7 }).tp.isSome = true) ∧ (tIns (tAt [] [0])).op ≠ 0x10 := by decide

/-! ### Laws of the switch and of encodings (O51 to O57) -/

/-- A packet of dock 63 bound for trunk 7 in a group of trunks 0 and 7, of which 7 has capacity. -/
theorem test_FlowBuckets :
    let h := tHub [(aVdkCfg 63, 2 ^ 31 + 129), (aSwcGrpStatus 63, 129 * 2 ^ 16), (aTrkStatus 7, 7 + 2 ^ 8)]
    let p := { tPkt with egr := 7, dock := 63, src := 63, hdr := { tHdr with tid := 4095, flow := 65535 } }
    groupDock h p = some 63 ∧ tfind h.swc.fences 63 = none ∧ (members (mapMask h 63)).any (fun k => decide (capacity h k ≠ 0)) = true ∧
      (let b := flowBucket 4095 65535
       (bitsSet 8 (fld h (aSwcGrpStatus 63) 16 8))[fld h (aSwcGrpMap 63 (b / 16)) (2 * (b % 16)) 2]? = some 0) := by decide +kernel
/-- Four members, one of them without capacity: the leftover bucket of three equal fractions goes to the lowest trunk. -/
theorem test_BucketTargets :
    let h := tHub [(aTrkStatus 0, 7 + 2 ^ 8), (aTrkStatus 1, 0), (aTrkStatus 6, 7 + 2 ^ 8), (aTrkStatus 7, 7 + 2 ^ 8)]
    ((members 195).map (capacity h)).sum ≠ 0 ∧ targets h 195 = [(0, 86), (1, 0), (6, 85), (7, 85)] := by decide +kernel
/-- An older green packet of class 0 and a newer red one of class 1 make way for one of class 1. -/
theorem test_PushOut :
    let a := { tPkt with lossy := true, egr := 8, order := 1 }
    let b := { tPkt with lossy := true, egr := 8, order := 2, red := true, cls := 1, id := 1 }
    let h := tSwc { (tHub []).swc with queues := [(1, { Queue.empty with cask := [a, b] })] }
    let p := { tPkt with egr := 8, cls := 1 }
    { p with red := true }.red = true ∧ victims h p 1 = [a] ∧ victims h p (pktCells a + pktCells b) = [a, b] ∧ victims h p (pktCells a + pktCells b + 1) = [] ∧
      cellsOf (victimOrder p.cls (candidates h p.egr)) < pktCells a + pktCells b + 1 := by decide +kernel
/-- A packet from SP23 to SP22 is matched. -/
theorem test_SpindleMatching :
    let h := tSwc { (tHub []).swc with voq := [(voqKey 23 22 2, [tPkt])] }
    let req := spindleRequests h
    (23, 22) ∈ (spindleIter h req (spindleIter h req (spindleIter h req ⟨[], []⟩ true) false) false).pairs := by decide +kernel
/-- The longest packet, encrypted, of the last type. -/
theorem test_Packets : (∀ d g : List Byte, d.length = 512 → g.length = 16 → packetOk ⟨{ tHdr with type := 5, vc := 6, keyEn := true }, d, g⟩ = true) ∧
    (List.replicate 512 (0 : Byte)).length = 512 ∧ (List.replicate 16 (0 : Byte)).length = 16 ∧ vcOk 5 0 6 = true := by
  refine ⟨fun d g hd hg => ?_, List.length_replicate, List.length_replicate, rfl⟩
  unfold packetOk; rw [hd, hg]; rfl
theorem test_Tlps (b : Byte) : (List.replicate (4 * 1024) b).length = 4 * 1024 ∧ (List.replicate (4 * 1023) b).length = 4 * 1023 :=
  ⟨List.length_replicate, List.length_replicate⟩
theorem test_Sealed : ∃ tag : Nat, tag ≠ (gcmSeal 0 0 [] []).2 := ⟨(gcmSeal 0 0 [] []).2 + 1, by omega⟩

end Sys2Proof.Machine
end

section
/-!
PROOFS. Reads and writes of control space by ports, hosts, threads and the sideband (R18-R20, R93, R99, R117, R136, R520): what
each meaning comes down to once its checks pass, and the obligation RegisterAccess assembled from that.
-/
namespace Sys2Proof.Machine

/-! ### Going on with a hub that reads the cellar -/

/-- A running core goes on with the hub alone where a meaning reads the cellar and leaves it as it is. -/
theorem actMem_onHub_runs {s : State} (hr : s.hub.runs = true) (f : Mem → Hub → Hub) :
    s.actMem (fun m h => (m, f m h)) = .next (s.onHub (f s.mem)) := actMem_runs hr _

/-! ### Reads by ports and hosts (R20, R135, R247) -/

theorem lowWordRead_word {ag : Reader} {a t : Nat} {h : Hub} (hag : ∀ d, ag ≠ .host d) (ha : a % 4 = 0) (hlt : a < 2 ^ 24)
    (hsem : semTakeAt a = none) :
    lowWordRead ag a t h = send (readWord (atClk h t) ag a).1 (.data ag a (W (readWord (atClk h t) ag a).2)) := by
  have hchecks : ¬ (a % 4 ≠ 0 ∨ 2 ^ 24 ≤ a ∨ (semTakeAt a).isSome = true) := by simp [ha, hsem]; omega
  cases ag with
  | host d => exact absurd rfl (hag d)
  | port p => exact if_neg hchecks
  | thread n => exact if_neg hchecks

/-- A host's access goes through where its dock's gates are open, its PCIe end is open and its hub function is there and enabled. -/
theorem hubPage_reached {d : Nat} {h : Hub} (hgate : gatesClosed h d = false) (hend : (trunkEnd h d 1).isSome = true)
    (hfn : hfPresent h = true) (hmse : cfgCmd h d 1 1 = true) (f : Hub → Hub) : hubPage d f h = f h := by
  simp [hubPage, hostGate, hgate, hend, hfn, hmse]

/-! ### Direct writes by ports (R18, R99, R117) -/

theorem registerWrite_plain {p : Port} {a v t : Nat} {m : Mem} {h : Hub} (ha : a % 4 = 0) (hlt : a < 2 ^ 24)
    (hsh : shMask (atClk h t).part a = 0) :
    registerWrite p a v t m h = writeWord m (atClk h t) p (.port p) a v :=
  if_neg (by simp [ha, hsh]; omega)

section
variable {p : Port} {a v t : Nat} {h : Hub}

/-- A direct write of a shadowed register, with room in the commit queue, is judged by its one record. -/
theorem mmioShWrite_judged (ha : a % 4 = 0) (hsh : shMask (atClk h t).part a ≠ 0)
    (hroom : (atClk h t).txs.queue.length + (atClk h t).txs.delivering.toList.length < 64) :
    mmioShWrite p a v t h =
      if timRecordBad (atClk h t) (lay (atClk h t).part (projected (atClk h t)) [(a, W v)]) a v ||
          decide (overlaps (atClk h t) (recScope (atClk h t) (lay (atClk h t).part (projected (atClk h t)) [(a, W v)]) a) none ≠ 0)
      then mmioDiscard (atClk h t)
      else submit (atClk h t) .direct p [(a, W v)] none [] [] :=
  if_neg fun hfail => hfail.elim (· ha) (·.elim hsh (Nat.not_le.mpr hroom))

theorem mmioShWrite_submits (ha : a % 4 = 0) (hsh : shMask (atClk h t).part a ≠ 0)
    (hroom : (atClk h t).txs.queue.length + (atClk h t).txs.delivering.toList.length < 64)
    (htim : timRecordBad (atClk h t) (lay (atClk h t).part (projected (atClk h t)) [(a, W v)]) a v = false)
    (hfree : overlaps (atClk h t) (recScope (atClk h t) (lay (atClk h t).part (projected (atClk h t)) [(a, W v)]) a) none = 0) :
    mmioShWrite p a v t h = submit (atClk h t) .direct p [(a, W v)] none [] [] := by
  rw [mmioShWrite_judged ha hsh hroom]; simp [htim, hfree]

theorem mmioShWrite_discards (ha : a % 4 = 0) (hsh : shMask (atClk h t).part a ≠ 0)
    (hroom : (atClk h t).txs.queue.length + (atClk h t).txs.delivering.toList.length < 64)
    (hbad : timRecordBad (atClk h t) (lay (atClk h t).part (projected (atClk h t)) [(a, W v)]) a v = true ∨
      overlaps (atClk h t) (recScope (atClk h t) (lay (atClk h t).part (projected (atClk h t)) [(a, W v)]) a) none ≠ 0) :
    mmioShWrite p a v t h = mmioDiscard (atClk h t) := by
  rw [mmioShWrite_judged ha hsh hroom]
  exact if_pos (by simpa only [Bool.or_eq_true, decide_eq_true_eq] using hbad)

end

/-! ### Turner's reads and writes (R93) -/

section
variable {s : State} {th : Fin 4} {t : Nat} {c : Cmd} {w : IW}

theorem csrRd_word (at_ : AtInstr { s with hub := atClk s.hub t } th 0x08 c w) (heven : w.target % 2 = 0) (hlt : w.target < 4)
    (ha : w.operand % 4 = 0) :
    csrRd th t s.hub =
      let r := readFor (atClk s.hub t) (cmdPort (atClk s.hub t) c) (.thread th) w.operand
      settle r.1 c.id .ok (if bitOf w.target 1 then sext32 r.2 else r.2) := by
  have hword : bitOf w.target 0 = false := by simp [bitOf, heven]
  have hchecks : ¬ (4 ≤ w.target ∨ w.operand % 4 ≠ 0) := by omega
  rw [csrRd, onInstr_at at_]
  simp only [hword, Bool.false_eq_true, if_false, if_neg hchecks]

theorem csrRd_pair (at_ : AtInstr { s with hub := atClk s.hub t } th 0x08 c w) (hodd : w.target % 2 = 1) (hlt : w.target < 4)
    (ha : w.operand % 8 = 0) :
    csrRd th t s.hub =
      let r := readFor (atClk s.hub t) (cmdPort (atClk s.hub t) c) (.thread th) w.operand
      let r2 := readFor r.1 (cmdPort (atClk s.hub t) c) (.thread th) (w.operand + 4)
      settle r2.1 c.id .ok (r.2 + r2.2 * 2 ^ 32) := by
  have hwide : bitOf w.target 0 = true := by simp [bitOf, hodd]
  have hchecks : ¬ (4 ≤ w.target ∨ w.operand % 8 ≠ 0) := by omega
  rw [csrRd, onInstr_at at_]
  simp only [hwide, if_true, if_neg hchecks]

/-- Writes that the command may make: their SH records are staged, the others act (R80, R93, R99). -/
theorem csrWrites_allowed {m : Mem} {h : Hub} {es : List (Nat × Nat)} (hmay : mayWriteCsr m h th c es = true) (result : Nat) :
    csrWrites m h th c w es result = csrWritten m h th c w es result := by
  simp only [mayWriteCsr, Bool.and_eq_true, Bool.not_eq_true', Bool.or_eq_true, List.all_eq_true] at hmay
  obtain ⟨⟨hnames, htim⟩, hstage⟩ := hmay
  have haddr : es.any (fun e => !csrAddrOk h e.1) = false :=
    List.any_eq_false.mpr fun e he => by simp [(hnames e he).1]
  have hring : es.any (fun e => otherRing (cmdPort h c) e.1) = false :=
    List.any_eq_false.mpr fun e he => by simp [(hnames e he).2]
  simp only [csrWrites, csrWritten, haddr, hring, htim, Bool.false_eq_true, if_false]
  generalize ((es.filter (fun e => decide (shMask h.part e.1 ≠ 0))).map (fun e => (e.1, W e.2)) : Recs) = recs at hstage ⊢
  cases recs with
  | nil => rfl
  | cons r rs => exact stageOpen_ok (hstage.resolve_left (by simp))

theorem csrWr_allowed {m : Mem} {v : Nat} {es : List (Nat × Nat)} (at_ : AtInstr { s with hub := atClk s.hub t } th 0x09 c w)
    (htarget : onlyBits w.target 0x111F = true) (hv : v = if bitOf w.target 8 then greg c (bitsOf w.target 0 5) else w.x 0)
    (hword : bitOf w.target 8 = false → bitsOf w.target 0 5 = 0 ∧ (bitOf w.target 12 = false → v < 2 ^ 32))
    (ha : w.operand % (if bitOf w.target 12 then 8 else 4) = 0)
    (hes : es = if bitOf w.target 12 then [(w.operand, v % 2 ^ 32), (w.operand + 4, v / 2 ^ 32)] else [(w.operand, v % 2 ^ 32)])
    (hmay : mayWriteCsr m (atClk s.hub t) th c es = true) :
    csrWr th t m s.hub = csrWritten m (atClk s.hub t) th c w es 0 := by
  have hchecks : ¬ ((!onlyBits w.target 0x111F) = true ∨ ((!bitOf w.target 8) = true ∧ bitsOf w.target 0 5 ≠ 0) ∨
      w.operand % (if bitOf w.target 12 then 8 else 4) ≠ 0 ∨
      ((!bitOf w.target 8) = true ∧ (!bitOf w.target 12) = true ∧ 2 ^ 32 ≤ v)) := by
    simp only [htarget, ha, Bool.not_eq_true']
    rintro (h | ⟨h, h'⟩ | h | ⟨h, h', hbig⟩)
    · cases h
    · exact h' (hword h).1
    · exact h rfl
    · exact absurd ((hword h).2 h') (Nat.not_lt.mpr hbig)
  rw [csrWr, onInstr_at at_]
  simp only [← hv, ← hes]
  rw [if_neg hchecks, csrWrites_allowed hmay]

theorem csrRmw_allowed {m : Mem} {v : Nat} {r : Hub × Nat} (at_ : AtInstr { s with hub := atClk s.hub t } th 0x0A c w)
    (htarget : w.target = 0) (ha : w.operand % 4 = 0)
    (hr : r = if shMask (atClk s.hub t).part w.operand ≠ 0 then (atClk s.hub t, (stagedOr (atClk s.hub t) c w.operand).toNat)
      else readFor (atClk s.hub t) (cmdPort (atClk s.hub t) c) (.thread th) w.operand)
    (hv : v = (r.2 - (r.2 &&& (w.x 0 / 2 ^ 32))) ||| (w.x 0 % 2 ^ 32 &&& (w.x 0 / 2 ^ 32)))
    (haddr : csrAddrOk (atClk s.hub t) w.operand = true) (hring : otherRing (cmdPort (atClk s.hub t) c) w.operand = false)
    (hmay : mayWriteCsr m r.1 th c [(w.operand, v)] = true) :
    csrRmw th t m s.hub = csrWritten m r.1 th c w [(w.operand, v)] r.2 := by
  rw [csrRmw, onInstr_at at_]
  simp only [← hr, ← hv, htarget, ha, haddr, hring, ne_eq, not_true_eq_false, Bool.not_true, Bool.false_eq_true, or_self, if_false]
  exact csrWrites_allowed hmay r.2

end

/-! ### The sideband (R520) -/

/-- PWR_SB_CFG is a plain register of which ADDR and PEC_REQ can be written (R520). -/
theorem regRow_pwrSbCfg : regRow aPwrSbCfg = some (⟨aPwrSbCfg, [], 0, 0x17F, 0, 0, 0, 0x4E⟩, []) := by decide +kernel

/-- PWR_EVENT is a register of 14 bits that a write of 1 clears (R520). -/
theorem regRow_pwrEvent : regRow aPwrEvent = some (⟨aPwrEvent, [], 0, 0, 0x3FFF, 0, 0, 0⟩, []) := by decide +kernel

theorem writeFields_rw (base : Nat) (rw_ reset old v : Word) :
    writeFields ⟨base, [], 0, rw_, 0, 0, 0, reset⟩ old v = (old &&& ~~~rw_) ||| (v &&& rw_) := by
  simp only [writeFields, BitVec.ofNat_eq_ofNat, BitVec.zero_and, BitVec.or_zero, BitVec.not_zero, BitVec.and_allOnes]

theorem writeFields_w1c (base : Nat) (w1c reset old v : Word) :
    writeFields ⟨base, [], 0, 0, w1c, 0, 0, reset⟩ old v = old &&& ~~~(w1c &&& v) := by
  simp only [writeFields, BitVec.ofNat_eq_ofNat, BitVec.and_zero, BitVec.or_zero, BitVec.not_zero, BitVec.and_allOnes]

section
variable {v : Word} {pec : Pec} {h : Hub}

theorem rd_withPtr (h : Hub) (x : Word) (a : Nat) : rd { h with pwr := { h.pwr with ptr := x } } a = rd h a := rfl

theorem coreUp_withPtr (h : Hub) (x : Word) : coreUp { h with pwr := { h.pwr with ptr := x } } = coreUp h := rfl

theorem smbusWrite_pwrSbCfg (hpec : pecOk h pec = true) (hptr : h.pwr.ptr.toNat = aPwrSbCfg) :
    smbusWrite v pec h =
      wr { h with pwr := { h.pwr with ptr := h.pwr.ptr + 4 } } aPwrSbCfg ((rd h aPwrSbCfg &&& ~~~0x17F) ||| (v &&& 0x17F)) := by
  simp only [smbusWrite, hpec, hptr, regRow_pwrSbCfg, writeFields_rw, rd_withPtr, Bool.not_true, Bool.false_eq_true, true_or, if_true,
    if_false]

theorem smbusWrite_pwrEvent (hpec : pecOk h pec = true) (hptr : h.pwr.ptr.toNat = aPwrEvent) (hup : coreUp h = true) :
    smbusWrite v pec h =
      wr { h with pwr := { h.pwr with ptr := h.pwr.ptr + 4 } } aPwrEvent (rd h aPwrEvent &&& ~~~(0x3FFF &&& v)) := by
  simp only [smbusWrite, hpec, hptr, coreUp_withPtr, hup, regRow_pwrEvent, writeFields_w1c, rd_withPtr, Bool.not_true,
    Bool.false_eq_true, and_self, or_true, if_true, if_false]

theorem smbusWrite_elsewhere (hpec : pecOk h pec = true) (hsb : h.pwr.ptr.toNat ≠ aPwrSbCfg) (hev : h.pwr.ptr.toNat ≠ aPwrEvent) :
    smbusWrite v pec h = { h with pwr := { h.pwr with ptr := h.pwr.ptr + 4 } } := by
  simp only [smbusWrite, hpec, hsb, hev, Bool.not_true, Bool.false_eq_true, false_and, or_self, if_false]

theorem smbusRead_pecOk (hpec : pecOk h pec = true) :
    smbusRead pec h = send { h with pwr := { h.pwr with ptr := h.pwr.ptr + 4 } }
      (.smbus h.pwr.ptr.toNat (W (smbusValue h h.pwr.ptr.toNat))) := by
  simp only [smbusRead, hpec, Bool.not_true, Bool.false_eq_true, if_false]

end

/-! ### The obligation -/

/-- Settles O11: each command runs its meaning on a running core, or in the always-on domain, and the lemmas above say what that
meaning comes down to under the hypotheses of its clause. -/
theorem registerAccess : Obligations.RegisterAccess := by
  unfold Obligations.RegisterAccess
  refine ⟨fun s hrun => ⟨?lowWordReadReg, ?lowWordReadHost, ?registerWrite, ?mmioSubmit, ?mmioDiscard, ?sliceSel⟩,
    fun s th t c w => ⟨?rdWord, ?rdPair, ?wr, ?rmw⟩, fun s v pec hpec => ⟨?setPtr, ?writeSbCfg, ?writeEvent, ?writeElse, ?read⟩⟩
  case lowWordReadReg =>
    intro ag a t hag ha hlt hsem
    exact (act_runs hrun _).trans (next_ext (lowWordRead_word hag ha hlt hsem))
  case lowWordReadHost =>
    intro d a t hgate hend hfn hmse
    exact (act_runs hrun _).trans (next_ext (hubPage_reached hgate hend hfn hmse _))
  case registerWrite =>
    intro p a v t ha hlt hsh
    exact (actMem_onHub_runs hrun _).trans (next_ext (registerWrite_plain ha hlt hsh))
  case mmioSubmit =>
    intro p a v t ha hsh hroom htim hfree
    exact (act_runs hrun _).trans (next_ext (mmioShWrite_submits ha hsh hroom htim hfree))
  case mmioDiscard =>
    intro p a v t ha hsh hroom hbad
    exact (act_runs hrun _).trans (next_ext (mmioShWrite_discards ha hsh hroom hbad))
  case sliceSel => exact fun p v => act_runs hrun _
  case rdWord =>
    intro at_ hrun heven hlt ha
    exact (act_runs hrun _).trans (next_ext (csrRd_word at_ heven hlt ha))
  case rdPair =>
    intro at_ hrun hodd hlt ha
    exact (act_runs hrun _).trans (next_ext (csrRd_pair at_ hodd hlt ha))
  case wr =>
    intro x es at_ hrun htarget hx hword ha hes hmay
    exact (actMem_onHub_runs hrun _).trans (next_ext (csrWr_allowed at_ htarget hx hword ha hes hmay))
  case rmw =>
    intro x r at_ hrun htarget ha hr hx haddr hring hmay
    exact (actMem_onHub_runs hrun _).trans (next_ext (csrRmw_allowed at_ htarget ha hr hx haddr hring hmay))
  case setPtr => exact next_ext (if_pos hpec)
  case writeSbCfg => exact fun hptr => next_ext (smbusWrite_pwrSbCfg hpec hptr)
  case writeEvent => exact fun hptr hup => next_ext (smbusWrite_pwrEvent hpec hptr hup)
  case writeElse => exact fun hsb hev => next_ext (smbusWrite_elsewhere hpec hsb hev)
  case read => exact next_ext (smbusRead_pecOk hpec)

end Sys2Proof.Machine
end

section
/-!
PROOFS. Addresses that no chapter assigns (R34): no read, write, latch or staging finds anything there, and the obligation
UnassignedAddresses assembled from that.
-/
namespace Sys2Proof.Machine

/-! ### What an unassigned address is not -/

theorem unassigned_iff {a : Nat} : unassigned a = true ↔ inMemWindow a = false ∧ regRow a = none := by
  simp [unassigned]

/-- Each TRN_SEM_TAKEn is a register (R101). -/
theorem regRow_semTake (n : Fin 32) : (regRow (aTrnSemTake n.val)).isSome = true := by
  revert n; decide +kernel

theorem semTakeAt_unassigned {a : Nat} (ha : unassigned a = true) : semTakeAt a = none := by
  obtain ⟨-, hrow⟩ := unassigned_iff.mp ha
  refine if_neg fun ⟨hlo, hhi, halign⟩ => ?_
  have hlo' : 0x200400 ≤ a := hlo
  have hhi' : a < 0x200480 := hhi
  have hat : a = aTrnSemTake ((a - 0x200400) / 4) := by simp only [aTrnSemTake]; omega
  have hsem := regRow_semTake ⟨(a - 0x200400) / 4, by omega⟩
  rw [← hat, hrow] at hsem
  exact absurd hsem (by decide)

theorem shMask_unassigned (p : Part) {a : Nat} (ha : unassigned a = true) : shMask p a = 0 := by
  rw [shMask, (unassigned_iff.mp ha).2]

theorem csrAddrOk_unassigned (h : Hub) {a : Nat} (ha : unassigned a = true) : csrAddrOk h a = false := by
  obtain ⟨hwin, hrow⟩ := unassigned_iff.mp ha
  simp [csrAddrOk, hwin, hrow]

/-! ### Reads and writes there -/

/-- The value is 0 and no latch is loaded (R20, R34). -/
theorem readWord_unassigned (h : Hub) (ag : Reader) {a : Nat} (ha : unassigned a = true) : readWord h ag a = (h, 0) := if_pos ha

theorem readFor_unassigned (h : Hub) (p : Port) (ag : Reader) {a : Nat} (ha : unassigned a = true) : readFor h p ag a = (h, 0) := by
  rw [readFor, semTakeAt_unassigned ha]
  exact readWord_unassigned h ag ha

theorem writeWord_unassigned (m : Mem) (h : Hub) (p : Port) (ag : Reader) {a : Nat} (v : Nat) (ha : unassigned a = true) :
    writeWord m h p ag a v = h := by
  obtain ⟨hwin, hrow⟩ := unassigned_iff.mp ha
  simp [writeWord, hwin, hrow]

theorem mmioShWrite_notShadowed {p : Port} {a v t : Nat} {h : Hub} (hsh : shMask (atClk h t).part a = 0) :
    mmioShWrite p a v t h = atClk h t :=
  if_pos (.inr (.inl hsh))

/-- Writes that name an address which is neither a register nor in a window are refused before any of them acts (R34, R93). -/
theorem csrWrites_badAddr {m : Mem} {h : Hub} {th : Fin 4} {c : Cmd} {w : IW} {es : List (Nat × Nat)} {result : Nat}
    (hbad : es.any (fun e => !csrAddrOk h e.1) = true) : csrWrites m h th c w es result = settle h c.id .invalid 0 := if_pos hbad

section
variable {s : State} {th : Fin 4} {t : Nat} {c : Cmd} {w : IW}

theorem csrRd_unassigned (at_ : AtInstr { s with hub := atClk s.hub t } th 0x08 c w) (htarget : w.target = 0)
    (halign : w.operand % 4 = 0) (ha : unassigned w.operand = true) : csrRd th t s.hub = settle (atClk s.hub t) c.id .ok 0 := by
  rw [csrRd_word at_ (by omega) (by omega) halign]
  simp [readFor_unassigned _ _ _ ha, htarget, bitOf]

theorem csrWr_badAddr {m : Mem} (at_ : AtInstr { s with hub := atClk s.hub t } th 0x09 c w)
    (hbad : csrAddrOk (atClk s.hub t) w.operand = false) : csrWr th t m s.hub = settle (atClk s.hub t) c.id .invalid 0 := by
  rw [csrWr, onInstr_at at_]
  refine ite_eq_left_iff.mpr fun _ => csrWrites_badAddr ?_
  split <;> simp [hbad]

theorem csrRmw_badAddr {m : Mem} (at_ : AtInstr { s with hub := atClk s.hub t } th 0x0A c w)
    (hbad : csrAddrOk (atClk s.hub t) w.operand = false) : csrRmw th t m s.hub = settle (atClk s.hub t) c.id .invalid 0 := by
  rw [csrRmw, onInstr_at at_]
  exact if_pos (.inr (.inr (by rw [hbad]; rfl)))

end

/-! ### The obligation -/

/-- Settles O46: nothing in control space answers at such an address, so each access comes down to its case without a register. -/
theorem unassignedAddresses : Obligations.UnassignedAddresses := by
  unfold Obligations.UnassignedAddresses
  intro s a t hrun halign hlt ha
  have hsh : shMask (atClk s.hub t).part a.toNat = 0 := shMask_unassigned _ ha
  refine ⟨atClk_txs _ _, fun p => ?read, fun p v => ⟨?direct, ?shadowed⟩, fun th c w hop => ?turner⟩
  case read =>
    refine (act_runs hrun _).trans (next_ext ?_)
    rw [lowWordRead_word (by simp) halign hlt (semTakeAt_unassigned ha), readWord_unassigned _ _ ha]
    rfl
  case direct =>
    refine (actMem_onHub_runs hrun _).trans (next_ext ?_)
    exact (registerWrite_plain halign hlt hsh).trans (writeWord_unassigned _ _ _ _ _ ha)
  case shadowed => exact (act_runs hrun _).trans (next_ext (mmioShWrite_notShadowed hsh))
  case turner =>
    rw [← hop] at halign ha
    have hbad : csrAddrOk (atClk s.hub t) w.operand = false := csrAddrOk_unassigned _ ha
    refine ⟨fun at_ htarget => ?_, fun at_ => ?_, fun at_ => ?_⟩
    · exact (act_runs hrun _).trans (next_ext (csrRd_unassigned at_ htarget halign ha))
    · exact (actMem_onHub_runs hrun _).trans (next_ext (csrWr_badAddr at_ hbad))
    · exact (actMem_onHub_runs hrun _).trans (next_ext (csrRmw_badAddr at_ hbad))

end Sys2Proof.Machine
end

section
/-!
PROOFS. The tick edge, the step of hub time and the frame-start instants (R30, R39-R43, R53): what each meaning comes down to once
its checks pass, and the obligation TimeAdvancesAndSteps assembled from that.
-/
namespace Sys2Proof.Machine

/-! ### The tick edge (R30, R39, R43, R509, R517) -/

theorem execTickEdge_runs {s : State} (hrun : s.hub.runs = true) (clocks : Nat) (u : BitVec 5) (usb : List TtResult) :
    exec (.tickEdge clocks u usb) s = .next (s.onHub (tickEdge clocks u.toNat usb)) :=
  next_ext (if_pos hrun)

theorem execTickEdge_halted {s : State} (hrun : s.hub.runs = false) (clocks : Nat) (u : BitVec 5) (usb : List TtResult) :
    exec (.tickEdge clocks u usb) s = .next (s.onHub (tickAon clocks)) :=
  next_ext (if_neg (by simp [hrun]))

section
variable {h : Hub} {clocks : Nat}

theorem tickEdge_comes (hcomes : edgeComes h clocks = true) (unfinished : Nat) (usb : List TtResult) :
    tickEdge clocks unfinished usb h =
      let served := serveTick (patternTick (adaptAll (tallyAll (runTo h (h.tim.edgeClk + clocks)) 0x0002 1)))
      let late := lateLatches (overrun unfinished (edgeTime clocks served))
      ep1Packets (ep2Packets (usb.foldl ttServe (usbFrames late))) :=
  if_neg (by simp [hcomes])

theorem tickAon_passes (hmode : h.pwr.mode = .doze ∨ h.pwr.mode = .warm) : tickAon clocks h = edgeTime clocks h := by
  rcases hmode with hmode | hmode <;> simp only [tickAon, hmode]

theorem tickAon_dozeEntry (hmode : h.pwr.mode = .dozeEntry) :
    tickAon clocks h = { edgeTime clocks h with pwr := { h.pwr with mode := .doze } } := by
  simp only [tickAon, hmode]

end

/-! ### Steps of hub time (R41, R42) -/

section
variable {h : Hub}

theorem stepTargetOk_iff : stepTargetOk h = true ↔ rd64 h aTimStepLo % 125000 = 0 := decide_eq_true_iff

theorem armStep_arms (htarget : rd64 h aTimStepLo % 125000 = 0) (hidle : flag h aTimStepCmd 0 = false) :
    armStep h = { setFlag h aTimStepCmd 0 true with tim := { h.tim with stepArmed := some h.tim.coreClk } } := by
  rw [armStep, stepTargetOk_iff.mpr htarget, hidle]
  rfl

theorem armStep_armed (htarget : rd64 h aTimStepLo % 125000 = 0) (harmed : flag h aTimStepCmd 0 = true) : armStep h = h := by
  rw [armStep, stepTargetOk_iff.mpr htarget, harmed]
  rfl

theorem armStep_rejects (htarget : rd64 h aTimStepLo % 125000 ≠ 0) : armStep h = rejectStep h :=
  if_pos (by simp [stepTargetOk, htarget])

theorem stepDue_of_armed {c : Nat} (harmed : h.tim.stepArmed = some c) (hclk : c + 3200 ≤ h.tim.edgeClk)
    (hedge : h.tim.coreClk = h.tim.edgeClk) : stepDue h = true := by
  simp [stepDue, harmed, hclk, hedge]

theorem stepTime_rejects (hdue : stepDue h = true) (htarget : rd64 h aTimStepLo % 125000 ≠ 0) : stepTime h = rejectStep h :=
  (if_neg (by simp [hdue])).trans (if_pos (by simp [stepTargetOk, htarget]))

end

/-! ### The obligation -/

/-- Settles O8: each command runs its meaning on a running core, or in the always-on domain, and under the hypotheses of its clause
no check of that meaning stops it. -/
theorem timeAdvancesAndSteps : Obligations.TimeAdvancesAndSteps := by
  unfold Obligations.TimeAdvancesAndSteps
  refine ⟨fun s clocks u usb => ⟨?edgeRuns, ?edgePasses, ?edgeDozes⟩,
    fun s hrun => ⟨?arms, ?armed, ?armRejects, ?cancels, ?steps, ?stepRejects, ?frame⟩⟩
  case edgeRuns =>
    intro hrun hcomes
    exact (execTickEdge_runs hrun clocks u usb).trans (next_ext (tickEdge_comes hcomes u.toNat usb))
  case edgePasses =>
    intro hrun hmode
    exact (execTickEdge_halted hrun clocks u usb).trans (next_ext (tickAon_passes hmode))
  case edgeDozes =>
    intro hrun hmode
    exact (execTickEdge_halted hrun clocks u usb).trans (next_ext (tickAon_dozeEntry hmode))
  case arms =>
    intro p t htarget hidle
    exact (act_runs hrun _).trans (next_ext (armStep_arms htarget hidle))
  case armed =>
    intro p t htarget harmed
    exact (act_runs hrun _).trans (next_ext (armStep_armed htarget harmed))
  case armRejects =>
    intro p t htarget
    exact (act_runs hrun _).trans (next_ext (armStep_rejects htarget))
  case cancels => exact fun p => act_runs hrun _
  case steps =>
    intro c harmed hclk hedge htarget
    refine (act_runs hrun _).trans (next_ext ?_)
    have hdue : stepDue s.hub = true := stepDue_of_armed harmed hclk hedge
    exact (if_neg (by simp [hdue])).trans (if_neg (by simp [stepTargetOk, htarget]))
  case stepRejects =>
    intro c harmed hclk hedge htarget
    exact (act_runs hrun _).trans (next_ext (stepTime_rejects (stepDue_of_armed harmed hclk hedge) htarget))
  case frame =>
    intro n k hk hon hpresent hdue
    subst hk
    refine (act_runs hrun _).trans (next_ext ?_)
    exact if_neg (by rw [hon, hpresent, decide_eq_false (Int.not_le.mpr hdue)]; decide)

end Sys2Proof.Machine
end

section
/-!
PROOFS. Time ports, the discipline loop and audio feedback (R54-R57, R63): what each meaning comes down to once its checks pass, and
the obligation TimePortsAndDiscipline assembled from that.
-/
namespace Sys2Proof.Machine

/-! ### Time ports (R54, R55) -/

section
variable {n : Nat} {h : Hub}

/-- At an edge on a multiple of the period, with no step due and no pulse yet at this edge, one pulse goes out (R54); a port with
CODE_EN set keeps its hub time for the code frame. -/
theorem timePulse_sends {p : Nat} (hperiod : tpPeriod h n = some p) (hinput : tpIsInput h n = false) (hstep : stepDue h = false)
    (hns : hubNs h % p = 0) (hedge : h.tim.coreClk = h.tim.edgeClk) (hnew : tget 0 h.tim.lastPulse n < h.tim.edges) :
    timePulse n h =
      let us := fld h (aTimTpWidth n) 0 20
      let g := send h (.pulse n (hubNs h) (if p ≤ us * 1000 then p / 2 else us * 1000) (fld h (aTimTpAdvance n) 0 16))
      { g with tim := { g.tim with
          lastPulse := tset 0 h.tim.lastPulse n h.tim.edges
          pulseAt := if flag h (aTimTpCfg n) 3 then tput h.tim.pulseAt n (hubNs h) else h.tim.pulseAt } } := by
  simp only [timePulse, hperiod]
  exact if_neg (by simp [hinput, hstep, hns, hedge, hnew])

/-- The frame of a port that has become an input meanwhile is dropped (R56). -/
theorem sendCode_input {ns : Nat} (hpulse : tfind h.tim.pulseAt n = some ns) (hinput : tpIsInput h n = true) :
    sendCode n h = { h with tim := { h.tim with pulseAt := tdel h.tim.pulseAt n } } := by
  simp only [sendCode, hpulse]
  exact if_pos hinput

/-- The frame of the pulse before it, Manchester coded, with SEQ, which advances; STEPPED is spent (R55). -/
theorem sendCode_output {ns : Nat} (hpulse : tfind h.tim.pulseAt n = some ns) (hinput : tpIsInput h n = false) :
    sendCode n h =
      let seq := fld h (aTimTpSeq n) 0 16
      let g := send h (.code n (BitVec.ofNat 288 (manchester 144 (codeFrame (tget false h.tim.stepped n)
        (flag h aTimDiscStatus 0) (flag h aTimDiscStatus 1) ns seq (fld h aTimHubTag 0 16)).toNat)))
      let g := setFld g (aTimTpSeq n) 0 16 ((seq + 1) % 65536)
      { g with tim := { g.tim with pulseAt := tdel h.tim.pulseAt n, stepped := tset false h.tim.stepped n false } } := by
  simp only [sendCode, hpulse]
  exact if_neg (by simp [hinput])

end

/-! ### The discipline loop (R56, R57) -/

section
variable {h : Hub} (hmode : flag h aTimTime1Cfg 0 = true)
include hmode

/-- At the end of a window in input mode the next one begins; what else happens is open to the input and to HOLDOVER. -/
theorem disciplineWindow_ends (hfull : 2 ^ fld h aTimTime1Cfg 4 4 ≤ edgesSince h h.tim.windowStart) (offset : Int) (present : Bool) :
    disciplineWindow offset present h =
      let g := { h with tim := { h.tim with windowStart := h.tim.edges } }
      if !present then g else if flag g aTimDiscStatus 1 then setFlag g aTimDiscStatus 1 false else measure g offset :=
  if_neg (by simp [hmode, hfull])

theorem time1Holdover_input : time1Holdover h =
    raise { setFlag (setFlag h aTimDiscStatus 1 true) aTimDiscStatus 0 false with
      tim := { (setFlag (setFlag h aTimDiscStatus 1 true) aTimDiscStatus 0 false).tim with inRange := 0 } } 0x01 3 0 0 :=
  if_neg (by simp [hmode])

end

/-! ### Audio clock feedback (R63) -/

/-- At the end of a service interval of m microframes the accumulator gives its value and keeps the remainder. -/
theorem audioFeedback_closes {n : Nat} {h : Hub} (hon : flag h (aTimAudCfg n) 31 = true)
    (hfull : 2 ^ fld h (aTimAudCfg n) 24 2 ≤ edgesSince h (tget ⟨0, 0⟩ h.tim.aud n).from_) :
    audioFeedback n h =
      let m := 2 ^ fld h (aTimAudCfg n) 24 2
      let a := tget ⟨0, 0⟩ h.tim.aud n
      let acc := a.acc + fld h (aTimAudCfg n) 0 20 * (125000 * m) * 65536
      let g := wr h (aTimAudValue n) (W (acc / 1000000000))
      { g with tim := { g.tim with aud := tset ⟨0, 0⟩ h.tim.aud n ⟨acc % 1000000000, a.from_ + m⟩ } } :=
  if_neg (by simp [hon, hfull])

/-! ### The obligation -/

/-- Settles O9: each command runs its meaning on a running core, and under the hypotheses of its clause no check of that meaning
stops it. The window's three clauses are the three branches at its end. -/
theorem timePortsAndDiscipline : Obligations.TimePortsAndDiscipline := by
  unfold Obligations.TimePortsAndDiscipline
  refine fun s hrun => ⟨?pulse, ?frameDropped, ?frameSent, ?window, ?holdover, ?audio⟩
  case pulse =>
    intro n p hperiod hinput hstep hns hedge hnew
    exact (act_runs hrun _).trans (next_ext (timePulse_sends hperiod hinput hstep hns hedge hnew))
  case frameDropped =>
    intro n ns hpulse hinput
    exact (act_runs hrun _).trans (next_ext (sendCode_input hpulse hinput))
  case frameSent =>
    intro n ns hpulse hinput
    exact (act_runs hrun _).trans (next_ext (sendCode_output hpulse hinput))
  case window =>
    intro offset hmode hfull
    refine ⟨?absent, fun hhold => ?endsHoldover, fun hhold => ?measures⟩ <;> refine (act_runs hrun _).trans (next_ext ?_)
    case absent => exact disciplineWindow_ends hmode hfull offset false
    case endsHoldover => exact (disciplineWindow_ends hmode hfull offset true).trans (if_pos hhold)
    case measures => exact (disciplineWindow_ends hmode hfull offset true).trans (if_neg (ne_true_of_eq_false hhold))
  case holdover => exact fun hmode => (act_runs hrun _).trans (next_ext (time1Holdover_input hmode))
  case audio =>
    intro n hon hfull
    exact (act_runs hrun _).trans (next_ext (audioFeedback_closes hon hfull))

end Sys2Proof.Machine
end

section
/-!
PROOFS. The grandmaster's messages (R58-R60): what each meaning comes down to once its interval has ended or its port runs, and the
obligation GrandmasterMessages assembled from that.
-/
namespace Sys2Proof.Machine

/-! ### What a running port sends -/

/-- Sync and Follow_Up on one port, with its next sequence number (R58). -/
def syncPort (h : Hub) (e : Nat) : Hub :=
  if ptpOn h e then
    let q := (tget 0 h.tim.syncSeq e).toNat
    let g := sendPtp (sendPtp h e (.sync q)) e (.followUp q (ptpStamp h).1 (ptpStamp h).2.1 (ptpStamp h).2.2)
    { g with tim := { g.tim with syncSeq := tset 0 g.tim.syncSeq e (BitVec.ofNat 16 (q + 1)) } }
  else h

/-- Announce on one port, with its next sequence number (R59). -/
def announcePort (h : Hub) (e : Nat) : Hub :=
  if ptpOn h e then
    let q := (tget 0 h.tim.annSeq e).toNat
    let g := sendPtp h e (.announce q (fld h aTimPtpClock 0 8) (fld h aTimPtpClock 8 8) (fld h aTimPtpClock 16 8)
      (fld h aTimPtpClock 24 8) 0xA0 (flag h aTimPtpCfg 24) (fld h aTimPtpUtc 0 16))
    { g with tim := { g.tim with annSeq := tset 0 g.tim.annSeq e (BitVec.ofNat 16 (q + 1)) } }
  else h

section
variable {h : Hub} {t : Nat}

/-- At the end of an interval of SYNC_LOG every port has its turn, and the interval that hub time now begins is kept (R60). -/
theorem ptpSync_due {x : Int} (hdue : ptpDue (atClk h t) (fld (atClk h t) aTimPtpCfg 8 4) (atClk h t).tim.syncAt = some x) :
    ptpSync t h = (List.range 4).foldl syncPort { atClk h t with tim := { (atClk h t).tim with syncAt := some x } } := by
  simp only [ptpSync, hdue]
  rfl

/-- The same for ANNOUNCE_LOG. -/
theorem ptpAnnounce_due {x : Int} (hdue : ptpDue (atClk h t) (fld (atClk h t) aTimPtpCfg 12 4) (atClk h t).tim.annAt = some x) :
    ptpAnnounce t h = (List.range 4).foldl announcePort { atClk h t with tim := { (atClk h t).tim with annAt := some x } } := by
  simp only [ptpAnnounce, hdue]
  rfl

/-- A Delay_Req on a running port is answered with the time of its receipt (R58, R59). -/
theorem ptpDelayReq_answers {e : Nat} (hon : ptpOn (atClk h t) e = true) (q : BitVec 16) (r : BitVec 80) :
    ptpDelayReq e q r t h = sendPtp (atClk h t) e
      (.delayResp q.toNat (ptpStamp (atClk h t)).1 (ptpStamp (atClk h t)).2.1 (ptpStamp (atClk h t)).2.2 r) :=
  if_pos hon

end

/-! ### What an enabled port receives -/

section
variable {h : Hub} {e : Nat} (hpresent : e < h.part.res.eth) (henabled : flag h aTimPtpCfg e = true)
include hpresent henabled

theorem foreignAnnounce_raises {id : BitVec 64} (hother : id.toNat ≠ rd64 h aTimPtpIdLo) :
    foreignAnnounce e id h = raise h 0x01 5 0 0 :=
  if_pos (by simp [hpresent, henabled, hother])

theorem ptpDiscard_counts :
    ptpDiscard e h = { h with tim := { h.tim with ptpDiscards := tmod 0 h.tim.ptpDiscards e (· + 1) } } :=
  if_pos (by simp [hpresent, henabled])

end

/-! ### The obligation -/

/-- Settles O10: each command runs its meaning on a running core, and the lemmas above say what that meaning comes down to under
the hypotheses of its clause. -/
theorem grandmasterMessages : Obligations.GrandmasterMessages := by
  unfold Obligations.GrandmasterMessages
  refine fun s hrun => ⟨?sync, ?announce, ?delayReq, ?foreignAnnounce, ?discard⟩
  case sync => exact fun t x hdue => (act_runs hrun _).trans (next_ext (ptpSync_due hdue))
  case announce => exact fun t x hdue => (act_runs hrun _).trans (next_ext (ptpAnnounce_due hdue))
  case delayReq => exact fun e q r t hon => (act_runs hrun _).trans (next_ext (ptpDelayReq_answers hon q r))
  case foreignAnnounce =>
    intro e id hpresent henabled hother
    exact (act_runs hrun _).trans (next_ext (foreignAnnounce_raises hpresent henabled hother))
  case discard =>
    intro e hpresent henabled
    exact (act_runs hrun _).trans (next_ext (ptpDiscard_counts hpresent henabled))

end Sys2Proof.Machine
end

section
/-!
PROOFS. The state that power-on reset leaves (R39, R82, R103, R104, R446, R517): no register and no byte of the cellar is listed, so
each reads its reset value, and the obligation ResetState follows from those values.
-/
namespace Sys2Proof.Machine

/-! ### Registers and bytes at reset -/

@[simp] theorem rd_reset (a : Nat) : rd State.reset.hub a = resetVal resetPart a := rfl

@[simp] theorem cellarByte_reset (a : Nat) : cellarByte State.reset.mem a = 0 := rfl

theorem fld_reset (a lo n : Nat) : fld State.reset.hub a lo n = bitsOf (resetVal resetPart a).toNat lo n := by rw [fld, rd_reset]

/-- TRN_CTL comes out of reset with RUN set (R103). -/
theorem resetVal_trnCtl : bitOf (resetVal resetPart aTrnCtl).toNat 0 = true := by decide +kernel

/-- TAIL of every completion ring is 0 at reset, its PHASE 1 (R82). -/
theorem resetVal_trnCcTail (r : Fin 8) : resetVal resetPart (aTrnCcTail r.val) = 0x8000 := by
  revert r; decide +kernel

theorem resetVal_trnCcHead (r : Fin 8) : resetVal resetPart (aTrnCcHead r.val) = 0 := by
  revert r; decide +kernel

/-- Every trunk's state is DISABLED at reset (R164). -/
theorem trkState_reset (n : Fin 8) : trkState State.reset.hub n.val = 0 := by
  rw [trkState, fld_reset]
  revert n; decide +kernel

/-! ### Time, threads and transactions at reset -/

theorem hubFx_reset : hubFx State.reset.hub = 0 := by decide +kernel

theorem hubNs_reset : hubNs State.reset.hub = 0 := by simp [hubNs, hubFx_reset]

theorem threadCmd_reset (th : Fin 4) : threadCmd State.reset.hub th = none := rfl

theorem openTx_reset (n : Nat) : openTx State.reset.hub n = none := rfl

/-! ### The obligation -/

/-- Settles O39 clause by clause: what the state keeps outside the registers is read off `State.reset`, what it keeps in registers
follows from their reset values. -/
theorem resetState : Obligations.ResetState := by
  unfold Obligations.ResetState
  refine ⟨rfl, rfl, hubNs_reset, rfl, ?tick, rfl, ?runs, threadCmd_reset, fun n => openTx_reset n.val, fun r => ⟨?tail, ?phase, ?head⟩,
    trkState_reset, rd_reset, cellarByte_reset⟩
  case tick => rw [tickNo, hubNs_reset]
  case runs => rw [flag, rd_reset, resetVal_trnCtl]
  case tail => rw [fld_reset, resetVal_trnCcTail]; rfl
  case phase => rw [fld_reset, resetVal_trnCcTail]; rfl
  case head => rw [fld_reset, resetVal_trnCcHead]; rfl

end Sys2Proof.Machine
end

section
/-!
PROOFS. Which commands write the cellar (R68, R293, R332, R394, R446, R465): every command but the listed ones goes on with the hub
alone, and the obligation OnlyListedCommandsWriteTheCellar follows from that.
-/
namespace Sys2Proof.Machine

/-! ### Going on with the hub alone -/

/-- An answer that leaves the cellar and the queue as they are. -/
def HubAlone (s : State) (a : Ans) : Prop := ∃ f : Hub → Hub, a = .next (s.onHub f)

theorem hubAlone_act (s : State) (f : Hub → Hub) : HubAlone s (s.act f) := by
  cases hrun : s.hub.runs with
  | true => exact ⟨f, act_runs hrun f⟩
  | false => exact ⟨fun h => h, act_halted hrun f⟩

theorem hubAlone_actAon (s : State) (f : Hub → Hub) : HubAlone s (s.actAon f) := ⟨f, rfl⟩

/-- A meaning that reads the cellar and hands it back as it was. -/
theorem hubAlone_actMem (s : State) (f : Mem → Hub → Hub) : HubAlone s (s.actMem fun m h => (m, f m h)) := by
  cases hrun : s.hub.runs with
  | true => exact ⟨f s.mem, actMem_onHub_runs hrun f⟩
  | false => exact ⟨fun h => h, actMem_halted hrun _⟩

theorem mem_of_hubAlone {s t : State} {a : Ans} (ha : HubAlone s a) (hnext : a = .next t) : t.mem = s.mem := by
  obtain ⟨f, rfl⟩ := ha
  cases hnext
  rfl

/-! ### Every command that is not listed -/

/-- The listed commands apart, those of the always-on domain change the hub whether or not the core runs, five read the cellar for
what they do to the hub, and all others do not see it. -/
theorem exec_hubAlone {c : Instr} (s : State) (hlisted : mayWriteCellar c = false) : HubAlone s (exec c s) := by
  cases c with
  | switchOver | saveComplete _ _ | restoreTestEnd _ _ _ | vaultOpComplete _ | scanEnd _ | copyComplete _ _ _ | pwrStateDoze _
  | barrelWrite _ | relink | harvesterLatch _ _ | packetSelect _ | powerOnReset _ | brownOut _ | railRetry | offExit _ _
  | wakeTimer | smbusAddressMatch _ => cases hlisted
  | tickEdge _ _ _ | feedPresent _ _ | feedLost _ | feedOver _ | insertion _ _ | rampStart _ | trip _ _ | powerGood _ _
  | retryEnd _ | removal _ | fetShort _ | dozeWake _ _ _ | sentrySample _ | thermalShutdown _ | warmResetRelease | railFail _
  | setPtr _ _ | write _ _ | read _ => exact hubAlone_actAon s _
  | rackSave _ | imageChecked _ _ | registerWrite _ _ _ _ | csrWr _ _ | csrRmw _ _ => exact hubAlone_actMem s _
  | _ => exact hubAlone_act s _

/-! ### The obligation -/

/-- Settles O45: a command that is not listed goes on with the hub alone. -/
theorem onlyListedCommandsWriteTheCellar : Obligations.OnlyListedCommandsWriteTheCellar := by
  unfold Obligations.OnlyListedCommandsWriteTheCellar
  exact fun c s t hlisted hnext => mem_of_hubAlone (exec_hubAlone s hlisted) hnext

end Sys2Proof.Machine
end

section
/-!
PROOFS. Completion records (R81, R82): each field of a record reads as it was put together, TAIL and PHASE advance, nothing else is
written, and the obligation CompletionRecords assembled from that.
-/
namespace Sys2Proof.Machine

/-! ### The fields of a record -/

theorem statusCode_lt (st : Status) : st.code < 8 := by cases st <;> decide

/-- The fields of a record fill its 128 bits without overlap. -/
theorem ccRecord_toNat (tag : Byte) (st : Status) (phase vintage result : Nat) :
    (ccRecord tag st phase vintage result).toNat =
      tag.toNat + st.code * 2 ^ 8 + phase % 2 * 2 ^ 15 + vintage % 2 ^ 48 * 2 ^ 16 + result % 2 ^ 64 * 2 ^ 64 := by
  have htag : tag.toNat < 256 := tag.isLt
  have hcode := statusCode_lt st
  rw [ccRecord, BitVec.toNat_ofNat]
  exact Nat.mod_eq_of_lt (by omega)

theorem ccRecord_fields (tag : Byte) (st : Status) (phase vintage result : Nat) {x : Nat}
    (hx : x = (ccRecord tag st phase vintage result).toNat) :
    bitsOf x 0 8 = tag.toNat ∧ bitsOf x 8 3 = st.code ∧ bitsOf x 11 4 = 0 ∧ bitsOf x 15 1 = phase % 2 ∧
      bitsOf x 16 48 = vintage % 2 ^ 48 ∧ bitsOf x 64 64 = result % 2 ^ 64 := by
  have htag : tag.toNat < 256 := tag.isLt
  have hcode := statusCode_lt st
  rw [ccRecord_toNat] at hx
  simp only [bitsOf]
  refine ⟨?_, ?_, ?_, ?_, ?_, ?_⟩ <;> omega

/-! ### RESULT of a status other than OK -/

theorem badResult_fields (c : Cmd) {word detail : Nat} (hword : word < 2 ^ 15) (hdetail : detail < 2 ^ 32) :
    bitsOf (badResult c word detail) 49 15 = word ∧ bitOf (badResult c word detail) 48 = c.imem ∧
      bitsOf (badResult c word detail) 32 16 = 0 ∧ bitsOf (badResult c word detail) 0 32 = detail := by
  cases hsrc : c.imem with
  | false =>
    simp only [badResult, hsrc, Bool.false_eq_true, if_false, bitsOf, bitOf, decide_eq_false_iff_not]
    refine ⟨?_, ?_, ?_, ?_⟩ <;> omega
  | true =>
    simp only [badResult, hsrc, if_true, bitsOf, bitOf, decide_eq_true_iff]
    refine ⟨?_, ?_, ?_, ?_⟩ <;> omega

/-! ### TAIL and PHASE -/

theorem fld_lt (h : Hub) (a lo n : Nat) : fld h a lo n < 2 ^ n := Nat.mod_lt _ (Nat.two_pow_pos n)

theorem fld_writeRecord (h : Hub) (r : Nat) (tag : Byte) (irq : Bool) (st : Status) (v a lo n : Nat) :
    fld (writeRecord h r tag irq st v) a lo n = fld (ccAdvance h r) a lo n := by
  rw [fld, rd_writeRecord, fld]

theorem ccAdvance_tail (h : Hub) (r : Nat) :
    fld (ccAdvance h r) (aTrnCcTail r) 0 10 = (fld h (aTrnCcTail r) 0 10 + 1) % 1024 := by
  rw [ccAdvance, fld_setFld_apart _ _ _ _ _ _ _ (by omega) (by omega), fld_setFld_self _ _ _ _ _ (by omega)]
  exact Nat.mod_mod _ _

theorem ccAdvance_phase (h : Hub) (r : Nat) :
    fld (ccAdvance h r) (aTrnCcTail r) 15 1 =
      if fld h (aTrnCcTail r) 0 10 = 1023 then 1 - fld h (aTrnCcTail r) 15 1 else fld h (aTrnCcTail r) 15 1 := by
  have hphase := fld_lt h (aTrnCcTail r) 15 1
  rw [ccAdvance, fld_setFld_self _ _ _ _ _ (by omega)]
  exact Nat.mod_eq_of_lt (by split <;> omega)

theorem rd_ccAdvance_ne (h : Hub) (r : Nat) {a : Nat} (ha : a ≠ aTrnCcTail r) : rd (ccAdvance h r) a = rd h a := by
  rw [ccAdvance, rd_setFld_ne _ _ _ _ ha, rd_setFld_ne _ _ _ _ ha]

/-! ### The obligation -/

/-- Settles O49: `writeRecord_ccMem` names the one record that is written and `rd_writeRecord` the one register; their fields are read
off above. -/
theorem completionRecords : Obligations.CompletionRecords := by
  unfold Obligations.CompletionRecords
  refine ⟨fun h r tag irq st v => ?record, fun c word detail => badResult_fields c⟩
  case record =>
    have hphase := fld_lt h (aTrnCcTail r.val) 15 1
    simp only [writeRecord_ccMem, tget_tset_self, fld_writeRecord, rd_writeRecord]
    obtain ⟨htag, hst, hzeros, hph, hvintage, hresult⟩ := ccRecord_fields tag st (fld h (aTrnCcTail r.val) 15 1) h.txs.vintage.toNat v rfl
    exact ⟨htag, hst, hzeros, hph.trans (Nat.mod_eq_of_lt hphase), hvintage, hresult, ccAdvance_tail _ _, ccAdvance_phase _ _,
      fun k hk => tget_tset_ne _ _ _ _ hk, fun a ha => rd_ccAdvance_ne _ _ ha⟩

end Sys2Proof.Machine
end

section
/-!
PROOFS. Bad operand forms (R70-R72, R97, R430): what a thread does that stands at an instruction which may not run, said once for the
short and once for the long instructions, and the obligation BadOperandsAreInvalid assembled over Turner's table.
-/
namespace Sys2Proof.Machine

/-! ### A thread before an instruction, good or bad -/

/-- Thread `th` of a running core stands before its next instruction, with the operands `w`, whatever its opcode and form; `c` is the
command or run it executes. -/
structure Stands (s : State) (th : Fin 4) (c : Cmd) (w : IW) : Prop where
  runs : s.hub.runs = true
  cmd : threadCmd s.hub th = some c
  free : c.wait = none
  within : c.count < budget s.hub c
  started : c.started = true
  instr : fetchIW s.hub c c.pc = some w

/-- What a command with opcode `op` answers at an instruction that may not run (R70-R72, R97, R430). -/
def RefusesBad (s : State) (op : Nat) (c : Cmd) (w : IW) (a : Ans) : Prop :=
  (w.op = op → (c.imem && imemBad s.hub c.pc w.words) = true → a = .next (s.onHub fun h => settle h c.id .fault 0)) ∧
  (w.op = op → (c.imem && imemBad s.hub c.pc w.words) = false → (w.bad = true ∨ (longOp op = true ∧ c.tp.isSome = true)) →
    a = .next (s.onHub fun h => settle h c.id .invalid 0)) ∧
  (w.op ≠ op → a = .next s)

section
variable {s : State} {th : Fin 4} {op : Nat} {c : Cmd} {w : IW} (st : Stands s th c w)
include st

/-- The checks that every instruction shares, in their order. -/
theorem onInstr_stands (f : Hub → Cmd → IW → Hub) :
    onInstr s.hub th op f =
      if w.op ≠ op then s.hub
      else if (c.imem && imemBad s.hub c.pc w.words) = true then settle s.hub c.id .fault 0
      else if w.bad = true then settle s.hub c.id .invalid 0
      else f s.hub c w := by
  have hbudget : ¬ budget s.hub c ≤ c.count := Nat.not_le.mpr st.within
  simp only [onInstr, st.cmd, st.free, st.started, st.instr, decide_eq_false hbudget, Option.isSome_none, Bool.not_true, Bool.or_self,
    Bool.false_eq_true, if_false]

/-- An instruction refuses bad forms when its own meaning refuses what the shared checks let through. -/
theorem refusesBad_onInstr {f : Hub → Cmd → IW → Hub}
    (hlong : longOp op = true → c.tp.isSome = true → f s.hub c w = settle s.hub c.id .invalid 0) :
    RefusesBad s op c w (s.act fun h => onInstr h th op f) := by
  rw [act_runs st.runs]
  refine ⟨fun hop himem => next_ext ?fault, fun hop himem hbad => next_ext ?invalid, fun hop => ?other⟩
  case fault => rw [onInstr_stands st, if_neg (not_not_intro hop), if_pos himem]
  case invalid =>
    rw [onInstr_stands st, if_neg (not_not_intro hop), if_neg (ne_true_of_eq_false himem)]
    refine ite_eq_left_iff.mpr fun hform => ?_
    obtain ⟨hop', htp⟩ := hbad.resolve_left hform
    exact hlong hop' htp
  case other => exact next_ext (g := fun h => h) ((onInstr_stands st f).trans (if_pos hop))

theorem refusesBad_short (hshort : longOp op = false) (f : Hub → Cmd → IW → Hub) :
    RefusesBad s op c w (s.act fun h => onInstr h th op f) :=
  refusesBad_onInstr st fun hlong => absurd hlong (ne_true_of_eq_false hshort)

theorem refusesBad_long (f : Hub → Cmd → IW → Hub) : RefusesBad s op c w (s.act fun h => onLong h th op f) :=
  refusesBad_onInstr st fun _ htp => if_pos htp

/-! ### The two instructions that see the cellar -/

/-- A meaning that hands the cellar back as it was refuses what its effect on the hub refuses. -/
theorem refusesBad_actMem {g : Mem → Hub → Mem × Hub} {f : Hub → Cmd → IW → Hub}
    (hmem : g s.mem s.hub = (s.mem, onLong s.hub th op f)) : RefusesBad s op c w (s.actMem g) := by
  have hhub : s.actMem g = s.act fun h => onLong h th op f := by
    rw [actMem_runs st.runs, hmem, act_runs st.runs, State.onHub]
  exact hhub ▸ refusesBad_long st f

theorem refusesBad_rackSave : RefusesBad s 0x45 c w (exec (.rackSave th) s) := refusesBad_actMem st rfl

/-- The hub enters Doze only at an instruction of good form that may run (R506, R508). -/
theorem good_of_dozeAsked (hasked : dozeAsked s.hub th = true) :
    w.op = 0x72 ∧ w.bad = false ∧ (c.imem && imemBad s.hub c.pc w.words) = false ∧ c.tp.isSome = false := by
  simp only [dozeAsked, st.cmd, st.instr, Bool.and_eq_true, Bool.not_eq_true', decide_eq_true_eq] at hasked
  obtain ⟨⟨⟨⟨⟨⟨⟨⟨⟨-, htp⟩, -⟩, -⟩, hop⟩, hbad⟩, himem⟩, -⟩, -⟩, -⟩ := hasked
  exact ⟨hop, hbad, himem, by rw [Option.isNone_iff_eq_none.mp htp]; rfl⟩

theorem refusesBad_pwrStateDoze : RefusesBad s 0x72 c w (exec (.pwrStateDoze th) s) := by
  cases hasked : dozeAsked s.hub th with
  | true =>
    obtain ⟨hop, hbad, himem, htp⟩ := good_of_dozeAsked st hasked
    refine ⟨fun _ himem' => ?_, fun _ _ hform => ?_, fun hop' => absurd hop hop'⟩
    · exact absurd himem' (ne_true_of_eq_false himem)
    · exact absurd hform (by simp [hbad, htp])
  | false => exact refusesBad_actMem st (if_neg (ne_true_of_eq_false hasked))

/-! ### Turner's table -/

/-- Each row of the table is a short instruction, a long one, or one of the two that see the cellar. -/
theorem refusesBad_exec {i : Instr} (hrow : turnerRow i = some (th, op)) : RefusesBad s op c w (exec i s) := by
  cases i with
  | nop _ | signal _ | mov _ | alu _ | br _ | haltMode0 _ | haltMode1 _ | haltMode2 _ | txBegin _ | txCommit _ | txAbort _ | txStatus _
  | tunOpen _ | tunClose _ | tunRoute _ | bwAllot _ | shpSet _ | polSet _ | qMap _ | dspLayer _ | dspTiming _ | dspCheck _
  | usbAssign _ | epmCarve _ | vdkCreate _ | vdkResize _ | keyKill _ | keyBind _ | cntSelect _ | cntArm _ | markSet _ | laneLoop _
  | pwcOff _ | semTake _ | semGive _ =>
    cases hrow
    exact refusesBad_short st rfl _
  | waitTick _ | fence _ | tunMove _ | vdkDestroy _ | rackFreeze _ | rackRestore _ | rackThaw _ | keyGraft _ | keyLoad _ | keyWrap _
  | memCopy _ | memFill _ | laneRetire _ | laneScan _ | resRestore _ | pwcOn _ | pwrStateActive _ | pwrStateIdle _ | pwrStateOff _ =>
    cases hrow
    exact refusesBad_long st _
  | rackSave _ =>
    cases hrow
    exact refusesBad_rackSave st
  | pwrStateDoze _ =>
    cases hrow
    exact refusesBad_pwrStateDoze st
  | _ => cases hrow

end

/-! ### The obligation -/

/-- Settles O50: what `refusesBad_exec` says of each row of the table. -/
theorem badOperandsAreInvalid : Obligations.BadOperandsAreInvalid := by
  unfold Obligations.BadOperandsAreInvalid
  exact fun i s th op c w hruns hrow hcmd hfree hwithin hstarted hinstr =>
    refusesBad_exec ⟨hruns, hcmd, hfree, hwithin, hstarted, hinstr⟩ hrow

end Sys2Proof.Machine
end

section
/-!
PROOFS. Engine-local instructions, waits and fences (R78, R89-R92): what each meaning comes down to at its instruction or in its wait,
and the obligations EngineLocalInstructions and WaitsAndFences assembled from that.
-/
namespace Sys2Proof.Machine

/-! ### Going on at an instruction -/

section
variable {s : State} {th : Fin 4} {op : Nat} {c : Cmd} {w : IW} {f : Hub → Cmd → IW → Hub} {g : Hub → Hub}

theorem act_onInstr (at_ : AtInstr s th op c w) (heffect : f s.hub c w = g s.hub) :
    s.act (fun h => onInstr h th op f) = .next (s.onHub g) :=
  (act_runs at_.1 _).trans (next_ext ((onInstr_at at_ f).trans heffect))

theorem act_onLong (at_ : AtLong s th op c w) (heffect : f s.hub c w = g s.hub) :
    s.act (fun h => onLong h th op f) = .next (s.onHub g) :=
  (act_runs at_.1.1 _).trans (next_ext ((onLong_at at_ f).trans heffect))

end

/-! ### The obligation on engine-local instructions -/

/-- Settles O2: under the hypotheses of its clause an instruction passes the checks of its own meaning. -/
theorem engineLocalInstructions : Obligations.EngineLocalInstructions := by
  unfold Obligations.EngineLocalInstructions
  refine fun s th c w => ⟨?nop, ?mov, ?alu, ?brNot, ?brTaken, ?halt0, ?halt1, ?signalPort, ?signalDock⟩
  case nop =>
    intro at_ htarget hoperand
    exact act_onInstr at_ (by rw [if_pos ⟨htarget, hoperand⟩])
  case mov =>
    intro at_ htarget
    exact act_onInstr at_ (if_neg (by simp [htarget]))
  case alu =>
    intro at_ htarget
    exact act_onInstr at_ (if_neg (by simp [htarget]))
  case brNot =>
    intro at_ htarget hcond
    refine act_onInstr at_ ((if_neg (by simp [htarget])).trans ?_)
    simp only [hcond]
  case brTaken =>
    intro at_ htarget hcond t ht hlo hend hfirst
    refine act_onInstr at_ ((if_neg (by simp [htarget])).trans ?_)
    simp only [hcond, ← ht, Int.toNat_natCast, hfirst, Bool.not_true, Bool.false_eq_true, or_false]
    exact if_neg (by omega)
  case halt0 =>
    intro at_ htarget hoperand
    exact act_onInstr at_ (by simp [htarget, hoperand])
  case halt1 =>
    intro at_ htarget hoperand htp
    exact act_onInstr at_ (by simp [htarget, hoperand, htp])
  case signalPort =>
    intro at_ htarget hvector
    exact act_onInstr at_ ((if_pos htarget).trans (if_neg (Nat.not_le.mpr hvector)))
  case signalDock =>
    intro at_ hpresent hcreated hstate hdock
    have hthere : ¬ (s.hub.part.res.docks ≤ w.target ∨ (!dockCreated s.hub w.target) = true) := by simp [hpresent, hcreated]
    have hopen : ¬ (2 ≤ dockState s.hub w.target ∧ dockState s.hub w.target ≤ 5) := by omega
    exact act_onInstr at_ ((if_neg hdock).trans ((if_neg hthere).trans (if_neg hopen)))

/-! ### Commands in their waits -/

section
variable {h : Hub} {r : Nat} {tag : Byte} {c : Cmd} (hcmd : findTag h r tag = some c)
include hcmd

theorem waitTickEnd_passes {n from_ : Nat} (hwait : c.wait = some (.tick n from_)) (hedges : n ≤ edgesSince h from_)
    (hlimit : n ≤ waitLimit h) : waitTickEnd r tag h = settle h c.id .ok (tickNo h) := by
  simp only [waitTickEnd, hcmd, hwait]
  exact if_pos ⟨hedges, hlimit⟩

theorem waitTimeout_tick {n from_ : Nat} (hwait : c.wait = some (.tick n from_)) (hlate : waitLimit h + 1 ≤ edgesSince h from_)
    (hlimit : waitLimit h < n) : waitTimeout r tag h = finishBad h c .timeout c.pc 0 := by
  simp only [waitTimeout, hcmd, hwait]
  exact if_pos ⟨decide_eq_true hlate, hlimit⟩

section
variable {ring port applied : Bool} {seq upto from_ : Nat} (hwait : c.wait = some (.fence ring port applied seq upto from_))
include hwait

theorem fencePass_passes (hopen : fenceOpen h c ring port applied seq upto = true) (hlimit : edgesSince h from_ ≤ waitLimit h) :
    fencePass r tag h = settle h c.id .ok h.txs.vintage.toNat := by
  simp only [fencePass, hcmd, hwait]
  exact if_pos ⟨hopen, hlimit⟩

theorem waitTimeout_fence (hlate : waitLimit h + 1 ≤ edgesSince h from_) :
    waitTimeout r tag h = finishBad h c .timeout c.pc 0 := by
  simp only [waitTimeout, hcmd, hwait]
  exact if_pos (decide_eq_true hlate)

end

end

/-! ### The obligation on waits and fences -/

/-- Settles O3: WAIT.TICK and FENCE pass the checks of their meanings, and a command in its wait is found by its tag. -/
theorem waitsAndFences : Obligations.WaitsAndFences := by
  unfold Obligations.WaitsAndFences
  refine fun s th c w r tag => ⟨?waitTick, ?waitTickEnd, ?fenceNone, ?fenceWaits, ?fencePass, ?tickTimeout, ?fenceTimeout⟩
  case waitTick =>
    intro at_ htarget hpos hmax
    exact act_onLong at_ (if_neg (by omega))
  case waitTickEnd =>
    intro n from_ hruns hcmd hwait hedges hlimit
    exact (act_runs hruns _).trans (next_ext (waitTickEnd_passes hcmd hwait hedges hlimit))
  case fenceNone =>
    intro at_ htarget hnone
    exact act_onLong at_ ((if_neg (by omega)).trans (if_pos hnone))
  case fenceWaits =>
    intro at_ htarget hpos hmax
    exact act_onLong at_ ((if_neg (by omega)).trans (if_neg (Nat.ne_of_gt hpos)))
  case fencePass =>
    intro ring port applied seq upto from_ hruns hcmd hwait hopen hlimit
    exact (act_runs hruns _).trans (next_ext (fencePass_passes hcmd hwait hopen hlimit))
  case tickTimeout =>
    intro n from_ hruns hcmd hwait hlate hlimit
    exact (act_runs hruns _).trans (next_ext (waitTimeout_tick hcmd hwait hlate hlimit))
  case fenceTimeout =>
    intro ring port applied seq upto from_ hruns hcmd hwait hlate
    exact (act_runs hruns _).trans (next_ext (waitTimeout_fence hcmd hwait hlate))

end Sys2Proof.Machine
end

section
/-!
PROOFS. Rings, runs, semaphores and management links (R73-R78, R84, R85, R95-R103): what each meaning comes down to once its checks
pass, and the obligations CommandsStartAndStop, OtherPortsRingsStay and SemaphoresAndManagementLinks assembled from that.
-/
namespace Sys2Proof.Machine

/-! ### Fetching and starting (R75, R77) -/

theorem commandFetch_serves {h g : Hub} {r : Nat} (hg : g = (List.range 8).foldl checkHeader h)
    (hfirst : ((List.range 8).map (fun i => (g.trn.lastRing + 1 + i) % 8)).find? (fetchable g) = some r) :
    commandFetch h = if ringWordsBad g r then fetchFault g r else fetchFrom g r := by
  subst hg
  simp only [commandFetch, hfirst]

theorem commandStart_starts {h : Hub} {c : Cmd} {t : Fin 4} (hrun : flag h aTrnCtl 0 = true) (hcmd : startable h = some c)
    (hthread : freeThread h = some t) : commandStart h = startOn h c t := by
  simp only [commandStart, hrun, hcmd, hthread, Bool.not_true, Bool.false_eq_true, if_false]

/-! ### A port's own rings, and the other port's (R84, R85, R99) -/

section
variable {p : Port} {r : Nat} {h : Hub}

theorem crTailWrite_own (hown : ringPort r = p) (v : Nat) :
    crTailWrite p r v h = checkHeader (setFld h (aTrnCrTail r) 0 11 v) r := if_neg (not_not_intro hown)

theorem ccHeadWrite_own (hown : ringPort r = p) (v : Nat) :
    ccHeadWrite p r v h = drainHeld h.trn.cmds.length (setFld h (aTrnCcHead r) 0 10 v) r := if_neg (not_not_intro hown)

theorem ccReset_own (hown : ringPort r = p) (hidle : ringOutstanding h r = 0) :
    ccReset p r h = wr (wr h (aTrnCcTail r) (W 0x8000)) (aTrnCcHead r) 0 := if_neg (by simp [hown, hidle])

theorem crTailWrite_other (hother : ringPort r ≠ p) (v : Nat) : crTailWrite p r v h = h := if_pos hother

theorem ccHeadWrite_other (hother : ringPort r ≠ p) (v : Nat) : ccHeadWrite p r v h = h := if_pos hother

theorem ringReset_other (hother : ringPort r ≠ p) : ringReset p r h = h := if_pos hother

theorem ccReset_other (hother : ringPort r ≠ p) : ccReset p r h = h := if_pos (.inl hother)

end

theorem ringResetDone_clears {r : Nat} {h : Hub} (hreset : flag h (aTrnCrCtl r) 1 = true) (hidle : ringOutstanding h r = 0) :
    ringResetDone r h =
      setFlag (wr (wr (wr h (aTrnCrHead r) 0) (aTrnCrTail r) 0) (aTrnCrStatus r) 0) (aTrnCrCtl r) 1 false :=
  if_neg (by simp [hreset, hidle])

/-- A command that leaves the hub as it is leaves the whole state, whether or not the core runs. -/
theorem act_unchanged {s : State} {f : Hub → Hub} (hsame : f s.hub = s.hub) : s.act f = .next s := by
  cases hrun : s.hub.runs with
  | true => exact (act_runs hrun f).trans (next_ext (g := fun h => h) hsame)
  | false => exact act_halted hrun f

/-! ### Budgets and tick programs (R78, R96, R98) -/

section
variable {h : Hub} {th : Fin 4}

theorem instructionBudget_ends {c : Cmd} (hcmd : threadCmd h th = some c) (hfree : c.wait = none) (htp : c.tp = none)
    (hused : 65536 ≤ c.count) : instructionBudget th h = finishBad h c .timeout c.pc 0 := by
  have hbudget : budget h c ≤ c.count := by simpa only [budget, htp] using hused
  simp only [instructionBudget, hcmd]
  exact if_pos (by simp [hfree, htp, hbudget])

theorem tpBudget_ends {c : Cmd} {n : Fin 8} (hcmd : threadCmd h th = some c) (hfree : c.wait = none) (htp : c.tp = some n)
    (hused : fld h (aTrnTpStart n.val) 16 16 ≤ c.count) :
    tpBudget th h = finishBad (raise h 0x02 3 0 0) c .timeout c.pc 0 := by
  have hbudget : budget h c ≤ c.count := by simpa only [budget, htp] using hused
  simp only [tpBudget, hcmd]
  exact if_pos (by simp [hfree, htp, hbudget])

/-- On a thread that runs nothing the programs fall due at the start point, and the lowest pending one begins (R96, R98). -/
theorem tickProgramRun_begins {g : Hub} {n : Nat} (hrun : flag h aTrnCtl 0 = true) (hp0 : p0Busy h = false)
    (hfree : h.trn.cmds.any (fun c => decide (c.thread = some th)) = false)
    (hg : g = (let r := runTo h (startPoint h)
      if tget 0 r.trn.tpEdge th.val < r.tim.edges then
        (if startPoint r < tget 0 r.trn.leftAt th.val then tpPassed r th else tpStartPoint r th)
      else r))
    (hstill : g.trn.cmds.any (fun c => decide (c.thread = some th)) = false)
    (hfirst : (List.range 8).find? (fun n => bitOf g.trn.tpPending.toNat n && flag g (aTrnTpCfg n) 0 &&
      decide (fld g (aTrnTpCfg n) 1 2 = th.val)) = some n) :
    tickProgramRun th h = tpBegin g th n := by
  have hring : h.trn.cmds.any (fun c => decide (c.thread = some th) && c.tp.isNone) = false := by
    rw [List.any_eq_false] at hfree ⊢
    exact fun c hc hboth => hfree c hc (Bool.and_eq_true_iff.mp hboth).1
  dsimp only at hg
  simp only [tickProgramRun, hrun, hp0, hring, Bool.not_true, Bool.or_self, Bool.false_eq_true, if_false, Bool.not_eq_true',
    decide_eq_false_iff_not, ite_not, ← hg, hstill, hfirst]

end

/-! ### The obligations on rings and runs -/

/-- Settles O4: each command runs its meaning on a running core, and the lemmas above say what that meaning comes down to under the
hypotheses of its clause. -/
theorem commandsStartAndStop : Obligations.CommandsStartAndStop := by
  unfold Obligations.CommandsStartAndStop
  refine fun s hrun => ⟨?fetch, ?start, ?tail, ?head, ?instructions, ?tpBudget, ?ringReset, ?resetDone, ?ccReset, fun p => act_runs hrun _,
    fun p => act_runs hrun _, ?tickProgram⟩
  case fetch =>
    intro g r hg hfirst
    exact (act_runs hrun _).trans (next_ext (commandFetch_serves hg hfirst))
  case start =>
    intro c t hturner hcmd hthread
    exact (act_runs hrun _).trans (next_ext (commandStart_starts hturner hcmd hthread))
  case tail => exact fun p r v hown => (act_runs hrun _).trans (next_ext (crTailWrite_own hown _))
  case head => exact fun p r v hown => (act_runs hrun _).trans (next_ext (ccHeadWrite_own hown _))
  case instructions =>
    intro th c hcmd hfree htp hused
    exact (act_runs hrun _).trans (next_ext (instructionBudget_ends hcmd hfree htp hused))
  case tpBudget =>
    intro th c n hcmd hfree htp hused
    exact (act_runs hrun _).trans (next_ext (tpBudget_ends hcmd hfree htp hused))
  case ringReset => exact fun p r hown => (act_runs hrun _).trans (next_ext (if_neg (not_not_intro hown)))
  case resetDone =>
    intro r hreset hidle
    exact (act_runs hrun _).trans (next_ext (ringResetDone_clears hreset hidle))
  case ccReset =>
    intro p r hown hidle
    exact (act_runs hrun _).trans (next_ext (ccReset_own hown hidle))
  case tickProgram =>
    intro th g n hturner hp0 hfree hg hstill hfirst
    exact (act_runs hrun _).trans (next_ext (tickProgramRun_begins hturner hp0 hfree hg hstill hfirst))

/-- Settles O5: each of the four meanings asks first whose ring it is. -/
theorem otherPortsRingsStay : Obligations.OtherPortsRingsStay := by
  unfold Obligations.OtherPortsRingsStay
  exact fun s p r v hother => ⟨act_unchanged (crTailWrite_other hother _), act_unchanged (ccHeadWrite_other hother _),
    act_unchanged (ringReset_other hother), act_unchanged (ccReset_other hother)⟩

/-! ### Semaphores (R101) -/

section
variable {h : Hub} {p : Port} {n : Nat}

theorem semTake_free (hfree : tfind h.trn.sem n = none) :
    semTake h p n = ({ h with trn := { h.trn with sem := tput h.trn.sem n p } }, 1) := by
  simp only [semTake, hfree]

theorem semTake_owned {o : Port} (howned : tfind h.trn.sem n = some o) : semTake h p n = (h, if o = p then 1 else 0) := by
  simp only [semTake, howned]

theorem semGive_free (hfree : tfind h.trn.sem n = none) : semGive h p n = (h, true) := by
  simp only [semGive, hfree]

theorem semGive_owner (howned : tfind h.trn.sem n = some p) :
    semGive h p n = ({ h with trn := { h.trn with sem := tdel h.trn.sem n } }, true) := by
  simp only [semGive, howned, if_true]

theorem semGive_other {o : Port} (howned : tfind h.trn.sem n = some o) (hother : o ≠ p) : semGive h p n = (h, false) := by
  simp only [semGive, howned, if_neg hother]

end

theorem portOther_ne (p : Port) : portOther p ≠ p := by cases p <;> decide

/-! ### The obligation on semaphores and management links -/

/-- Settles O6: the semaphore's owner decides what a take and a give do, and each command runs its meaning on a running core. -/
theorem semaphoresAndManagementLinks : Obligations.SemaphoresAndManagementLinks := by
  unfold Obligations.SemaphoresAndManagementLinks
  refine fun s hrun => ⟨?takeFree, ?takeOwned, ?give, fun p mask => act_runs hrun _, ?giveFree, fun p => act_runs hrun _, ?linkUp,
    ?instrTake, ?instrGive, ?instrGiveFree, ?instrGiveOther⟩
  case takeFree =>
    intro p n hfree
    exact (act_runs hrun _).trans (next_ext (by rw [semTake_free hfree]; rfl))
  case takeOwned =>
    intro p o n howned
    refine (act_runs hrun _).trans (next_ext ?_)
    rw [semTake_owned howned]
    dsimp only
    split <;> rfl
  case give =>
    intro p o n howned
    refine (act_runs hrun _).trans (next_ext ?_)
    by_cases hown : o = p
    · subst hown
      rw [semGive_owner howned, if_pos rfl]
    · rw [semGive_other howned hown, if_neg hown]
  case giveFree => exact fun p n hfree => act_unchanged (congrArg Prod.fst (semGive_free hfree))
  case linkUp =>
    intro p rate g hg
    subst hg
    refine (act_runs hrun _).trans (next_ext ?_)
    cases p <;> simp only [mgmtLinkUp, setMgmt]
  case instrTake =>
    intro th c w at_ htarget hoperand
    exact act_onInstr at_ (if_neg (by omega))
  case instrGive =>
    intro th c w at_ htarget hoperand howned
    refine act_onInstr at_ ((if_neg (by omega)).trans ?_)
    rw [semGive_owner howned, if_pos rfl]
  case instrGiveFree =>
    intro th c w at_ htarget hoperand hfree
    refine act_onInstr at_ ((if_neg (by omega)).trans ?_)
    rw [semGive_free hfree, if_pos rfl]
  case instrGiveOther =>
    intro th c w at_ htarget hoperand howned
    refine act_onInstr at_ ((if_neg (by omega)).trans ?_)
    rw [semGive_other howned (portOther_ne _), if_neg Bool.false_ne_true]

end Sys2Proof.Machine
end

section
/-!
PROOFS. Transaction instructions and lifetimes (R94, R104-R109, R118): the obligation TransactionInstructions, clause by clause.
-/
namespace Sys2Proof.Machine

theorem dropCurrent_tp (c : Cmd) (n : Nat) : (dropCurrent c n).tp = c.tp := by unfold dropCurrent; split <;> rfl

/-! ### The obligation -/

/-- Settles O7: under the hypotheses of its clause an instruction passes the checks of its own meaning, and what is left is the
effect that the clause names. -/
theorem transactionInstructions : Obligations.TransactionInstructions := by
  unfold Obligations.TransactionInstructions
  refine fun s th c w => ⟨?begin_, ?commit, ?commitStale, ?abort, ?status, ?expiry⟩
  case begin_ =>
    intro sc n at_ hsc htarget hoperand hx1 hnonempty hpresent hhandle
    have hform : ¬ (w.target ≠ 0 ∨ 2 ^ 20 ≤ w.operand ∨ 2 ^ 33 ≤ w.x 1 ∨ sc.isEmpty = true ∨
        (!scopePresent s.hub.part.res sc) = true) := by
      simp only [hnonempty, hpresent, Bool.not_true, Bool.false_eq_true, or_false]
      omega
    refine ⟨fun hfree => act_onInstr at_ ?_, fun hmeets => act_onInstr at_ ?_⟩ <;> simp only [← hsc, if_neg hform, hhandle]
    · exact if_neg (not_not_intro hfree)
    · exact if_pos hmeets
  case commit =>
    intro n t at_ hoperand htarget hhandle hopen howner haccepted hcommitting
    have hform : ¬ (w.operand ≠ 0 ∨ (8 ≤ w.target ∧ w.target ≠ 0xF000)) := by omega
    have hstale : ¬ (w.target = 0xF000 ∧ c.stale = true) := by
      rintro ⟨hcur, hstale⟩
      rcases htarget with hlow | ⟨-, hfresh⟩
      · omega
      · simp [hstale] at hfresh
    refine ⟨fun hempty => act_onInstr at_ ?_, fun hrecs => act_onInstr at_ ?_⟩ <;>
      simp only [if_neg hform, if_neg hstale, hhandle, hopen, howner, haccepted, hcommitting, ne_eq, not_true_eq_false,
        Bool.false_eq_true, if_false]
    · simp only [if_pos hempty, dropCurrent_id, dropCurrent_tp, putCmd_txs]
    · simp only [if_neg hrecs, dropCurrent_id, putCmd_txs]
  case commitStale =>
    intro at_ hoperand htarget hstale
    exact act_onInstr at_ ((if_neg (by omega)).trans (if_pos ⟨htarget, hstale⟩))
  case abort =>
    intro n t at_ hoperand htarget hhandle hopen haccepted howner
    refine act_onInstr at_ ((if_neg (by omega)).trans ?_)
    simp only [hhandle, hopen, haccepted, Bool.false_eq_true, if_false]
    refine if_neg ?_
    rintro ⟨hnot, hforce⟩
    rcases howner with howner | hforced
    · exact hnot howner
    · omega
  case status =>
    intro at_ htarget hoperand
    exact act_onInstr at_ (if_neg (by omega))
  case expiry =>
    intro n t hrun hopen hlife hover
    refine (act_runs hrun _).trans (next_ext ?_)
    simp only [lifetimeExpiry, hopen]
    exact if_pos ⟨hlife, hover⟩

end Sys2Proof.Machine
end

section
/-!
PROOFS. Aborting, staging, acceptance, delivery and switch-over of transactions (R107, R115, R118-R132): what each meaning comes down
to once its checks pass, and the obligations AbortedTransactions, StagingKeepsRecordsDistinct and ConfigurationApplies assembled from
that.
-/
namespace Sys2Proof.Machine

/-! ### The obligation on aborted transactions (R107) -/

/-- Settles O48: the abort's effect is O7's, and neither it nor a completion touches another handle, the vintage or the digest. -/
theorem abortedTransactions : Obligations.AbortedTransactions := by
  unfold Obligations.AbortedTransactions
  intro s th c w n at_ hoperand htarget hhandle
  have hform : ¬ (2 ≤ w.operand ∨ (8 ≤ w.target ∧ w.target ≠ 0xF000)) := by omega
  refine ⟨?open_, ?free, ?accepted⟩
  case open_ =>
    intro t hopen haccepted hmay
    obtain ⟨-, -, -, habort, -, -⟩ := transactionInstructions s th c w
    obtain ⟨htable, hvintage, hdigest⟩ := abortTx_txs (putCmd s.hub (dropCurrent c n)) n
    refine ⟨_, habort n t at_ hoperand htarget hhandle hopen haccepted hmay, ?_⟩
    simp only [onHub_hub, settle_txs, htable, hvintage, hdigest, putCmd_txs]
    exact ⟨tfind_tdel_self _ _, fun m hm => tfind_tdel_ne _ hm, trivial, trivial⟩
  case free =>
    intro hfree
    refine ⟨_, rfl, act_onInstr at_ ((if_neg hform).trans ?_), settle_txs _ _ _ _⟩
    simp only [hhandle, hfree]
  case accepted =>
    intro t hopen haccepted
    refine ⟨_, rfl, act_onInstr at_ ((if_neg hform).trans ?_), settle_txs _ _ _ _⟩
    simp only [hhandle, hopen, haccepted, if_true]

/-! ### Staging a record (R115) -/

/-- A record of another address as it is, one of this address with the new value. -/
def restaged (a : Nat) (v : Word) (e : Nat × Word) : Nat × Word := if e.1 = a then (a, v) else e

theorem restaged_same {a : Nat} (v : Word) {e : Nat × Word} (haddr : e.1 = a) : restaged a v e = (a, v) := if_pos haddr

theorem restaged_other {a : Nat} (v : Word) {e : Nat × Word} (haddr : e.1 ≠ a) : restaged a v e = e := if_neg haddr

@[simp] theorem restaged_fst (a : Nat) (v : Word) (e : Nat × Word) : (restaged a v e).1 = e.1 := by
  by_cases haddr : e.1 = a
  · rw [restaged_same v haddr, haddr]
  · rw [restaged_other v haddr]

section
variable {r : Recs} {a : Nat} (v : Word)

theorem stageRec_of_mem (hmem : a ∈ r.map (·.1)) : stageRec r a v = r.map (restaged a v) :=
  if_pos (by simpa [List.any_eq_true] using hmem)

theorem stageRec_of_not_mem (hmem : a ∉ r.map (·.1)) : stageRec r a v = r ++ [(a, v)] :=
  if_neg (by simpa [List.any_eq_true] using hmem)

theorem stageRec_addrs_of_mem (hmem : a ∈ r.map (·.1)) : (stageRec r a v).map (·.1) = r.map (·.1) := by
  rw [stageRec_of_mem v hmem, List.map_map]
  exact List.map_congr_left fun e _ => restaged_fst a v e

theorem stageRec_addrs_nodup (hdistinct : (r.map (·.1)).Nodup) : ((stageRec r a v).map (·.1)).Nodup := by
  by_cases hmem : a ∈ r.map (·.1)
  · rwa [stageRec_addrs_of_mem v hmem]
  · rw [stageRec_of_not_mem v hmem, List.map_append]
    refine List.nodup_append.mpr ⟨hdistinct, List.pairwise_singleton _ a, fun b hb e he => ?_⟩
    have haddr : e = a := List.mem_singleton.mp he
    exact fun hsame => hmem (haddr ▸ hsame ▸ hb)

/-- Restaging moves no record, so each address finds the record that it found, as restaged. -/
theorem find?_map_restaged (b : Nat) :
    (r.map (restaged a v)).find? (fun e => decide (e.1 = b)) = (r.find? (fun e => decide (e.1 = b))).map (restaged a v) := by
  simp only [List.find?_map, Function.comp_def, restaged_fst]

theorem find?_addr_eq_none (hmem : a ∉ r.map (·.1)) : r.find? (fun e => decide (e.1 = a)) = none :=
  List.find?_eq_none.mpr fun e he haddr => hmem (List.mem_map.mpr ⟨e, he, of_decide_eq_true haddr⟩)

theorem addr_of_find? {b : Nat} {e : Nat × Word} (hfind : r.find? (fun e => decide (e.1 = b)) = some e) : e.1 = b := by
  simpa using List.find?_some hfind

theorem find?_stageRec_self : (stageRec r a v).find? (fun e => decide (e.1 = a)) = some (a, v) := by
  by_cases hmem : a ∈ r.map (·.1)
  · obtain ⟨e, hfind⟩ : ∃ e, r.find? (fun e => decide (e.1 = a)) = some e :=
      Option.isSome_iff_exists.mp (by simpa [List.find?_isSome] using hmem)
    rw [stageRec_of_mem v hmem, find?_map_restaged, hfind, Option.map_some, restaged_same v (addr_of_find? hfind)]
  · simp [stageRec_of_not_mem v hmem, List.find?_append, find?_addr_eq_none hmem]

theorem find?_stageRec_other {b : Nat} (hother : b ≠ a) :
    (stageRec r a v).find? (fun e => decide (e.1 = b)) = r.find? (fun e => decide (e.1 = b)) := by
  by_cases hmem : a ∈ r.map (·.1)
  · rw [stageRec_of_mem v hmem, find?_map_restaged]
    cases hfind : r.find? (fun e => decide (e.1 = b)) with
    | none => rfl
    | some e => rw [Option.map_some, restaged_other v (addr_of_find? hfind ▸ hother)]
  · simp [stageRec_of_not_mem v hmem, List.find?_append, hother.symm]

end

/-! ### The obligation on staging -/

section
variable {h : Hub} {c : Cmd} {n : Fin 8} {t : Tx} {recs : Recs} {extra : Scope} (hstale : c.stale = false) (hgone : c.gone = false)
  (hcur : c.curTx = some n) (hopen : openTx h n.val = some t) (howner : t.owner = cmdPort h c) (hcommitting : t.committing = false)
  (hwithin : ((touches h (standing h c recs) recs).union extra).within t.scope = true)
include hstale hgone hcur hopen howner hcommitting hwithin

theorem mayStage_current (hroom : (stageRecs t.recs recs).length ≤ 4096) : mayStage h c recs extra = true := by
  simp [mayStage, hstale, hgone, hcur, hopen, howner, hcommitting, hwithin, hroom]

theorem stageOpen_full (w : IW) (x : Nat) (opens binds : List Nat) (hfull : 4096 < (stageRecs t.recs recs).length) :
    stageOpen h c w recs extra x opens binds = settle h c.id .invalid 0x0402 := by
  simp [stageOpen, hstale, hgone, hcur, hopen, howner, hcommitting, hwithin, hfull]

end

@[simp] theorem openTx_settle (h : Hub) (id : Nat) (st : Status) (v n : Nat) : openTx (settle h id st v) n = openTx h n := by
  rw [openTx, settle_txs, openTx]

/-- Settles O47: a list of records is staged by restaging or by appending, and an S instruction asks for room before it stages. -/
theorem stagingKeepsRecordsDistinct : Obligations.StagingKeepsRecordsDistinct := by
  unfold Obligations.StagingKeepsRecordsDistinct
  refine ⟨fun r a v hdistinct => ⟨stageRec_addrs_nodup v hdistinct, stageRec_addrs_of_mem v, stageRec_of_not_mem v,
    find?_stageRec_self v, fun b hother => find?_stageRec_other v hother⟩, ?_⟩
  intro h c w recs extra x opens binds n t hstale hgone hcur hopen howner hcommitting hwithin
  refine ⟨fun hroom => ?_, fun hfull => ⟨?_, ?_⟩⟩
  · rw [stageOpen_ok (mayStage_current hstale hgone hcur hopen howner hcommitting hwithin hroom)]
    simp only [stagedBy, hcur, hopen]
  · exact stageOpen_full hstale hgone hcur hopen howner hcommitting hwithin w x opens binds hfull
  · rw [openTx_settle, hopen]

/-! ### Validation (R118, R119) -/

section
variable {h g : Hub} {x y : Sub} {rest : List Sub} {t : Nat} {bad : Option Nat}
  (hfirst : (atClk h t).txs.submitted = x :: rest) (hroom : queueUse (atClk h t) < 64)
  (hg : g = { atClk h t with txs := { (atClk h t).txs with submitted := rest } })
  (hy : y = { x with recs := subRecs (atClk h t) x })
include hfirst hroom hg hy

theorem validation_accepts (hvalid : judge g y (bad.toList ++ badRecs g y) = none) : validation t bad h = accept g y := by
  subst hg hy
  simp only [validation, hfirst, if_neg (Nat.not_le.mpr hroom), hvalid]

theorem validation_fails {st : Status} {detail : Nat} (hinvalid : judge g y (bad.toList ++ badRecs g y) = some (st, detail)) :
    validation t bad h = txFail g y st detail := by
  subst hg hy
  simp only [validation, hfirst, if_neg (Nat.not_le.mpr hroom), hinvalid]

end

/-! ### Delivery (R51, R122, R124) -/

section
variable {h : Hub} {x : Sub} {rest : List Sub} {bad : Option Nat}

theorem p0Busy_of_delivering (hdeliv : h.txs.delivering = some x) : p0Busy h = true := by
  simp [p0Busy, hdeliv]

theorem p0Busy_of_due (hqueue : h.txs.queue = x :: rest) (hphase : h.tim.phase = 0) (hhold : inHold h = false)
    (hkey : h.txs.rekeyFrom = none) (hold : x.accClk + 3200 ≤ h.tim.edgeClk) : p0Busy h = true := by
  simp [p0Busy, hqueue, hphase, hhold, hkey, hold]

theorem p0Ends_of_busy (hbusy : p0Busy h = true) : p0Ends h = h := if_pos hbusy

section
variable (hqueue : h.txs.queue = x :: rest) (hnone : h.txs.delivering = none) (hbusy : p0Busy h = true)
include hqueue hnone hbusy

theorem delivery_delivers (hgood : (bad.toList ++ badRecs h x).filter (fun n => decide (n < x.recs.length)) = []) :
    delivery bad h =
      { h with txs := { h.txs with delivering := some x, queue := rest, applyFrom := max h.tim.coreClk h.txs.applyNext } } := by
  simp only [delivery, hqueue, hnone, hbusy, hgood, Option.isSome_none, Bool.not_true, Bool.false_eq_true, or_self, if_false]

theorem delivery_unreadable {n : Nat} {ns : List Nat}
    (hbad : (bad.toList ++ badRecs h x).filter (fun n => decide (n < x.recs.length)) = n :: ns) :
    delivery bad h =
      rejudge rest (txFail { h with txs := { h.txs with queue := [] } } x .fault (2 ^ 31 + n * 2 ^ 16 + 4)) := by
  simp only [delivery, hqueue, hnone, hbusy, hbad, Option.isSome_none, Bool.not_true, Bool.false_eq_true, or_self, if_false]

end

end

/-! ### Switch-over and recomputation (R122, R131, R132) -/

theorem switchOver_applies {h b : Hub} {x : Sub} (hdeliv : h.txs.delivering = some x)
    (hb : b = (let g := runTo h (h.txs.applyFrom + 63 + busiestBlock x.recs)
      { g with txs := { g.txs with applyNext := g.tim.coreClk + 1 } })) (m : Mem) :
    switchOver m h =
      ((finishOp m (consequences b.regs x (applyRecs b x)) x).1,
        p0Ends (vintageEvents b.regs (sliceDocks (applyRecs b x) b.regs (applyRecs b x).regs (x.recs.map (·.1))) x.src
          (finishOp m (consequences b.regs x (applyRecs b x)) x).2)) := by
  subst hb
  simp only [switchOver, hdeliv]

theorem rekeyStart_idle {h : Hub} (hidle : h.txs.rekeyFrom = none) :
    rekeyStart h = lateLatches { h with txs := { h.txs with rekeyFrom := some h.tim.edges } } := if_neg (by simp [hidle])

/-! ### The obligation on the application of configurations -/

/-- Settles O12: each command runs its meaning on a running core, and the lemmas above say what that meaning comes down to under the
hypotheses of its clause. -/
theorem configurationApplies : Obligations.ConfigurationApplies := by
  unfold Obligations.ConfigurationApplies
  refine fun s hrun => ⟨?validation, ?delivery, ?switchOver, ?rekey, ?rekeyDone⟩
  case validation =>
    intro t bad x rest hfirst hroom g y
    refine ⟨fun hvalid => (act_runs hrun _).trans (next_ext (g := fun _ => accept g y) ?_),
      fun st detail hinvalid => (act_runs hrun _).trans (next_ext (g := fun _ => txFail g y st detail) ?_)⟩
    · exact validation_accepts hfirst hroom rfl rfl hvalid
    · exact validation_fails hfirst hroom rfl rfl hinvalid
  case delivery =>
    intro x rest bad hqueue hnone hphase hhold hkey hold
    have hbusy := p0Busy_of_due hqueue hphase hhold hkey hold
    refine ⟨fun hgood => (act_runs hrun _).trans (next_ext ?_), fun n ns hbad => (act_runs hrun _).trans (next_ext ?_)⟩
    · have hreadable : (bad.toList ++ badRecs s.hub x).filter (fun n => decide (n < x.recs.length)) = [] :=
        List.filter_eq_nil_iff.mpr fun n hn => by simpa using hgood n hn
      rw [delivery_delivers hqueue hnone hbusy hreadable]
      exact p0Ends_of_busy (p0Busy_of_delivering rfl)
    · rw [delivery_unreadable hqueue hnone hbusy hbad]
  case switchOver =>
    intro x b hdeliv hb
    refine (actMem_runs hrun _).trans ?_
    rw [switchOver_applies hdeliv hb]
  case rekey => exact fun _ hidle => (act_runs hrun _).trans (next_ext (rekeyStart_idle hidle))
  case rekeyDone =>
    intro hbusy
    exact (act_runs hrun _).trans (next_ext (if_neg (by simpa using hbusy)))

end Sys2Proof.Machine
end

section
/-!
PROOFS. Tunnel packets in units (R152-R156): each field of a header lies in its own bits, the bytes of a packet are read back from its
units, the receiver's parse takes them one by one, and the obligation PacketsSurviveTheirUnits assembled from that.
-/
namespace Sys2Proof.Machine

/-! ### The header in two units (R152) -/

theorem ite_bool_eq_toNat_mul (b : Bool) (k : Nat) : (if b then k else 0) = b.toNat * k := by cases b <;> simp

theorem bitOf_eq_bitsOf (v i : Nat) : bitOf v i = decide (bitsOf v i 1 = 1) := by simp only [bitOf, bitsOf, Nat.pow_one]

/-- The fields of R152, each by its place in the 128 bits. -/
theorem hdrValue_fields (x : Hdr) (len : Nat) {v : Nat} (hv : v = hdrValue x len) :
    v < 2 ^ 128 ∧ bitsOf v 124 4 = x.type.toNat ∧ bitsOf v 112 12 = x.tid.toNat ∧ bitsOf v 109 3 = x.vc.toNat ∧
      bitsOf v 108 1 = x.keyEn.toNat ∧ bitsOf v 98 10 = x.kslot.toNat ∧ bitsOf v 88 10 = len % 1024 ∧ bitsOf v 84 4 = x.kind.toNat ∧
      bitsOf v 72 12 = x.tag.toNat ∧ bitsOf v 56 16 = x.flow.toNat ∧ bitsOf v 46 10 = x.dev.toNat ∧ bitsOf v 45 1 = x.mark.toNat ∧
      bitsOf v 44 1 = x.red.toNat ∧ bitsOf v 40 4 = x.rsv.toNat ∧ bitsOf v 0 40 = x.pn.toNat := by
  have htype := x.type.isLt
  have htid := x.tid.isLt
  have hvc := x.vc.isLt
  have hkeyEn := x.keyEn.toNat_lt
  have hkslot := x.kslot.isLt
  have hkind := x.kind.isLt
  have htag := x.tag.isLt
  have hflow := x.flow.isLt
  have hdev := x.dev.isLt
  have hmark := x.mark.toNat_lt
  have hred := x.red.toNat_lt
  have hrsv := x.rsv.isLt
  have hpn := x.pn.isLt
  simp only [hdrValue, ite_bool_eq_toNat_mul] at hv
  simp only [bitsOf]
  refine ⟨?_, ?_, ?_, ?_, ?_, ?_, ?_, ?_, ?_, ?_, ?_, ?_, ?_, ?_, ?_⟩ <;> omega

/-- The first unit of a packet: the upper half of its header. -/
def upperUnit (p : TunPacket) : Word64 := BitVec.ofNat 64 (hdrValue p.hdr p.payload.length / 2 ^ 64)

/-- The second unit of a packet: the lower half of its header. -/
def lowerUnit (p : TunPacket) : Word64 := BitVec.ofNat 64 (hdrValue p.hdr p.payload.length)

theorem packetToUnits_eq (p : TunPacket) : packetToUnits p = upperUnit p :: lowerUnit p :: bytesUnits 70 (p.payload ++ p.gcmTag) := rfl

theorem upperUnit_toNat (p : TunPacket) : (upperUnit p).toNat = hdrValue p.hdr p.payload.length / 2 ^ 64 := by
  have hlt := (hdrValue_fields p.hdr p.payload.length rfl).1
  rw [upperUnit, BitVec.toNat_ofNat, Nat.mod_eq_of_lt (by omega)]

theorem halves_join (p : TunPacket) :
    (upperUnit p).toNat * 2 ^ 64 + (lowerUnit p).toNat = hdrValue p.hdr p.payload.length := by
  rw [upperUnit_toNat, lowerUnit, BitVec.toNat_ofNat, Nat.mul_comm, Nat.div_add_mod]

/-- What the receiver takes from the first unit alone. -/
theorem upperUnit_fields {p : TunPacket} (hlen : p.payload.length ≤ 512) :
    bitsOf (upperUnit p).toNat 60 4 = p.hdr.type.toNat ∧ bitsOf (upperUnit p).toNat 24 10 = p.payload.length ∧
      bitOf (upperUnit p).toNat 44 = p.hdr.keyEn := by
  obtain ⟨-, htype, -, -, hkey, -, hl, -⟩ := hdrValue_fields p.hdr p.payload.length rfl
  have hup : ∀ lo n, bitsOf (hdrValue p.hdr p.payload.length / 2 ^ 64) lo n = bitsOf (hdrValue p.hdr p.payload.length) (64 + lo) n :=
    fun lo n => by rw [bitsOf, bitsOf, Nat.div_div_eq_div_mul, ← Nat.pow_add]
  rw [upperUnit_toNat, bitOf_eq_bitsOf, hup, hup, hup, htype, hl, hkey]
  exact ⟨rfl, Nat.mod_eq_of_lt (by omega), by cases p.hdr.keyEn <;> rfl⟩

theorem parseHdr_units (p : TunPacket) : parseHdr (upperUnit p) (lowerUnit p) = p.hdr := by
  obtain ⟨-, htype, htid, hvc, hkeyEn, hkslot, -, hkind, htag, hflow, hdev, hmark, hred, hrsv, hpn⟩ :=
    hdrValue_fields p.hdr p.payload.length rfl
  have hbool : ∀ b : Bool, decide (b.toNat = 1) = b := by decide
  simp only [parseHdr, halves_join, bitOf_eq_bitsOf, htype, htid, hvc, hkeyEn, hkslot, hkind, htag, hflow, hdev, hmark, hred, hrsv, hpn,
    hbool, BitVec.ofNat_toNat, BitVec.setWidth_eq]

/-! ### Bytes in units (R153) -/

/-- Eight bytes as a unit's number, the first most significant. -/
theorem unitBytes_eight {b : List Byte} (hb : b.length = 8) (us : List Word64) :
    unitBytes (BitVec.ofNat 64 (b.foldl (fun (a : Nat) (x : Byte) => a * 256 + x.toNat) 0) :: us) = b ++ unitBytes us := by
  match b, hb with
  | [b0, b1, b2, b3, b4, b5, b6, b7], _ =>
    have h0 := b0.isLt
    have h1 := b1.isLt
    have h2 := b2.isLt
    have h3 := b3.isLt
    have h4 := b4.isLt
    have h5 := b5.isLt
    have h6 := b6.isLt
    have h7 := b7.isLt
    simp only [unitBytes, List.flatMap_cons, List.foldl_cons, List.foldl_nil, List.range, List.range.loop, List.map_cons, List.map_nil,
      BitVec.toNat_ofNat, bitsOf]
    congr 1
    simp only [List.cons.injEq, and_true, ← BitVec.toNat_inj, BitVec.toNat_ofNat]
    refine ⟨?_, ?_, ?_, ?_, ?_, ?_, ?_, ?_⟩ <;> omega

theorem bytesUnits_cons (n : Nat) (x : Byte) (xs : List Byte) :
    bytesUnits (n + 1) (x :: xs) =
      BitVec.ofNat 64 (((x :: xs).take 8 ++ List.replicate (8 - ((x :: xs).take 8).length) (0 : Byte)).foldl
        (fun (a : Nat) (x : Byte) => a * 256 + x.toNat) 0) :: bytesUnits n ((x :: xs).drop 8) := rfl

/-- Bytes are read back from their units, before the zero bytes of the last one. -/
theorem unitBytes_bytesUnits : ∀ (n : Nat) (bs : List Byte), bs.length ≤ 8 * n → ∃ zeros, unitBytes (bytesUnits n bs) = bs ++ zeros
  | 0, bs, h => ⟨[], by rw [List.length_eq_zero_iff.mp (Nat.le_zero.mp h)]; rfl⟩
  | n + 1, [], _ => ⟨[], rfl⟩
  | n + 1, x :: xs, h => by
    obtain ⟨zeros, ih⟩ := unitBytes_bytesUnits n ((x :: xs).drop 8) (by rw [List.length_drop]; omega)
    have hfill : ((x :: xs).take 8 ++ List.replicate (8 - ((x :: xs).take 8).length) (0 : Byte)).length = 8 := by
      rw [List.length_append, List.length_replicate, List.length_take]; omega
    rw [bytesUnits_cons, unitBytes_eight hfill, ih]
    by_cases hlong : 8 ≤ (x :: xs).length
    · have hnone : 8 - ((x :: xs).take 8).length = 0 := by rw [List.length_take]; omega
      exact ⟨zeros, by rw [hnone, List.replicate_zero, List.append_nil, ← List.append_assoc, List.take_append_drop]⟩
    · rw [List.take_of_length_le (by omega), List.drop_of_length_le (by omega), List.append_assoc]
      exact ⟨_, rfl⟩

theorem bytesUnits_length : ∀ (n : Nat) (bs : List Byte), bs.length ≤ 8 * n → (bytesUnits n bs).length = (bs.length + 7) / 8
  | 0, bs, h => by simp [bytesUnits, List.length_eq_zero_iff.mp (Nat.le_zero.mp h)]
  | n + 1, [], _ => rfl
  | n + 1, x :: xs, h => by
    rw [bytesUnits_cons, List.length_cons, bytesUnits_length n _ (by rw [List.length_drop]; omega), List.length_drop, List.length_cons]
    omega

/-! ### A packet in its units (R153) -/

theorem packetOk_iff (p : TunPacket) :
    packetOk p = true ↔ p.payload.length ≤ 512 ∧ p.gcmTag.length = if p.hdr.keyEn then 16 else 0 := by
  simp only [packetOk, Bool.and_eq_true, decide_eq_true_iff]

section
variable {p : TunPacket} (hok : packetOk p = true)
include hok

theorem body_length_le : (p.payload ++ p.gcmTag).length ≤ 8 * 70 := by
  obtain ⟨hlen, htag⟩ := (packetOk_iff p).mp hok
  rw [List.length_append, htag]
  split <;> omega

theorem packetToUnits_length : (packetToUnits p).length = packetUnits p.payload.length p.hdr.keyEn := by
  obtain ⟨-, htag⟩ := (packetOk_iff p).mp hok
  rw [packetToUnits_eq, List.length_cons, List.length_cons, bytesUnits_length _ _ (body_length_le hok), List.length_append, htag,
    packetUnits]
  omega

theorem packetToUnits_length_le : (packetToUnits p).length ≤ 68 := by
  obtain ⟨hlen, -⟩ := (packetOk_iff p).mp hok
  rw [packetToUnits_length hok, packetUnits]
  split <;> omega

theorem unitsPacket_packetToUnits : unitsPacket (packetToUnits p) = p := by
  obtain ⟨hlen, htag⟩ := (packetOk_iff p).mp hok
  obtain ⟨-, hfield, -⟩ := upperUnit_fields hlen
  obtain ⟨zeros, hbytes⟩ := unitBytes_bytesUnits 70 _ (body_length_le hok)
  have htaken : (if p.hdr.keyEn then (p.gcmTag ++ zeros).take 16 else []) = p.gcmTag := by
    cases hkey : p.hdr.keyEn with
    | false =>
      rw [hkey] at htag
      exact (List.length_eq_zero_iff.mp htag).symm
    | true =>
      rw [hkey] at htag
      exact List.take_left' htag
  simp only [unitsPacket, packetToUnits_eq, List.head?_cons, List.drop_succ_cons, List.drop_zero, Option.getD_some, parseHdr_units,
    hfield, hbytes, List.append_assoc, List.take_left, List.drop_left, htaken]

/-! ### The receiver's parse (R154, R155) -/

/-- A part of a packet's units with its header whole misses the units that follow. -/
theorem unitsMissing_part {done todo : List Word64} (hparts : done ++ todo = packetToUnits p) (hhdr : 2 ≤ done.length) :
    unitsMissing done = todo.length := by
  obtain ⟨hlen, -⟩ := (packetOk_iff p).mp hok
  obtain ⟨-, hfield, hkey⟩ := upperUnit_fields hlen
  have htotal := packetToUnits_length hok
  rw [← hparts, List.length_append] at htotal
  match done, hhdr with
  | u0 :: u1 :: us, _ =>
    have hu0 : u0 = upperUnit p := by injection hparts
    rw [unitsMissing, hu0, hfield, hkey, ← htotal, ← hu0]
    exact Nat.add_sub_cancel_left _ _

/-- From within a packet's units the parse takes those to come, yields the packet and goes on at a boundary. -/
theorem parseBody_packet (htype : p.hdr.type.toNat < 6) (hvc : vcOk p.hdr.type.toNat p.hdr.kind.toNat p.hdr.vc.toNat = true)
    (fuel : Nat) (rest : List Word64) : ∀ (todo done : List Word64), done ++ todo = packetToUnits p → todo ≠ [] →
    parseBody (fuel + todo.length) (todo ++ rest) done p.hdr.vc.toNat =
      { parseBody fuel rest [] p.hdr.vc.toNat with packets := p :: (parseBody fuel rest [] p.hdr.vc.toNat).packets }
  | u :: todo, done, hparts, _ => by
    obtain ⟨hlen, -⟩ := (packetOk_iff p).mp hok
    obtain ⟨htypeField, hlenField, -⟩ := upperUnit_fields hlen
    have hdone : done ++ [u] ++ todo = packetToUnits p := by rw [List.append_assoc]; exact hparts
    have hfirst : (done ++ [u]).head? = some (upperUnit p) := by
      cases done with
      | nil => exact congrArg List.head? hparts
      | cons d ds => exact congrArg List.head? hparts
    have hnoPad : ¬ (done = [] ∧ bitsOf u.toNat 60 4 = 15) := by
      rintro ⟨rfl, hpad⟩
      have hu : u = upperUnit p := by simpa using hfirst
      rw [hu, htypeField] at hpad
      omega
    have hshort : ¬ 512 < bitsOf (upperUnit p).toNat 24 10 := by omega
    rw [List.length_cons, ← Nat.add_assoc, List.cons_append, parseBody, if_neg hnoPad]
    simp only [hfirst, Option.getD_some, gt_iff_lt, if_neg hshort]
    cases todo with
    | nil =>
      rw [List.append_nil] at hdone
      have hwhole : ¬ ((done ++ [u]).length < 2 ∨ unitsMissing (done ++ [u]) ≠ 0) := by
        have hhdr : 2 ≤ (done ++ [u]).length := by rw [hdone, packetToUnits_eq]; simp
        rw [unitsMissing_part hok ((List.append_nil _).trans hdone) hhdr]
        exact fun hmiss => hmiss.elim (Nat.not_lt.mpr hhdr) (· rfl)
      rw [if_neg hwhole, hdone, unitsPacket_packetToUnits hok]
      simp [htype, hvc]
    | cons w todo =>
      have hpartly : (done ++ [u]).length < 2 ∨ unitsMissing (done ++ [u]) ≠ 0 := by
        by_cases hhdr : (done ++ [u]).length < 2
        · exact .inl hhdr
        · exact .inr (by rw [unitsMissing_part hok hdone (by omega)]; simp)
      rw [if_pos hpartly]
      exact parseBody_packet htype hvc fuel rest (w :: todo) (done ++ [u]) hdone (List.cons_ne_nil _ _)

end

/-! ### The obligation -/

/-- Settles O55: the parse of `parseBody_packet`, begun at the first unit with none taken yet. -/
theorem packetsSurviveTheirUnits : Obligations.PacketsSurviveTheirUnits := by
  unfold Obligations.PacketsSurviveTheirUnits
  exact fun p hok => ⟨unitsPacket_packetToUnits hok, packetToUnits_length hok, packetToUnits_length_le hok,
    fun fuel rest htype hvc => parseBody_packet hok htype hvc fuel rest _ [] rfl (List.cons_ne_nil _ _)⟩

end Sys2Proof.Machine
end

section
/-!
PROOFS. Sealed text (R179): counter mode keeps the length of a text and is its own inverse, and the obligation SealedTextOpens
assembled from that.
-/
namespace Sys2Proof.Machine

/-! ### Counter mode (R179) -/

theorem beBytes_length (n v : Nat) : (beBytes n v).length = n := by rw [beBytes, List.length_map, List.length_range]

/-- One block of text under its key stream. -/
def ctrBlock (key nonce i : Nat) (bs : List Nat) : List Nat :=
  List.zipWith (fun a b => a ^^^ b) bs (beBytes 16 (aesEnc key (nonce * 2 ^ 32 + i % 2 ^ 32)))

theorem gcmCtr_nil (n key nonce i : Nat) : gcmCtr n key nonce i [] = [] := by cases n <;> rfl

theorem gcmCtr_succ (n key nonce i : Nat) (bs : List Nat) :
    gcmCtr (n + 1) key nonce i bs = ctrBlock key nonce i (bs.take 16) ++ gcmCtr n key nonce (i + 1) (bs.drop 16) := by
  cases bs with
  | nil => rw [List.drop_nil, gcmCtr_nil, gcmCtr_nil]; rfl
  | cons b bs => rfl

theorem ctrBlock_length {key nonce i : Nat} {bs : List Nat} (hlen : bs.length ≤ 16) : (ctrBlock key nonce i bs).length = bs.length := by
  rw [ctrBlock, List.length_zipWith, beBytes_length, Nat.min_eq_left hlen]

/-- A second pass of the same key stream takes the first one off. -/
theorem ctrBlock_twice {key nonce i : Nat} {bs : List Nat} (hlen : bs.length ≤ 16) :
    ctrBlock key nonce i (ctrBlock key nonce i bs) = bs := by
  have hout := ctrBlock_length (key := key) (nonce := nonce) (i := i) hlen
  refine List.ext_getElem ((ctrBlock_length (Nat.le_trans (Nat.le_of_eq hout) hlen)).trans hout) fun j _ _ => ?_
  simp only [ctrBlock, List.getElem_zipWith, Nat.xor_assoc, Nat.xor_self, Nat.xor_zero]

theorem take_append_block {z rest bs : List Nat} (hz : z.length = (bs.take 16).length) (hrest : bs.length ≤ 16 → rest = []) :
    (z ++ rest).take 16 = z ∧ (z ++ rest).drop 16 = rest := by
  rw [List.length_take] at hz
  by_cases hshort : bs.length ≤ 16
  · rw [hrest hshort, List.append_nil]
    exact ⟨List.take_of_length_le (by omega), List.drop_of_length_le (by omega)⟩
  · exact ⟨List.take_left' (by omega), List.drop_left' (by omega)⟩

theorem gcmCtr_length (key nonce : Nat) : ∀ (n i : Nat) (bs : List Nat), bs.length ≤ n → (gcmCtr n key nonce i bs).length = bs.length
  | 0, i, bs, h => by rw [List.length_eq_zero_iff.mp (Nat.le_zero.mp h)]; rfl
  | n + 1, i, [], _ => rfl
  | n + 1, i, b :: bs, h => by
    have hrest : ((b :: bs).drop 16).length ≤ n := by rw [List.length_drop]; simp only [List.length_cons] at h ⊢; omega
    rw [gcmCtr_succ, List.length_append, ctrBlock_length (List.length_take_le _ _), gcmCtr_length key nonce n _ _ hrest,
      ← List.length_append, List.take_append_drop]

/-- Counter mode is its own inverse. -/
theorem gcmCtr_twice (key nonce : Nat) : ∀ (n i : Nat) (bs : List Nat), bs.length ≤ n →
    gcmCtr n key nonce i (gcmCtr n key nonce i bs) = bs
  | 0, i, bs, h => by rw [List.length_eq_zero_iff.mp (Nat.le_zero.mp h)]; rfl
  | n + 1, i, [], _ => rfl
  | n + 1, i, b :: bs, h => by
    have hrest : ((b :: bs).drop 16).length ≤ n := by rw [List.length_drop]; simp only [List.length_cons] at h ⊢; omega
    have hblock : ((b :: bs).take 16).length ≤ 16 := List.length_take_le _ _
    obtain ⟨htake, hdrop⟩ := take_append_block (ctrBlock_length (key := key) (nonce := nonce) (i := i) hblock)
      (rest := gcmCtr n key nonce (i + 1) ((b :: bs).drop 16)) fun hshort => by
        rw [List.drop_of_length_le hshort, gcmCtr_nil]
    rw [gcmCtr_succ n key nonce i (b :: bs), gcmCtr_succ, htake, hdrop, ctrBlock_twice hblock, gcmCtr_twice key nonce n _ _ hrest,
      List.take_append_drop]

/-! ### The obligation -/

/-- Settles O57: what was sealed opens since counter mode is its own inverse, and the tag is the one that sealing computed. -/
theorem sealedTextOpens : Obligations.SealedTextOpens := by
  unfold Obligations.SealedTextOpens
  intro key nonce aad plain
  have hlen : (gcmSeal key nonce aad plain).1.length = plain.length := gcmCtr_length key nonce _ _ _ (Nat.le_succ _)
  refine ⟨?_, hlen, fun tag htag => if_neg htag.symm⟩
  rw [gcmOpen, hlen]
  exact (if_pos rfl).trans (congrArg some (gcmCtr_twice key nonce _ _ _ (Nat.le_succ _)))

end Sys2Proof.Machine
end

section
/-!
PROOFS. Training of a trunk (R145-R148, R163-R167): what each training event's meaning comes down to in the state of the link that
awaits it, and the obligation TrunkTraining assembled from that.
-/
namespace Sys2Proof.Machine

/-! ### Going on with an effect -/

/-- A running core goes on with whatever its command's meaning comes down to. -/
theorem act_effect {s : State} (hrun : s.hub.runs = true) {f g : Hub → Hub} (heffect : f s.hub = g s.hub) : s.act f = .next (s.onHub g) :=
  (act_runs hrun f).trans (next_ext heffect)

/-! ### Equalisation (R165, R187, R188) -/

section
variable {n : Nat} {u0 : Word64} {h : Hub}

/-- EQ_REQ counts in EQUALISE and in ACTIVE. -/
theorem eqReq_awaited (hst : trkState h n = 5 ∨ trkState h n = 7) : ¬ (trkState h n ≠ 5 ∧ trkState h n ≠ 7) :=
  fun ⟨h5, h7⟩ => hst.elim h5 h7

theorem recvEqReq_clips {pre main post : Nat} {lim : Bool} (hst : trkState h n = 5 ∨ trkState h n = 7)
    (hfree : flag h (aLaneTxFfeOvr (4 * n + bitsOf u0.toNat 49 2)) 31 = false)
    (hclip : clipFfe (bitsOf u0.toNat 42 6) (bitsOf u0.toNat 36 6) (bitsOf u0.toNat 30 6) = (pre, main, post, lim)) :
    recvEqReq n u0 h =
      queueLink (wr h (aLaneTxFfe (4 * n + bitsOf u0.toNat 49 2)) (W (pre * 2 ^ 16 + main * 2 ^ 8 + post + (if lim then 2 ^ 24 else 0)))) n
        [linkUnit 0x04 (bitsOf u0.toNat 49 2 * 2 ^ 49 + pre * 2 ^ 42 + main * 2 ^ 36 + post * 2 ^ 30 + (if lim then 2 ^ 29 else 0))] := by
  simp only [recvEqReq, if_neg (eqReq_awaited hst), hfree, Bool.false_eq_true, if_false, hclip]

theorem recvEqReq_overridden (hst : trkState h n = 5 ∨ trkState h n = 7)
    (hovr : flag h (aLaneTxFfeOvr (4 * n + bitsOf u0.toNat 49 2)) 31 = true) :
    recvEqReq n u0 h =
      queueLink h n [linkUnit 0x04 (bitsOf u0.toNat 49 2 * 2 ^ 49 + fld h (aLaneTxFfeOvr (4 * n + bitsOf u0.toNat 49 2)) 16 6 * 2 ^ 42 +
        fld h (aLaneTxFfeOvr (4 * n + bitsOf u0.toNat 49 2)) 8 6 * 2 ^ 36 +
        fld h (aLaneTxFfeOvr (4 * n + bitsOf u0.toNat 49 2)) 0 6 * 2 ^ 30 + 2 ^ 29)] := by
  simp only [recvEqReq, if_neg (eqReq_awaited hst), hovr, if_true]

end

/-! ### TRAINING_TIMEOUT by state (R164, R166, R167) -/

section
variable {n : Nat} {h : Hub}

theorem trainingTimeout_unnegotiated (hst : trkState h n = 2 ∨ trkState h n = 3) : trainingTimeout n h = toDetect h n := by
  rcases hst with hst | hst <;> simp only [trainingTimeout, hst]

theorem trainingTimeout_atRate (hst : trkState h n = 4 ∨ trkState h n = 5) : trainingTimeout n h = toDetect (lowerCeiling h n) n := by
  rcases hst with hst | hst <;> simp only [trainingTimeout, hst]

theorem trainingTimeout_confirm (hst : trkState h n = 6) : trainingTimeout n h = toDetect (linkDown h n) n := by
  simp only [trainingTimeout, hst]

theorem trainingTimeout_recovery (hst : trkState h n = 8) :
    trainingTimeout n h =
      if lockedLanes h n &&& stripeSet h n ≠ 0 ∧ (trk h n).recoverSent = true ∧ (trk h n).recoverAck.isSome = true then
        leaveRecovery (removeLanes h n (15 ^^^ (lockedLanes h n &&& stripeSet h n))) n
      else toDetect (linkDown h n) n := by
  simp only [trainingTimeout, hst]

end

/-! ### The obligation -/

/-- Settles O13: each command runs its meaning on a running core, and the guard of that meaning is met in the state of the link that
the clause names. -/
theorem trunkTraining : Obligations.TrunkTraining := by
  unfold Obligations.TrunkTraining
  refine fun s n hrun => ⟨?commaValid, ?commaInvalid, ?commaTimeout, ?lockWindowEnd, ?ts1, ?ts2, ?switchIdleEnd, ?eqReqClipped,
    ?eqReqOverridden, ?eqAck, ?eqSettled, ?eqDone, ?credit, ?ready, ?recover, ?timeoutUnnegotiated, ?timeoutAtRate, ?timeoutConfirm,
    ?timeoutRecovery⟩
  case commaValid =>
    exact fun k body cw arrival hvalid hon hawake => act_effect hrun ((if_pos hvalid).trans (if_neg (not_or.mpr ⟨hon, hawake⟩)))
  case commaInvalid =>
    intro k body cw arrival hinvalid hon hawake
    exact act_effect hrun ((if_neg (Bool.eq_false_iff.mp hinvalid)).trans (if_neg (not_or.mpr ⟨hon, hawake⟩)))
  case commaTimeout => exact fun k hlocked => act_effect hrun (if_neg (by simp [hlocked]))
  case lockWindowEnd => exact fun hst => act_effect hrun (if_pos hst)
  case ts1 => exact fun u0 u1 hst => act_effect hrun (if_neg (Decidable.not_not.mpr hst))
  case ts2 => exact fun u0 => act_runs hrun _
  case switchIdleEnd => exact fun hst => act_effect hrun (if_pos hst)
  case eqReqClipped =>
    rintro u0 l pre main post lim rfl hst hfree hclip
    exact act_effect hrun (recvEqReq_clips hst hfree hclip)
  case eqReqOverridden =>
    rintro u0 l rfl hst hovr
    exact act_effect hrun (recvEqReq_overridden hst hovr)
  case eqAck => exact fun u0 => act_runs hrun _
  case eqSettled => exact fun hst hunsent => act_effect hrun (if_neg (by simp [hst, hunsent]))
  case eqDone => exact fun hst => act_effect hrun (if_neg (Decidable.not_not.mpr hst))
  case credit => exact fun u0 hst => act_effect hrun (if_neg (Decidable.not_not.mpr hst))
  case ready => exact fun hst => act_effect hrun (if_neg (Decidable.not_not.mpr hst))
  case recover => exact fun u0 hst => act_effect hrun (if_neg (Decidable.not_not.mpr hst))
  case timeoutUnnegotiated => exact fun hst => act_effect hrun (trainingTimeout_unnegotiated hst)
  case timeoutAtRate => exact fun hst => act_effect hrun (trainingTimeout_atRate hst)
  case timeoutConfirm => exact fun hst => act_effect hrun (trainingTimeout_confirm hst)
  case timeoutRecovery => exact fun hst => act_effect hrun (trainingTimeout_recovery hst)

end Sys2Proof.Machine
end

section
/-!
PROOFS. Staves, electrical idle and time tokens of a trunk (R149-R162, R168-R170, R176, R177): what each meaning comes down to in the
state of the link that awaits it, and the obligation TrunkStavesAndIdle assembled from that.
-/
namespace Sys2Proof.Machine

/-! ### Staves in (R151, R158-R161) -/

section
variable {n : Nat} {header : Word64} {body : List Word64} {wrong : List Nat} {h : Hub}

theorem recvStave_bad (hst : trkState h n = 7) (hbad : staveBad (fld h (aTrkStatus n) 6 2) header body wrong = true) :
    recvStave n header body wrong h = modTrk h n (fun t => { t with nak := true }) :=
  (if_neg (by omega)).trans ((if_pos hbad).trans (if_pos hst))

theorem recvStave_good (hstream : 3 ≤ trkState h n) (hawake : trkState h n ≠ 9)
    (hgood : staveBad (fld h (aTrkStatus n) 6 2) header body wrong = false) :
    recvStave n header body wrong h =
      let g := if trkState h n = 7 then takeStave h n header body else h
      if bitsOf header.toNat 60 4 = 2 then (linkMessages 31 body).foldl (linkMessage n) g else g :=
  (if_neg (by omega)).trans (if_neg (Bool.eq_false_iff.mp hgood))

/-- A DATA stave in order, in ACTIVE, with its ACK and credit report taken into g first. -/
theorem takeStave_inOrder {g : Hub}
    (hg : g = modTrk (takeAck h n (bitsOf header.toNat 36 12)) n (fun t => { t with
      freed := tset 0 t.freed (bitsOf header.toNat 24 3) (bitsOf header.toNat 16 8) }))
    (hnak : bitOf header.toNat 35 = false) (hdata : bitsOf header.toNat 60 4 = 1)
    (hseq : bitsOf header.toNat 48 12 = fld g (aTrkSeq n) 16 12) :
    takeStave h n header body =
      let vc := bitsOf header.toNat 32 3
      let x := tally (setFld g (aTrkSeq n) 16 12 ((fld g (aTrkSeq n) 16 12 + 1) % 4096)) (0x10 + n) 0x0101 1 none
      let x := if creditWithheld x n vc then modTrk x n (fun t => { t with nak := false, owed := tmod 0 t.owed vc (· + 1) })
        else modTrk x n (fun t => { t with nak := false, freedMine := tmod 0 t.freedMine vc (fun c => (c + 1) % 256) })
      takeBody x n vc (bitsOf header.toNat 27 5) body := by
  simp only [takeStave, ← hg, hnak, hdata, hseq, Bool.false_eq_true, false_and, if_false, ne_eq, not_true_eq_false, or_self]

end

/-! ### Staves out by state (R159, R164) -/

section
variable {n : Nat} {h : Hub}

theorem sendNext_null (hst : trkState h n = 1 ∨ trkState h n = 2 ∨ trkState h n = 3 ∧ (trk h n).sent % 16 ≠ 15 ∨
    trkState h n = 4 ∧ (trk h n).idleDone = true) : sendNext n h = sendNull h n := by
  rcases hst with hst | hst | ⟨hst, hturn⟩ | ⟨hst, hdone⟩
  · simp only [sendNext, hst]
  · simp only [sendNext, hst]
  · simp only [sendNext, hst, if_neg hturn]
  · simp only [sendNext, hst, hdone, if_true]

theorem sendNext_negotiate (hst : trkState h n = 3) (hturn : (trk h n).sent % 16 = 15) :
    sendNext n h =
      let g := sendLink h n (ts1Units h n)
      tryTs2 (if (trk h n).ts1.isSome then modTrk g n (fun t => { t with ts1Sent := t.ts1Sent + 1 }) else g) n := by
  simp only [sendNext, hst, if_pos hturn]

theorem sendNext_asks {m : List Word64} (hst : trkState h n = 5) (hempty : (trk h n).linkq = []) (hask : (askEq h n).2 = some m) :
    sendNext n h = sendLink (askEq h n).1 n m := by
  rcases hpair : askEq h n with ⟨g, o⟩
  rw [hpair] at hask
  obtain rfl : o = some m := hask
  simp only [sendNext, hst, hempty, hpair]

theorem sendNext_asksNothing (hst : trkState h n = 5) (hempty : (trk h n).linkq = []) (hask : (askEq h n).2 = none) :
    sendNext n h = sendNull (askEq h n).1 n := by
  rcases hpair : askEq h n with ⟨g, o⟩
  rw [hpair] at hask
  obtain rfl : o = none := hask
  simp only [sendNext, hst, hempty, hpair]

theorem sendNext_answers {m : List Word64} {ms : List (List Word64)} (hst : trkState h n = 5) (hqueue : (trk h n).linkq = m :: ms) :
    sendNext n h = sendLink (setTrk h n { trk h n with linkq := ms }) n m := by
  simp only [sendNext, hst, hqueue]

theorem sendNext_confirm (hst : trkState h n = 6) :
    sendNext n h = if (trk h n).creditSent then
        tryActive (modTrk (sendLink h n [linkUnit 0x07 0]) n (fun t => { t with readySent := t.readySent + 1 })) n
      else modTrk (sendLink h n (creditUnits h n)) n (fun t => { t with creditSent := true }) := by
  cases hsent : (trk h n).creditSent <;> simp [sendNext, hst, hsent]

theorem sendNext_active (hst : trkState h n = 7) :
    sendNext n h = activeStave (if changeDue h n then stripeSwitch n h else h) n := by
  simp only [sendNext, hst]

theorem sendNext_recovery (hst : trkState h n = 8) :
    sendNext n h =
      tryRecovered (modTrk (sendLink h n [linkUnit 0x1F ((fld h (aTrkSeq n) 16 12 + 4095) % 4096 * 2 ^ 44)]) n
        (fun t => { t with recoverSent := true })) n := by
  simp only [sendNext, hst]

/-! ### Electrical idle (R168, R169) -/

theorem recvIdleReq_answers (hst : trkState h n = 7) :
    recvIdleReq n h = if idleEn h n = true ∧ trunkQuiet h n = true then toIdle (sendLink h n [linkUnit 0x19 0]) n
      else sendLink h n [linkUnit 0x19 (2 ^ 26)] := by
  cases hen : idleEn h n <;> cases hquiet : trunkQuiet h n <;> simp [recvIdleReq, hst, hen, hquiet]

theorem recvIdleAck_asked (u0 : Word64) (hst : trkState h n = 7) (hasked : (trk h n).idleAsked = true) :
    recvIdleAck n u0 h = if bitOf u0.toNat 26 then modTrk h n (fun t => { t with idleAsked := false }) else toIdle h n :=
  if_neg (by simp [hst, hasked])

theorem leaveIdle_idle (hst : trkState h n = 9) :
    leaveIdle h n =
      let m := stripeSet h n
      let g := modTrk (setFld (trkEnter h n 7) (aTrkStatus n) 16 16 0) n (fun t => { newStream t with sinceComma := some 0 })
      nextTodo 8 (setLanes (sendBurst g n m) n m 2 (fld g (aTrkStatus n) 6 2)) n :=
  if_neg (Decidable.not_not.mpr hst)

end

/-! ### The obligation -/

/-- Settles O14: each command runs its meaning on a running core; the lemmas above say what it comes down to by state, and a
stave in order is the accepting case of `takeStave_inOrder`. -/
theorem trunkStavesAndIdle : Obligations.TrunkStavesAndIdle := by
  unfold Obligations.TrunkStavesAndIdle
  refine fun s n hrun => ⟨?staveBad, ?staveInOrder, ?staveGood, ?sendActive, ?sendNull, ?sendNegotiate, ?sendEqualise, ?sendQueued,
    ?sendConfirm, ?sendRecovery, ?replayTimer, ?idleTimer, ?idleReq, ?idleAck, ?fastExit, ?energyDetect, ?tokenWake, ?tokenSync,
    ?tokenReq⟩
  case staveBad => exact fun header body wrong hst hbad => act_effect hrun (recvStave_bad hst hbad)
  case staveInOrder =>
    intro header body wrong g hst hgood hg hnak hdata hseq
    have hnoLink : bitsOf header.toNat 60 4 ≠ 2 := by omega
    refine act_effect hrun ((recvStave_good (by omega) (by omega) hgood).trans ?_)
    simp only [if_pos hst, if_neg hnoLink]
    exact takeStave_inOrder hg hnak hdata hseq
  case staveGood => exact fun header body wrong hstream hawake hgood => act_effect hrun (recvStave_good hstream hawake hgood)
  case sendActive => exact fun hst => act_effect hrun (sendNext_active hst)
  case sendNull => exact fun hst => act_effect hrun (sendNext_null hst)
  case sendNegotiate => exact fun hst hturn => act_effect hrun (sendNext_negotiate hst hturn)
  case sendEqualise =>
    intro hst hempty
    refine act_effect hrun ?_
    split
    next m hask => exact sendNext_asks hst hempty hask
    next hask => exact sendNext_asksNothing hst hempty hask
  case sendQueued => exact fun m ms hst hqueue => act_effect hrun (sendNext_answers hst hqueue)
  case sendConfirm => exact fun hst => act_effect hrun (sendNext_confirm hst)
  case sendRecovery => exact fun hst => act_effect hrun (sendNext_recovery hst)
  case replayTimer => exact fun hst => act_effect hrun (if_pos hst)
  case idleTimer => exact fun hst hen hquiet hunasked => act_effect hrun (if_pos ⟨hst, hen, hquiet, by simp [hunasked]⟩)
  case idleReq => exact fun hst => act_effect hrun (recvIdleReq_answers hst)
  case idleAck => exact fun u0 hst hasked => act_effect hrun (recvIdleAck_asked u0 hst hasked)
  case fastExit => exact fun hst => act_effect hrun (leaveIdle_idle hst)
  case energyDetect => exact fun l hpresent hreceives => act_effect hrun (if_pos ⟨hpresent, by simpa using hreceives⟩)
  case tokenWake => exact fun hst hlong => act_effect hrun (if_pos ⟨hst, hlong⟩)
  case tokenSync => exact fun t hst hfresh => act_effect hrun (if_neg (by simp [hst, hfresh]))
  case tokenReq => exact fun token offset delay t hst => act_effect hrun (if_neg (Decidable.not_not.mpr hst))

end Sys2Proof.Machine
end

section
/-!
PROOFS. Stripe changes of a trunk (R171-R175): what each request, answer, repeat and switch comes down to, and the obligation
StripeChanges assembled from that.
-/
namespace Sys2Proof.Machine

/-! ### Answers to the hub's own request (R171, R175) -/

section
variable {n : Nat} {u0 : Word64} {c : Change} {h : Hub}

section
variable (hchange : (trk h n).change = some c) (hid : c.id = bitsOf u0.toNat 27 4)
include hchange hid

theorem recvRetireAck_confirms (hkind : c.isReturn = false) (hagreed : bitOf u0.toNat 26 = false) :
    recvRetireAck n u0 h = modTrk h n (fun t => { t with change := some { c with acked := true } }) := by
  simp only [recvRetireAck, hchange]
  exact if_pos (by simp [hkind, hid, hagreed])

theorem recvReturnAck_confirms (hkind : c.isReturn = true) (hagreed : bitOf u0.toNat 26 = false) :
    recvReturnAck n u0 h = modTrk h n (fun t => { t with change := some { c with acked := true } }) := by
  simp [recvReturnAck, hchange, hkind, hid, hagreed]

theorem recvReturnAck_refused (hkind : c.isReturn = true) (hrefused : bitOf u0.toNat 26 = true) :
    recvReturnAck n u0 h =
      nextTodo 8 (restoreFailed (modTrk h n (fun t => { t with
        change := none, joining := t.joining &&& (15 ^^^ 2 ^ c.lane) })) (4 * n + c.lane) c.waiter) n := by
  simp [recvReturnAck, hchange, hkind, hid, hrefused]

end

/-! ### Requests without an answer (R171, R173, R175) -/

section
variable (hchange : (trk h n).change = some c) (hopen : c.acked = false)
include hchange hopen

theorem reqRepeat_sends (hmore : c.sends < 11) :
    reqRepeat n h =
      modTrk (queueLink h n (changeUnit (if c.isReturn then 0x12 else 0x10) c.mask c.target c.id false)) n
        (fun t => { t with change := some { c with sends := c.sends + 1 } }) := by
  simp only [reqRepeat, hchange, hopen, if_pos hmore, Bool.false_eq_true, if_false]

theorem reqRepeat_givesUp (hsent : 11 ≤ c.sends) (hkind : c.isReturn = false) :
    reqRepeat n h = toRecovery (removeLanes h n (2 ^ c.lane)) n := by
  simp only [reqRepeat, hchange, hopen, if_neg (Nat.not_lt.mpr hsent), hkind, Bool.false_eq_true, if_false]

theorem returnTimeout_leavesOut (hkind : c.isReturn = true) :
    returnTimeout n h =
      nextTodo 8 (restoreFailed (raise (modTrk h n (fun t => { t with
        change := none, joining := t.joining &&& (15 ^^^ 2 ^ c.lane) })) 0x05 5 n 0) (4 * n + c.lane) c.waiter) n := by
  simp [returnTimeout, hchange, hkind, hopen]

end

end

/-! ### The obligation -/

/-- Settles O15: each command runs its meaning on a running core; the lemmas above read the meaning off the change under way, and
the switch is the meaning of STRIPE_SWITCH with the two sets and the lanes that the partner removed named. -/
theorem stripeChanges : Obligations.StripeChanges := by
  unfold Obligations.StripeChanges
  refine fun s n hrun => ⟨?retireReq, ?returnReq, fun u0 c hchange hid => ⟨?retireAck, ?returnAck, ?returnRefused⟩,
    fun c hchange hopen => ⟨?repeatSends, ?repeatGivesUp, ?returnTimeout⟩, ?stripeSwitch⟩
  case retireReq => exact fun u0 hst => act_effect hrun (if_neg (Decidable.not_not.mpr hst))
  case returnReq => exact fun u0 settled hst => act_effect hrun (if_neg (Decidable.not_not.mpr hst))
  case retireAck => exact fun hkind hagreed => act_effect hrun (recvRetireAck_confirms hchange hid hkind hagreed)
  case returnAck => exact fun hkind hagreed => act_effect hrun (recvReturnAck_confirms hchange hid hkind hagreed)
  case returnRefused => exact fun hkind hrefused => act_effect hrun (recvReturnAck_refused hchange hid hkind hrefused)
  case repeatSends => exact fun hmore => act_effect hrun (reqRepeat_sends hchange hopen hmore)
  case repeatGivesUp => exact fun hsent hkind => act_effect hrun (reqRepeat_givesUp hchange hopen hsent hkind)
  case returnTimeout => exact fun hkind => act_effect hrun (returnTimeout_leavesOut hchange hopen hkind)
  case stripeSwitch =>
    rintro mine m1 m2 gone hst hdue rfl rfl rfl rfl
    exact act_effect hrun (if_pos ⟨hst, hdue⟩)

end Sys2Proof.Machine
end

section
/-!
PROOFS. Lane commands (R173, R191, R199-R205, R208, R210): what retirement, eye scans, loops and the detections come down to once their
checks pass, and the obligation LaneCommands assembled from that.
-/
namespace Sys2Proof.Machine

/-! ### LANE.RETIRE (R173, R210) -/

section
variable {h : Hub} {c : Cmd} {w : IW}

theorem laneRetire_operandsOk (hlane : w.target < 96) (hpresent : lanePresent h.part.res w.target = true) (hmode : w.operand < 2) :
    ¬ (96 ≤ w.target ∨ (!lanePresent h.part.res w.target) = true ∨ 2 ≤ w.operand) := by
  simp only [hpresent, Bool.not_true, Bool.false_eq_true, false_or]; omega

section
variable (hlane : w.target < 96) (hpresent : lanePresent h.part.res w.target = true) (hmode : w.operand < 2)
  (hfree : oConflict h c (laneScope w.target) = none)
include hlane hpresent hmode hfree

theorem laneRetire_retired (hretired : laneRetired h w.target = true) : laneRetire h c w = settle h c.id .ok 0 := by
  simp only [laneRetire, if_neg (laneRetire_operandsOk hlane hpresent hmode), hfree, hretired, if_true]

section
variable (hthere : laneRetired h w.target = false)
include hthere

theorem laneRetire_barred (hbusy : laneBusy h w.target (decide (w.operand = 1)) = true) :
    laneRetire h c w = settle h c.id .conflict 0 := by
  simp only [laneRetire, if_neg (laneRetire_operandsOk hlane hpresent hmode), hfree, hthere, hbusy, Bool.false_eq_true, if_false, if_true]

variable (hidle : laneBusy h w.target (decide (w.operand = 1)) = false)
include hidle

/-- A lane outside the trunks is retired at once; when its PCIe port must retrain as x1, the command completes with that. -/
theorem laneRetire_ofPort (hother : 32 ≤ w.target) :
    laneRetire h c w =
      let p := (w.target - 64) / 2
      let g := faults (beginWait h c w .op) [.retire 0 w.target 2 0]
      if 64 ≤ w.target ∧ w.target < 80 ∧ (tfind g.lns.x1 p).isSome = true then
        { g with lns := { g.lns with x1Cmd := tput g.lns.x1Cmd p c.id } }
      else settle (faults h [.retire 0 w.target 2 0]) c.id .ok 0 := by
  simp only [laneRetire, if_neg (laneRetire_operandsOk hlane hpresent hmode), hfree, hthere, hidle, if_pos hother, Bool.false_eq_true, if_false]

/-- A trunk's lane is marked and recorded retired as its retirement starts (R473); the command waits for the handshake, if one follows. -/
theorem laneRetire_ofTrunk {g : Hub} {waits : Bool} (htrunk : w.target < 32)
    (hwaits : waits = (bitOf (stripeSet h (w.target / 4)) (w.target % 4) && decide (stripeSet h (w.target / 4) ≠ 2 ^ (w.target % 4)) &&
      decide (trkState h (w.target / 4) = 7) && decide (w.operand = 1)))
    (hg : g =
      (let x := setFlag (setFlag h (aFltRet 0 (w.target / 32)) (w.target % 32) true) (aLaneRetired (w.target / 32)) (w.target % 32) true
       count (faultRecord x 2 2 0 w.target 0 (bucketLevel h 0 w.target)) aFltCntRetire 1)) :
    laneRetire h c w =
      if waits = true then laneOut (beginWait g c w .op) w.target true (some c.id)
      else settle (laneOut g w.target false none) c.id .ok 0 := by
  simp only [laneRetire, if_neg (laneRetire_operandsOk hlane hpresent hmode), hfree, hthere, hidle, if_neg (Nat.not_le.mpr htrunk), hg, hwaits,
    Bool.false_eq_true, if_false]

end

end

/-! ### LANE.SCAN (R68, R199) -/

/-- An unconflicted scan of a receiving lane starts when the lane has none, fewer than 16 run and the result has a place to go. -/
theorem laneScan_starts (hlane : w.target < 96) (hreceives : w.target < 32 ∨ 64 ≤ w.target)
    (hpresent : lanePresent h.part.res w.target = true) (heye : w.operand < (if flag h (aLaneStatus w.target) 21 then 3 else 1))
    (hready : fld h (aLaneStatus w.target) 28 3 = 2 ∨ fld h (aLaneStatus w.target) 28 3 = 4 ∧
      (fld h (aLaneLoop w.target) 0 2 = 1 ∨ fld h (aLaneLoop w.target) 0 2 = 3))
    (hrange : hubRangeOk h (w.x 0) 65088 = true) (hbus : busDenied h (cmdPort h c) (w.x 0) = false)
    (hfree : oConflict h c (laneScope w.target) = none) (hnone : scanOf h w.target = none) (hroom : h.lns.scans.length < 16)
    (hplace : onBus (w.x 0) = true ∨ cellarReady h = true) :
    laneScan h c w = scanStart (beginWait h c w .op) w.target w.operand (w.x 0) c.id := by
  have hdisplay : ¬ (32 ≤ w.target ∧ w.target < 64) := by omega
  have hstate : (decide (fld h (aLaneStatus w.target) 28 3 = 2) || (decide (fld h (aLaneStatus w.target) 28 3 = 4) &&
      (decide (fld h (aLaneLoop w.target) 0 2 = 1) || decide (fld h (aLaneLoop w.target) 0 2 = 3)))) = true := by
    simpa only [Bool.or_eq_true, Bool.and_eq_true, decide_eq_true_eq] using hready
  have hstored : (!onBus (w.x 0) && !cellarReady h) = false := by
    rcases hplace with hplace | hplace <;> simp only [hplace, Bool.not_true, Bool.false_and, Bool.and_false]
  simp only [laneScan, hstate, hpresent, hrange, hdisplay, hbus, hfree, hnone, hstored, Nat.not_le.mpr hlane, Nat.not_le.mpr heye,
    Nat.not_le.mpr hroom, Bool.not_true, Option.isSome_none, Bool.false_eq_true, or_self, if_false]

/-! ### LANE.LOOP (R204) -/

theorem laneLoop_sets (hlane : w.target < 96) (hpresent : lanePresent h.part.res w.target = true) (hmode : w.operand < 4)
    (hdisplay : w.target < 32 ∨ 64 ≤ w.target ∨ w.operand = 0) (hfree : oConflict h c (laneScope w.target) = none)
    (hoff : lanePortOn h w.target = false ∨ laneRetired h w.target = true) :
    laneLoop h c w = settle (loopSet h w.target w.operand) c.id .ok 0 := by
  have hoperands : ¬ (96 ≤ w.target ∨ (!lanePresent h.part.res w.target) = true ∨ 4 ≤ w.operand ∨
      (32 ≤ w.target ∧ w.target < 64 ∧ w.operand ≠ 0)) := by
    simp only [hpresent, Bool.not_true, Bool.false_eq_true, false_or]; omega
  simp only [laneLoop, if_neg hoperands, hfree]
  exact if_neg (by
    rcases hoff with hoff | hoff <;>
      simp only [hoff, Bool.not_true, Bool.false_and, Bool.and_false, Bool.false_eq_true, not_false_eq_true])

end

/-! ### Scans under way (R200-R203) -/

section
variable {l : Nat} {x : Scan} {h : Hub} (hscan : scanOf h l = some x)
include hscan

/-- The scan of a lane samples the rest of the tick's window, from where it starts, once in a tick. -/
theorem scanWindow_samples {first last : Nat} (counts : List Word) (hfresh : x.edge ≠ some h.tim.edges) (hwhole : x.broken = false)
    (hfirst : first = max x.from_ (h.tim.edgeClk + 64000)) (hlast : last = h.tim.edgeClk + 143999) (hopen : first ≤ last) :
    scanWindow l counts h =
      let g := runTo h last
      let ui := x.ui + x.baud * (last + 1 - first) * 5 / 8000
      let y := { x with counts := (x.counts ++ counts.take (ui / 2 ^ x.dwell)).take 16256, ui := ui % 2 ^ x.dwell, lastTick := tickNo g,
                        edge := some g.tim.edges, startTick := if x.edge.isNone then tickNo g else x.startTick }
      setFld { g with lns := { g.lns with scans := tput g.lns.scans l y } } (aLaneScanStatus l) 0 14 y.counts.length := by
  subst hfirst hlast
  simp only [scanWindow, hscan]
  exact if_neg (by simp only [hfresh, hwhole, Nat.not_lt.mpr hopen, Bool.false_eq_true, or_self, not_false_eq_true])

/-- A scan that has all its points, or was broken off, is written for its command's port. -/
theorem scanEnd_writes {c : Cmd} {m : Mem} {r : Mem × Hub} (hended : 16256 ≤ x.counts.length ∨ x.broken = true)
    (hcmd : findCmd h x.cmd = some c) (hr : r = writeHub m h (cmdPort h c) x.addr (scanResult l x)) :
    scanEnd l m h =
      (r.1, let g := { r.2 with lns := { r.2.lns with scans := tdel r.2.lns.scans l } }
            let g := setFlag (setFlag g (aLaneStatus l) 22 false) (aLaneScanStatus l) 31 false
            settle (wr g aLaneScans (W g.lns.scans.length)) x.cmd .ok 0) := by
  have hnotYet : ¬ (x.counts.length < 16256 ∧ (!x.broken) = true) := by
    rintro ⟨hfew, hwhole⟩
    rcases hended with hfull | hbroken
    · exact absurd hfew (Nat.not_lt.mpr hfull)
    · simp only [hbroken, Bool.not_true, Bool.false_eq_true] at hwhole
  simp only [scanEnd, hscan, if_neg hnotYet, hcmd, hr]

end

/-! ### Lanes named by index (R205, R208) -/

theorem laneIndexOk {v : Variant} {l : Nat} (hlane : l < 96) (hpresent : lanePresent v l = true) :
    ¬ (96 ≤ l ∨ (!lanePresent v l) = true) := by
  simp only [Nat.not_le.mpr hlane, hpresent, Bool.not_true, Bool.false_eq_true, or_self, not_false_eq_true]

/-! ### The obligation -/

/-- Settles O16: each command runs its meaning on a running core, and the checks of that meaning pass under its clause's
hypotheses. -/
theorem laneCommands : Obligations.LaneCommands := by
  unfold Obligations.LaneCommands
  refine fun s hrun => ⟨fun th c w at_ hlane hpresent hmode hfree => ?retire, ?scan, ?window, ?scanEnd, ?loop, ?patternClear, ?tapLimit,
    ?hardFault⟩
  case retire =>
    refine ⟨?retired, ?barred, ?ofPort, ?ofTrunk⟩
    case retired => exact fun hretired => act_onLong at_ (laneRetire_retired hlane hpresent hmode hfree hretired)
    case barred => exact fun hthere hbusy => act_onLong at_ (laneRetire_barred hlane hpresent hmode hfree hthere hbusy)
    case ofPort => exact fun hthere hidle hother => act_onLong at_ (laneRetire_ofPort hlane hpresent hmode hfree hthere hidle hother)
    case ofTrunk =>
      rintro l g waits rfl htrunk hthere hidle hwaits hg
      exact act_onLong at_ (laneRetire_ofTrunk hlane hpresent hmode hfree hthere hidle htrunk hwaits hg)
  case scan =>
    intro th c w at_ hlane hreceives hpresent heye hready hrange hbus hfree hnone hroom hplace
    exact act_onLong at_ (laneScan_starts hlane hreceives hpresent heye hready hrange hbus hfree hnone hroom hplace)
  case window =>
    intro l counts x first last hscan hfresh hwhole hfirst hlast hopen
    exact act_effect hrun (scanWindow_samples hscan counts hfresh hwhole hfirst hlast hopen)
  case scanEnd =>
    intro l x c r hscan hended hcmd hr
    refine (actMem_runs hrun _).trans ?_
    rw [scanEnd_writes hscan hended hcmd hr]
  case loop =>
    intro th c w at_ hlane hpresent hmode hdisplay hfree hoff
    exact act_onInstr at_ (laneLoop_sets hlane hpresent hmode hdisplay hfree hoff)
  case patternClear => exact fun p l hlane hpresent => act_effect hrun (if_neg (laneIndexOk hlane hpresent))
  case tapLimit =>
    intro l hpresent hreceives hdata hadapts
    have hdisplay : ¬ (32 ≤ l.val ∧ l.val < 64) := by omega
    exact act_effect hrun (if_neg (by
      simp only [hpresent, hdisplay, hdata, hadapts, Bool.not_true, Bool.false_eq_true, ne_eq, not_true_eq_false, or_self, not_false_eq_true]))
  case hardFault => exact fun l hlane hpresent => act_effect hrun (if_neg (laneIndexOk hlane hpresent))

end Sys2Proof.Machine
end

section
/-!
PROOFS. TLPs in bytes (R229): the double words of a TLP are read back from its bytes, each field of them lies in its own bits, and the
obligation TlpsSurviveTheirBytes assembled from that.
-/
namespace Sys2Proof.Machine

/-! ### Double words in bytes -/

/-- Double words, each as its four bytes, and the data behind them. -/
def dwsBytes (ws : List Nat) (data : List Byte) : List Byte := ws.flatMap dwBytes ++ data

theorem dwBytes_length (v : Nat) : (dwBytes v).length = 4 := by
  rw [dwBytes, toBytes, List.length_map, beBytes_length]

theorem beNat_dwBytes (v : Nat) : beNat (toNats (dwBytes v)) = v % 2 ^ 32 := by
  simp only [dwBytes, toBytes, toNats, beBytes, beNat, List.range, List.range.loop, List.map_cons, List.map_nil, List.foldl_cons,
    List.foldl_nil, BitVec.toNat_ofNat]
  omega

theorem dwsBytes_cons (w : Nat) (ws : List Nat) (data : List Byte) : dwsBytes (w :: ws) data = dwBytes w ++ dwsBytes ws data := by
  rw [dwsBytes, List.flatMap_cons, List.append_assoc, dwsBytes]

theorem dwAt_dwsBytes_zero (w : Nat) (ws : List Nat) (data : List Byte) : dwAt (dwsBytes (w :: ws) data) 0 = w % 2 ^ 32 := by
  rw [dwsBytes_cons, dwAt, Nat.mul_zero, List.drop_zero, List.take_left' (dwBytes_length w), beNat_dwBytes]

theorem dwAt_dwsBytes_succ (w : Nat) (ws : List Nat) (data : List Byte) (i : Nat) :
    dwAt (dwsBytes (w :: ws) data) (i + 1) = dwAt (dwsBytes ws data) i := by
  rw [dwsBytes_cons, dwAt, Nat.mul_succ, Nat.add_comm, ← List.drop_drop, List.drop_left' (dwBytes_length w), dwAt]

/-- Double word i of what was put together. -/
theorem dwAt_dwsBytes {data : List Byte} : ∀ {ws : List Nat} {i : Nat} (_ : i < ws.length), dwAt (dwsBytes ws data) i = ws[i] % 2 ^ 32
  | w :: ws, 0, _ => dwAt_dwsBytes_zero w ws data
  | w :: ws, i + 1, hi => (dwAt_dwsBytes_succ w ws data i).trans (dwAt_dwsBytes (Nat.lt_of_succ_lt_succ hi))

theorem drop_dwsBytes (data : List Byte) : ∀ ws : List Nat, (dwsBytes ws data).drop (4 * ws.length) = data
  | [] => rfl
  | w :: ws => by
    rw [dwsBytes_cons, List.length_cons, Nat.mul_succ, Nat.add_comm, ← List.drop_drop, List.drop_left' (dwBytes_length w),
      drop_dwsBytes data ws]

/-! ### The double words of a TLP (R229) -/

/-- Type, presence of a header content word, Address Type, attributes and length. -/
def firstDw (t : Tlp) : Nat :=
  tlpCode t * 2 ^ 24 + (if tlpOhc t then 2 ^ 16 else 0) + t.addrType.toNat * 2 ^ 13 + t.attr.toNat * 2 ^ 10 + t.len / 4 % 1024

/-- Two identifiers, or an identifier and a smaller field. -/
def idDw (id : BitVec 16) (low : Nat) : Nat := id.toNat * 2 ^ 16 + low

/-- Identifiers, address and counts. -/
def midDws (t : Tlp) : List Nat :=
  if isCpl t then [idDw t.target t.tag.toNat, idDw t.reqId (t.byteCount % 4096)]
  else if t.kind = .msg then [idDw t.reqId t.msgCode.toNat, t.addr.toNat / 2 ^ 32, t.addr.toNat]
  else idDw t.reqId t.tag.toNat ::
    (if t.kind = .cfgRd ∨ t.kind = .cfgWr then [idDw t.target (t.addr.toNat % 4096)]
     else if t.addr.toNat < 2 ^ 32 then [t.addr.toNat] else [t.addr.toNat / 2 ^ 32, t.addr.toNat])

/-- Status and lower address of a completion, byte enables of a request. -/
def ohcDw (t : Tlp) : Nat := if isCpl t then t.status.toNat + t.addr.toNat % 128 * 8 else t.lastBe.toNat * 16 + t.firstBe.toNat

/-- A TLP is its double words, the header content word only where there is one, and its data. -/
theorem tlpBytes_eq (t : Tlp) : tlpBytes t = dwsBytes (firstDw t :: (midDws t ++ if tlpOhc t then [ohcDw t] else [])) t.data := by
  cases hohc : tlpOhc t <;>
    simp [tlpBytes, dwsBytes, firstDw, midDws, idDw, ohcDw, hohc, apply_ite (List.flatMap dwBytes), apply_ite dwBytes]

/-- The second part of the code's meaning: a 64-bit address or a Type 1 form. -/
def codeFlag (t : Tlp) : Bool :=
  match t.kind with
  | .memRd | .memRdLk | .memWr | .atomic => decide (2 ^ 32 ≤ t.addr.toNat)
  | .cfgRd | .cfgWr => t.type1
  | .msg => true
  | .ioRd | .ioWr | .cpl | .cplLk => false

/-- The code names the kind and the form. -/
theorem tlpCode_means (t : Tlp) : codeKind (tlpCode t) = some (t.kind, codeFlag t) ∧ tlpCode t < 2 ^ 8 := by
  cases hkind : t.kind
  case memRd | memRdLk | memWr =>
    cases hbig : decide (2 ^ 32 ≤ t.addr.toNat) <;> simp only [tlpCode, codeFlag, hkind, hbig] <;> decide
  case atomic =>
    have hop : t.msgCode.toNat % 3 = 0 ∨ t.msgCode.toNat % 3 = 1 ∨ t.msgCode.toNat % 3 = 2 := by omega
    cases hbig : decide (2 ^ 32 ≤ t.addr.toNat) <;> simp only [tlpCode, codeFlag, hkind, hbig] <;>
      rcases hop with hop | hop | hop <;> rw [hop] <;> decide
  case cfgRd | cfgWr => cases htype1 : t.type1 <;> simp only [tlpCode, codeFlag, hkind, htype1] <;> decide
  case msg | cpl | cplLk => by_cases hdata : t.data = [] <;> simp only [tlpCode, codeFlag, hkind, hdata, if_true, if_false] <;> decide
  case ioRd | ioWr => simp only [tlpCode, codeFlag, hkind]; decide

/-- The fields of the first double word, each by its place in the 32 bits. -/
theorem firstDw_fields (t : Tlp) :
    firstDw t % 2 ^ 32 = firstDw t ∧ bitsOf (firstDw t) 24 8 = tlpCode t ∧ bitOf (firstDw t) 16 = tlpOhc t ∧
      bitsOf (firstDw t) 0 10 = t.len / 4 % 1024 ∧ bitsOf (firstDw t) 10 3 = t.attr.toNat ∧
      bitsOf (firstDw t) 13 2 = t.addrType.toNat := by
  have hcode := (tlpCode_means t).2
  have hattr := t.attr.isLt
  have htype := t.addrType.isLt
  have hohc := (tlpOhc t).toNat_lt
  have hflag : tlpOhc t = decide ((tlpOhc t).toNat = 1) := by cases tlpOhc t <;> rfl
  rw [bitOf_eq_bitsOf, hflag]
  simp only [firstDw, ite_bool_eq_toNat_mul, bitsOf, decide_eq_decide]
  refine ⟨?_, ?_, ?_, ?_, ?_, ?_⟩ <;> omega

/-! ### The words behind the first -/

section
variable (id : BitVec 16)

theorem idDw_fields {low : Nat} (hlow : low < 2 ^ 16) :
    idDw id low % 2 ^ 32 = idDw id low ∧ bitsOf (idDw id low) 16 16 = id.toNat ∧ bitsOf (idDw id low) 0 12 = low % 2 ^ 12 := by
  have hid := id.isLt
  simp only [idDw, bitsOf]
  refine ⟨?_, ?_, ?_⟩ <;> omega

theorem idDw_tag (tag : BitVec 14) : BitVec.ofNat 14 (idDw id tag.toNat) = tag := by
  have htag := tag.isLt
  refine BitVec.eq_of_toNat_eq ?_
  rw [BitVec.toNat_ofNat, idDw]
  omega

end

/-- The header content word, where there is one. -/
def ohcRead (t : Tlp) : Nat := if tlpOhc t then ohcDw t else 0

/-- Byte enables are read from their word, and are all ones where a request has none. -/
theorem enables_read {t : Tlp} (hcpl : isCpl t = false) (hmsg : t.kind ≠ .msg) (hone : t.firstBe = 15 → t.len ≤ 4 → t.lastBe = 15) :
    (if tlpOhc t then BitVec.ofNat 4 (ohcRead t) else 15) = t.firstBe ∧
      (if tlpOhc t then BitVec.ofNat 4 (ohcRead t / 16) else 15) = t.lastBe := by
  have hfirst := t.firstBe.isLt
  have hlast := t.lastBe.isLt
  cases hohc : tlpOhc t with
  | true =>
    simp only [ohcRead, ohcDw, hohc, hcpl, ← BitVec.toNat_inj, BitVec.toNat_ofNat, Bool.false_eq_true, if_false, if_true]
    omega
  | false =>
    simp only [tlpOhc, hcpl, hmsg, Bool.false_or, ne_eq, not_false_eq_true, decide_true, Bool.true_and, Bool.or_eq_false_iff,
      Bool.and_eq_false_iff, decide_eq_false_iff_not, Decidable.not_not] at hohc
    obtain ⟨hall, hlong⟩ := hohc
    exact ⟨hall.symm, (hlong.elim (fun hshort => hone hall (Nat.not_lt.mp hshort)) id).symm⟩

theorem ohcDw_lt (t : Tlp) : ohcDw t < 2 ^ 32 := by
  have hstatus := t.status.isLt
  have hfirst := t.firstBe.isLt
  have hlast := t.lastBe.isLt
  rw [ohcDw]
  split <;> omega

section
variable (t : Tlp)

theorem dwAt_tlpBytes_zero : dwAt (tlpBytes t) 0 = firstDw t := by
  rw [tlpBytes_eq, dwAt_dwsBytes_zero, (firstDw_fields t).1]

theorem dwAt_tlpBytes_succ {i w : Nat} (hw : (midDws t)[i]? = some w) : dwAt (tlpBytes t) (i + 1) = w % 2 ^ 32 := by
  obtain ⟨hi, hget⟩ := List.getElem?_eq_some_iff.mp hw
  rw [tlpBytes_eq, dwAt_dwsBytes_succ, dwAt_dwsBytes (by rw [List.length_append]; omega), List.getElem_append_left hi, hget]

theorem dwAt_tlpBytes_ohc : (if tlpOhc t then dwAt (tlpBytes t) ((midDws t).length + 1) else 0) = ohcRead t := by
  rw [ohcRead]
  cases hohc : tlpOhc t with
  | false => rfl
  | true =>
    rw [if_pos rfl, if_pos rfl, tlpBytes_eq, hohc, dwAt_dwsBytes_succ, dwAt_dwsBytes (by simp),
      List.getElem_append_right (Nat.le_refl _)]
    simpa using ohcDw_lt t

theorem drop_tlpBytes : (tlpBytes t).drop (4 * ((midDws t).length + 1 + if tlpOhc t then 1 else 0)) = t.data := by
  have hlen : (firstDw t :: (midDws t ++ if tlpOhc t then [ohcDw t] else [])).length =
      (midDws t).length + 1 + if tlpOhc t then 1 else 0 := by
    rw [List.length_cons, List.length_append]
    cases tlpOhc t with
    | false => rfl
    | true => rfl
  rw [tlpBytes_eq, ← hlen, drop_dwsBytes]

end

/-! ### Requests -/

/-- Is a TLP a configuration request? -/
def isCfg (t : Tlp) : Bool := decide (t.kind = .cfgRd) || decide (t.kind = .cfgWr)

section
variable {t : Tlp} (hkind : t.kind = .memRd ∨ t.kind = .memWr ∨ t.kind = .cfgRd ∨ t.kind = .cfgWr)
include hkind

theorem request_kind : isCpl t = false ∧ t.kind ≠ .msg ∧ t.kind ≠ .atomic := by
  rcases hkind with hkind | hkind | hkind | hkind <;> simp [isCpl, hkind]

theorem request_codeFlag : codeFlag t = if isCfg t then t.type1 else decide (2 ^ 32 ≤ t.addr.toNat) := by
  rcases hkind with hkind | hkind | hkind | hkind <;> simp [codeFlag, isCfg, hkind]

theorem request_midDws : midDws t = idDw t.reqId t.tag.toNat :: if isCfg t then [idDw t.target (t.addr.toNat % 4096)]
    else if t.addr.toNat < 2 ^ 32 then [t.addr.toNat] else [t.addr.toNat / 2 ^ 32, t.addr.toNat] := by
  rcases hkind with hkind | hkind | hkind | hkind <;> simp [midDws, isCpl, isCfg, hkind]

theorem request_idDw : dwAt (tlpBytes t) 1 = idDw t.reqId t.tag.toNat := by
  have hid := (idDw_fields t.reqId (Nat.lt_trans t.tag.isLt (by decide))).1
  rw [dwAt_tlpBytes_succ t (by rw [request_midDws hkind]; rfl), hid]

theorem request_header : (if codeFlag t && !isCfg t then 4 else 3) = (midDws t).length + 1 := by
  rw [request_codeFlag hkind, request_midDws hkind]
  cases isCfg t with
  | true => simp
  | false =>
    by_cases hsmall : t.addr.toNat < 2 ^ 32
    · rw [if_neg Bool.false_ne_true, if_neg Bool.false_ne_true, if_pos hsmall, decide_eq_false (Nat.not_le.mpr hsmall)]
      rfl
    · rw [if_neg Bool.false_ne_true, if_neg Bool.false_ne_true, if_neg hsmall, decide_eq_true (Nat.not_lt.mp hsmall)]
      rfl

/-- Where the words behind the requester's say that a request goes. -/
theorem request_place (hreg : isCfg t = true → t.addr.toNat < 4096) (hnone : isCfg t = false → t.target = 0) :
    (if codeFlag t && !isCfg t then dwAt (tlpBytes t) 2 * 2 ^ 32 + dwAt (tlpBytes t) 3
      else if isCfg t then bitsOf (dwAt (tlpBytes t) 2) 0 12 else dwAt (tlpBytes t) 2) = t.addr.toNat ∧
      (if isCfg t then bitsOf (dwAt (tlpBytes t) 2) 16 16 else 0) = t.target.toNat := by
  have hmid := request_midDws hkind
  have haddr := t.addr.isLt
  rw [request_codeFlag hkind]
  cases hcfg : isCfg t with
  | true =>
    obtain ⟨hmod, htarget, hlow⟩ := idDw_fields t.target (low := t.addr.toNat % 4096) (by omega)
    have hword : dwAt (tlpBytes t) 2 = idDw t.target (t.addr.toNat % 4096) := by
      rw [dwAt_tlpBytes_succ t (by rw [hmid, hcfg]; rfl), hmod]
    have hsmall := hreg hcfg
    simp only [Bool.not_true, Bool.and_false, Bool.false_eq_true, if_false, if_true, hword, htarget, hlow, and_true]
    omega
  | false =>
    rw [hnone hcfg]
    refine ⟨?_, rfl⟩
    rw [hcfg, if_neg Bool.false_ne_true] at hmid
    by_cases hsmall : t.addr.toNat < 2 ^ 32
    · rw [if_pos hsmall] at hmid
      rw [dwAt_tlpBytes_succ t (i := 1) (by rw [hmid]; rfl), decide_eq_false (Nat.not_le.mpr hsmall)]
      exact Nat.mod_eq_of_lt hsmall
    · rw [if_neg hsmall] at hmid
      rw [dwAt_tlpBytes_succ t (i := 1) (by rw [hmid]; rfl), dwAt_tlpBytes_succ t (i := 2) (by rw [hmid]; rfl),
        decide_eq_true (Nat.not_lt.mp hsmall)]
      simp only [Bool.not_false, Bool.and_true, if_true, if_false, Bool.false_eq_true]
      omega

/-- A memory or configuration request is read back. -/
theorem bytesTlp_request (htype1 : isCfg t = false → t.type1 = false) (hreg : isCfg t = true → t.addr.toNat < 4096)
    (hnone : isCfg t = false → t.target = 0) (hstatus : t.status = 0) (hcount : t.byteCount = 0) (hcode : t.msgCode = 0)
    (hlen : 4 * (if t.len / 4 % 1024 = 0 then 1024 else t.len / 4 % 1024) = t.len)
    (hone : t.firstBe = 15 → t.len ≤ 4 → t.lastBe = 15) : bytesTlp (tlpBytes t) = some t := by
  obtain ⟨hcpl, hmsg, hatomic⟩ := request_kind hkind
  obtain ⟨-, hcodeField, hohcField, hlenField, hattr, htype⟩ := firstDw_fields t
  obtain ⟨hfirst, hlast⟩ := enables_read hcpl hmsg hone
  obtain ⟨-, hid, -⟩ := idDw_fields t.reqId (Nat.lt_trans t.tag.isLt (by decide))
  obtain ⟨haddr, htarget⟩ := request_place hkind hreg hnone
  have hform : (isCfg t && codeFlag t) = t.type1 := by
    rw [request_codeFlag hkind]
    cases hcfg : isCfg t with
    | true => rfl
    | false => exact (htype1 hcfg).symm
  have hfold : (decide (t.kind = .cfgRd) || decide (t.kind = .cfgWr)) = isCfg t := rfl
  rw [isCpl] at hcpl
  rw [bytesTlp, dwAt_tlpBytes_zero, hcodeField, (tlpCode_means t).1]
  simp only [hcpl, hfold, request_header hkind, hform, dwAt_tlpBytes_ohc, drop_tlpBytes, hmsg, hatomic, hohcField, hlenField, hattr,
    htype, request_idDw hkind, hid, haddr, htarget, idDw_tag, Bool.not_false, Bool.and_true, Bool.false_eq_true, if_false, or_false,
    BitVec.ofNat_toNat, BitVec.setWidth_eq]
  exact congrArg some ((Tlp.mk.injEq ..).mpr
    ⟨rfl, rfl, rfl, rfl, rfl, hlen, hfirst, hlast, rfl, hstatus.symm, hcount.symm, rfl, hcode.symm, rfl, rfl⟩)

end

/-! ### Completions -/

section
variable {t : Tlp} (hkind : t.kind = .cpl ∨ t.kind = .cplLk)
include hkind

theorem completion_kind : isCpl t = true ∧ t.kind ≠ .msg ∧ t.kind ≠ .atomic ∧ isCfg t = false ∧ codeFlag t = false := by
  rcases hkind with hkind | hkind <;> simp [isCpl, isCfg, codeFlag, hkind]

theorem completion_midDws : midDws t = [idDw t.target t.tag.toNat, idDw t.reqId (t.byteCount % 4096)] := by
  rw [midDws, if_pos (completion_kind hkind).1]

theorem completion_idDws :
    dwAt (tlpBytes t) 1 = idDw t.target t.tag.toNat ∧ dwAt (tlpBytes t) 2 = idDw t.reqId (t.byteCount % 4096) := by
  have hmid := completion_midDws hkind
  obtain ⟨htarget, -, -⟩ := idDw_fields t.target (Nat.lt_trans t.tag.isLt (by decide))
  obtain ⟨hreq, -, -⟩ := idDw_fields t.reqId (low := t.byteCount % 4096) (by omega)
  exact ⟨by rw [dwAt_tlpBytes_succ t (by rw [hmid]; rfl), htarget], by rw [dwAt_tlpBytes_succ t (by rw [hmid]; rfl), hreq]⟩

/-- Status and lower address are read from their word. -/
theorem status_read (hlow : t.addr.toNat < 128) : BitVec.ofNat 3 (ohcRead t) = t.status ∧ bitsOf (ohcRead t) 3 7 = t.addr.toNat := by
  have hcpl := (completion_kind hkind).1
  have hstatus := t.status.isLt
  have hohc : tlpOhc t = true := by rw [tlpOhc, hcpl, Bool.true_or]
  simp only [ohcRead, ohcDw, hohc, hcpl, if_true, bitsOf, ← BitVec.toNat_inj, BitVec.toNat_ofNat]
  omega

/-- A completion is read back. -/
theorem bytesTlp_completion (htype1 : t.type1 = false) (hfirst : t.firstBe = 15) (hlast : t.lastBe = 15) (hcode : t.msgCode = 0)
    (hlow : t.addr.toNat < 128) (hlen : 4 * (if t.len / 4 % 1024 = 0 then 0 else t.len / 4 % 1024) = t.len)
    (hcount : (if t.byteCount % 4096 = 0 then 4096 else t.byteCount % 4096) = t.byteCount) : bytesTlp (tlpBytes t) = some t := by
  obtain ⟨hcpl, hmsg, hatomic, hcfg, hflag⟩ := completion_kind hkind
  obtain ⟨-, hcodeField, hohcField, hlenField, hattr, htype⟩ := firstDw_fields t
  obtain ⟨-, htarget, -⟩ := idDw_fields t.target (Nat.lt_trans t.tag.isLt (by decide))
  obtain ⟨-, hreq, hleft⟩ := idDw_fields t.reqId (low := t.byteCount % 4096) (by omega)
  obtain ⟨hword1, hword2⟩ := completion_idDws hkind
  obtain ⟨hstatus, haddr⟩ := status_read hkind hlow
  have hheader : (if codeFlag t && !isCfg t then 4 else 3) = (midDws t).length + 1 := by
    rw [hflag, completion_midDws hkind]; rfl
  have hform : (isCfg t && codeFlag t) = t.type1 := by rw [hcfg, htype1, Bool.false_and]
  have hmod : t.byteCount % 4096 % 2 ^ 12 = t.byteCount % 4096 := Nat.mod_mod _ _
  have hfold : (decide (t.kind = .cfgRd) || decide (t.kind = .cfgWr)) = isCfg t := rfl
  rw [isCpl] at hcpl
  rw [bytesTlp, dwAt_tlpBytes_zero, hcodeField, (tlpCode_means t).1]
  simp only [hcpl, hfold, hheader, hform, dwAt_tlpBytes_ohc, drop_tlpBytes, hmsg, hatomic, hohcField, hlenField, hattr, htype, hword1,
    hword2, htarget, hreq, hleft, hmod, hstatus, haddr, idDw_tag, Bool.not_true, Bool.and_false, Bool.false_eq_true, if_false, if_true,
    or_false, BitVec.ofNat_toNat, BitVec.setWidth_eq]
  exact congrArg some ((Tlp.mk.injEq ..).mpr
    ⟨rfl, rfl, rfl, rfl, rfl, hlen, hfirst.symm, hlast.symm, rfl, rfl, hcount, rfl, hcode.symm, rfl, rfl⟩)

end

/-! ### The obligation -/

/-- Settles O56: each of its TLPs is a request or a completion whose length and count lie within what their fields hold. -/
theorem tlpsSurviveTheirBytes : Obligations.TlpsSurviveTheirBytes := by
  unfold Obligations.TlpsSurviveTheirBytes
  refine ⟨?memory, ?config, ?completion⟩
  case memory =>
    rintro write req tag addr n first last data attr hpos hmax hone hdata t rfl
    have hlen : (if 4 * n / 4 % 1024 = 0 then 1024 else 4 * n / 4 % 1024) = n := by split <;> omega
    refine bytesTlp_request (by cases write <;> simp) (fun _ => rfl) (fun hcfg => ?_) (fun _ => rfl) rfl rfl rfl
      (congrArg (4 * ·) hlen) (fun hall hshort => hone hall ?_)
    · cases write <;> exact absurd hcfg (by simp [isCfg])
    · have hdws : 4 * n ≤ 4 := hshort
      omega
  case config =>
    rintro write type1 req target tag reg first data attr hreg hdata t rfl
    have hlen : 4 * (if 4 / 4 % 1024 = 0 then 1024 else 4 / 4 % 1024) = 4 := by decide
    refine bytesTlp_request (by cases write <;> simp) (fun hcfg => ?_) (fun _ => ?_) (fun hcfg => ?_) rfl rfl rfl hlen
      (fun hall _ => if_pos hall)
    · cases write <;> exact absurd hcfg (by simp [isCfg])
    · rw [BitVec.toNat_ofNat]
      omega
    · cases write <;> exact absurd hcfg (by simp [isCfg])
  case completion =>
    rintro lock req target tag low count n status data attr hlow hpos hmax hn hdata t rfl
    have hlen : (if 4 * n / 4 % 1024 = 0 then 0 else 4 * n / 4 % 1024) = n := by split <;> omega
    have hcount : (if count % 4096 = 0 then 4096 else count % 4096) = count := by split <;> omega
    refine bytesTlp_completion (by cases lock <;> simp) rfl rfl rfl rfl ?_ (congrArg (4 * ·) hlen) hcount
    rw [BitVec.toNat_ofNat]
    omega

end Sys2Proof.Machine
end

section
/-!
PROOFS. Tunnels (R217, R221-R225): what opening, closing, routing and moving a tunnel come down to once their checks pass, how a move
ends, and the obligations TunnelInstructions and TunnelMoves assembled from that.
-/
namespace Sys2Proof.Machine

/-! ### Opening an end (R221) -/

/-- The operands of TUN.OPEN lie in their ranges. -/
theorem tunOpen_operandsOk {h : Hub} {w : IW} (hoperand : onlyBits w.operand 0x073F0F1F = true) (hx : onlyBits (w.x 0) 0x83FF = true)
    (hsp : w.o 0 5 < 24) (hpresent : spPresent h.part.res (w.o 0 5) = true) (hdock : w.o 16 6 < h.part.res.docks) (htype : w.o 8 4 ≤ 5) :
    (!onlyBits w.operand 0x073F0F1F || !onlyBits (w.x 0) 0x83FF || decide (24 ≤ w.o 0 5) || !spPresent h.part.res (w.o 0 5) ||
      decide (h.part.res.docks ≤ w.o 16 6) || decide (5 < w.o 8 4)) = false := by
  simp only [hoperand, hx, hpresent, Bool.not_true, Bool.or_false, Bool.false_or, Bool.or_eq_false_iff, decide_eq_false_iff_not]
  omega

/-- A tunnel ID that an end may take on a trunk is one of the 4,096, and none that is built in (R217, R221). -/
theorem tidFound {h : Hub} {regs : Tab Word} {ends : List (Nat × Nat)} {sp tid : Nat}
    (hfree : (List.range 4096).find? (fun t => decide (1 ≤ t) && tidFree h regs ends sp t) = some tid) :
    ¬ (4096 ≤ tid ∨ builtIn sp tid = true) := by
  have hlisted := List.mem_range.mp (List.mem_of_find?_eq_some hfree)
  have htaken := List.find?_some hfree
  simp only [tidFree, Bool.and_eq_true, Bool.not_eq_true'] at htaken
  obtain ⟨-, ⟨hplain, -⟩, -⟩ := htaken
  simp [hplain, hlisted]

/-! ### Routing an end (R222) -/

/-- A route names no end, an end of a switch port that is there, or the hub's own port. -/
theorem routeEgressOk {v : Variant} {esp etid : Nat}
    (hegress : (esp = 0x1F ∧ etid = 0) ∨ (esp < 24 ∧ spPresent v esp = true ∧ (esp = 23 ∨ builtIn esp etid = false))) :
    (if esp = 0x1F then decide (etid ≠ 0)
      else decide (24 ≤ esp) || !spPresent v esp || (decide (esp ≠ 23) && builtIn esp etid)) = false := by
  rcases hegress with ⟨hnone, hzero⟩ | ⟨hsp, hpresent, hplain⟩
  · rw [if_pos hnone, hzero]; rfl
  · rw [if_neg (by omega), hpresent, decide_eq_false (Nat.not_le.mpr hsp)]
    rcases hplain with hown | hplain
    · simp [hown]
    · simp [hplain]

/-! ### The obligation on tunnel instructions -/

/-- Settles O31: under the hypotheses of its clause an instruction passes its own checks, and then those of staging or of the scope. -/
theorem tunnelInstructions : Obligations.TunnelInstructions := by
  unfold Obligations.TunnelInstructions
  refine fun s th c w recs extra => ⟨?openNamed, ?openAny, ?close, ?route, ?move⟩
  case openNamed =>
    rintro at_ hoperand hx hsp hpresent hdock htype htid hplain hroom rfl rfl hmay
    have hlisted : w.target ≠ 0xF000 := by omega
    have hnamed : ¬ (4096 ≤ w.target ∨ builtIn (w.o 0 5) w.target = true) := by simp [hplain, htid]
    have hfull : ¬ (4096 ≤ (openPairs (standing s.hub c [])).length ∧
        (!(openPairs (standing s.hub c [])).contains (w.o 0 5, w.target)) = true) := by
      rintro ⟨hmany, hnew⟩
      rcases hroom with hroom | hthere
      · omega
      · rw [hthere] at hnew; cases hnew
    refine act_onInstr at_ ?_
    simp only [tunOpen_operandsOk hoperand hx hsp hpresent hdock htype, Bool.false_eq_true, if_false, if_neg hlisted,
      if_neg hnamed, if_neg hfull]
    exact stageOpen_ok hmay
  case openAny =>
    rintro tid at_ hoperand hx hsp hpresent hdock htype htarget hfree hroom rfl rfl hmay
    have hfull : ¬ (4096 ≤ (openPairs (standing s.hub c [])).length ∧
        (!(openPairs (standing s.hub c [])).contains (w.o 0 5, tid)) = true) := fun hmany => Nat.not_le.mpr hroom hmany.1
    refine act_onInstr at_ ?_
    simp only [tunOpen_operandsOk hoperand hx hsp hpresent hdock htype, Bool.false_eq_true, if_false, if_pos htarget, hfree,
      if_neg (tidFound hfree), if_neg hfull]
    exact stageOpen_ok hmay
  case close =>
    rintro at_ hsp hpresent htid hplain hopen rfl rfl hmay
    have hchecks : ¬ (24 ≤ w.operand ∨ (!spPresent s.hub.part.res w.operand) = true ∨ 4096 ≤ w.target ∨
        builtIn w.operand w.target = true ∨ (endIn s.hub (standing s.hub c []) w.operand w.target).isNone = true) := by
      rw [Option.isNone_eq_false_iff.mpr hopen, hpresent, hplain]
      simp only [Bool.not_true, Bool.false_eq_true, or_false, false_or]
      omega
    exact act_onInstr at_ ((if_neg hchecks).trans (stageOpen_ok hmay))
  case route =>
    rintro at_ hoperand hsp hpresent htid hplain hegress rfl rfl hmay
    refine act_onInstr at_ ?_
    simp only [routeEgressOk hegress, hoperand, hpresent, hplain, decide_eq_false (Nat.not_le.mpr hsp),
      decide_eq_false (Nat.not_le.mpr htid), Bool.not_true, Bool.or_false, Bool.false_eq_true, if_false]
    exact stageOpen_ok hmay
  case move =>
    rintro e at_ hoperand hfrom hdst hpresentFrom hpresentDst hpos htid hend hone hmember hfree hgate hscope
    have hform : ¬ (2 ^ 10 ≤ w.operand ∨ 8 ≤ w.o 0 5 ∨ 8 ≤ w.o 5 5 ∨ (!spPresent s.hub.part.res (w.o 0 5)) = true ∨
        (!spPresent s.hub.part.res (w.o 5 5)) = true ∨ 4096 ≤ w.target ∨ w.target = 0) := by
      simp only [hpresentFrom, hpresentDst, Bool.not_true, Bool.false_eq_true, false_or]
      omega
    refine act_onLong at_ ?_
    simp only [if_neg hform, hend, hone, hmember, hfree, hgate, hscope, ne_eq, not_true_eq_false, Bool.not_true, Option.isSome_none,
      Bool.false_eq_true, or_self, if_false]

/-! ### Moves under way (R224, R225) -/

section
variable {h : Hub} {n tid : Nat} {m : Move} (hmove : findMove h n tid = some m)
include hmove

theorem moveComplete_drained (hdone : m.done = false) (hdrained : moveDrained h m = true) : moveComplete n tid h = moveEnd h m .ok := by
  simp only [moveComplete, hmove, hdone, hdrained, Bool.not_true, Bool.false_eq_true, or_self, if_false]

theorem moveComplete_waits (hheld : moveDrained h m = false) : moveComplete n tid h = h := by
  simp only [moveComplete, hmove, hheld, Bool.not_false, or_true, if_true]

theorem moveTimeout_discards {r : Hub × List Pkt} (hdone : m.done = false) (hlate : 16 ≤ edgesSince h m.edge)
    (hr : r = purge h (oldOfMove m)) :
    moveTimeout n tid h = moveEnd (raise (failLost (count r.1 aTunCntMoveDrop r.2.length) r.2) 0x06 5 0 0) m .timeout := by
  simp only [moveTimeout, hmove, hdone, Nat.not_lt.mpr hlate, Bool.false_eq_true, or_self, if_false, hr]

theorem moveGraceEnd_ends (hgrace : m.graceOver = false) (hlate : fld h aTunCfg 8 8 ≤ edgesSince h m.edge) :
    moveGraceEnd n tid h =
      let rest := h.tun.moves.filter (fun x => decide (x ≠ m))
      { h with tun := { h.tun with moves := if m.done then rest else rest ++ [{ m with graceOver := true }] } } := by
  simp only [moveGraceEnd, hmove, hgrace, Nat.not_lt.mpr hlate, Bool.false_eq_true, or_self, if_false]

end

/-! ### The obligation on moves -/

/-- Settles O32: the move is found by its old trunk and tunnel ID, and its state says how it goes on. -/
theorem tunnelMoves : Obligations.TunnelMoves := by
  unfold Obligations.TunnelMoves
  refine fun s n tid m hrun hmove => ⟨?complete, ?waits, ?timeout, ?grace⟩
  case complete => exact fun hdone hdrained => act_effect hrun (moveComplete_drained hmove hdone hdrained)
  case waits => exact fun _ hheld => act_unchanged (moveComplete_waits hmove hheld)
  case timeout => exact fun r hdone hlate hr => act_effect hrun (moveTimeout_discards hmove hdone hlate hr)
  case grace => exact fun hgrace hlate => act_effect hrun (moveGraceEnd_ends hmove hgrace hlate)

end Sys2Proof.Machine
end

section
/-!
PROOFS. What tunnels carry (R218, R220, R232-R235, R240, R243, R244, R265): what a message, a packet, a frame and a waiting request come
down to, case by case, and the obligation TunnelMessages assembled from that.
-/
namespace Sys2Proof.Machine

/-! ### Control and time messages (R232, R235) -/

theorem hello_answered {h g : Hub} {n u0 : Nat} {ends : List EndInfo} (hup : controlUp h n = true)
    (hg : g = sendControl (wr h (aTunHello n) (W (bitsOf u0 56 8 * 2 ^ 24 + bitsOf u0 40 16))) n 0 64
      [2 ^ 56 + n * 2 ^ 53 + fld (wr h (aTunHello n) (W (bitsOf u0 56 8 * 2 ^ 24 + bitsOf u0 40 16))) aTimHubTag 0 16 * 2 ^ 24])
    (hends : ends = (endsIn g.regs).filter (fun e => decide (e.sp = n))) :
    hello n u0 h =
      let docks := (List.range 64).filter (fun d => ends.any (fun e => decide (e.dock = d)))
      let h := docks.foldl (fun h d => dockStateMsg h n d (reportedState h d)) (ends.foldl (fun h e => notice h n 1 e) g)
      (docks.filter (fun d => ends.any (fun e => decide (e.dock = d) && decide (e.type = 2)))).foldl usbDefault h := by
  simp only [hello, hup, Bool.not_true, Bool.false_eq_true, if_false, ← hg, ← hends]

section
variable {h : Hub} {n tid : Nat} {e : EndInfo} (cookie : Nat) (hend : resolveEnd h n tid = some e) (htype : e.type = 4)
include hend htype

theorem timeQuery_answered (hgate : gatesClosed h e.dock = false) : timeQuery n tid cookie h = timeReply h e cookie := by
  simp only [timeQuery, hend, htype, hgate, ne_eq, not_true_eq_false, Bool.false_eq_true, if_false]

theorem timeQuery_dropped (hgate : gatesClosed h e.dock = true) : timeQuery n tid cookie h = count h (aVdkCntFrozenDrop e.dock) 1 := by
  simp only [timeQuery, hend, htype, hgate, ne_eq, not_true_eq_false, if_true, if_false]

end

/-! ### Packets that enter a switch port (R155, R156, R218) -/

/-- The hub with a packet taken off its port's link. -/
def offLink (h : Hub) (sp : Nat) (p : TunPacket) : Hub := { h with arrived := dropFirst (fun e => decide (e = (sp, p))) h.arrived }

section
variable {h : Hub} {sp : Nat} {p : TunPacket}

/-- A trunk brings a packet that came off its link before, or any while its link is up. -/
theorem trunkBrings (hbrings : h.arrived.contains (sp, p) = true ∨ controlUp h sp = true) :
    ¬ (sp < 8 ∧ (!h.arrived.contains (sp, p)) = true ∧ (!controlUp h sp) = true) := by
  rintro ⟨-, hnew, hdown⟩
  rcases hbrings with hbrings | hbrings
  · rw [hbrings] at hnew; cases hnew
  · rw [hbrings] at hdown; cases hdown

theorem tunnelPacket_dropped (htrunk : sp < 8) (hbrings : h.arrived.contains (sp, p) = true ∨ controlUp h sp = true)
    (hdrops : trunkDrops p = true) : tunnelPacket sp p h = count (offLink h sp p) (aTrkCntDrop sp) 1 :=
  (if_neg (trunkBrings hbrings)).trans (if_pos ⟨htrunk, hdrops⟩)

/-- A packet that its port lets in is counted and goes on by the kind of its port. -/
theorem tunnelPacket_enters {f : Hub} {x : Option EndInfo}
    (hlet : sp < 8 → (h.arrived.contains (sp, p) = true ∨ controlUp h sp = true) ∧ trunkDrops p = false)
    (hf : f = offLink h sp p) (hx : x = resolveEnd f sp p.hdr.tid.toNat) :
    tunnelPacket sp p h =
      let g := tally f 0x20 0x0200 1 (some ⟨sp, (x.map (·.dock)).getD 64, (x.map (·.cls)).getD 0, memAddr p.hdr.type.toNat p.payload⟩)
      if sp < 8 then trunkIn g sp p else portIn g sp { p with hdr := { p.hdr with mark := false } } := by
  have hkept : ¬ (sp < 8 ∧ trunkDrops p = true) := fun hdrop => by
    rw [(hlet hdrop.1).2] at hdrop
    cases hdrop.2
  have hbrought : ¬ (sp < 8 ∧ (!h.arrived.contains (sp, p)) = true ∧ (!controlUp h sp) = true) := fun hno =>
    trunkBrings (hlet hno.1).1 hno
  subst hf hx
  simp only [tunnelPacket, if_neg hbrought, if_neg hkept, offLink]

end

/-! ### Packets of a trunk (R218, R220, R386) -/

section
variable {g : Hub} {n : Nat} {p : TunPacket}

theorem trunkIn_control (hzero : p.hdr.tid = 0) : trunkIn g n p = controlIn g n p := if_pos hzero

variable (htid : p.hdr.tid ≠ 0)
include htid

theorem trunkIn_noEnd (hend : resolveEnd g n p.hdr.tid.toNat = none) : trunkIn g n p = noRoute g n 64 := by
  simp only [trunkIn, if_neg htid, hend]

section
variable {e : EndInfo} {h : Hub} (hend : resolveEnd g n p.hdr.tid.toNat = some e)
include hend

/-- The checks of its key stop a packet (R181). -/
theorem trunkIn_unopened (hopen : openIn g n e p = (h, none)) : trunkIn g n p = h := by
  simp only [trunkIn, if_neg htid, hend, hopen]

variable {o r : TunPacket} (hopen : openIn g n e p = (h, some o)) (hr : r = { o with hdr := { o.hdr with mark := false } })
include hopen hr

/-- A packet that its end's key lets through goes on by the type of the end, while the end takes it. -/
theorem trunkIn_opened :
    trunkIn g n p =
      if r.hdr.type.toNat ≠ e.type then typeErr h
      else if gatesClosed h e.dock ∧ !(e.type = 1 ∧ r.hdr.kind = 2) then count h (aVdkCntFrozenDrop e.dock) 1
      else match e.type with
        | 1 => pcieIn h n e r
        | 2 => usbIn h n e r
        | 3 => ethIn h n e r
        | 4 => timeIn h n e r
        | _ => peerIn h n e r := by
  subst hr
  simp only [trunkIn, if_neg htid, hend, hopen] <;> rfl

end

end

/-! ### Ethernet (R231, R243, R244) -/

section
variable {h g : Hub} {n : Nat} {frame : List Byte}

/-- A frame of a port that is up and not retired is counted, and judged by its check sequence and length. -/
theorem ethernetFrame_counted (fcsOk : Bool) (hthere : n < h.part.res.eth) (hup : bitOf h.tun.ethUp.toNat n = true)
    (hservice : retired h 7 n = false)
    (hg : g = tally (tally h (0xD0 + n) 0x0D01 1 (some ⟨16 + n, 64, 0, none⟩)) (0xD0 + n) 0x0D02 frame.length
      (some ⟨16 + n, 64, 0, none⟩)) :
    ethernetFrame n frame fcsOk h =
      if !fcsOk ∨ 9216 < frame.length ∨ frame.length < 14 then (if fcsOk then g else tally g (0xD0 + n) 0x0D03 1 none)
      else if ingressFull g (16 + n) then count g (aSwcCntIndrop (16 + n)) 1
      else
        let docks := (classify g n frame).filter (fun d => (portEndOf g (16 + n) d).isSome)
        let h := if docks = [] then count g aTunCntEthNoclass 1 else g
        let h := if 8 < docks.length then count h aTunCntEthReplDrop 1 else h
        (docks.take 8).foldl (fun h d => frameTo h n frame d) h := by
  have hport : ¬ (h.part.res.eth ≤ n ∨ (!bitOf h.tun.ethUp.toNat n) = true ∨ retired h 7 n = true) := by
    simp only [hup, hservice, Bool.not_true, Bool.false_eq_true, or_false]
    omega
  subst hg
  exact if_neg hport

end

theorem stationAge_forgets {h : Hub} {k : Nat} {v : Dev} (hdev : tfind h.tun.devs k = some v) (hkind : v.kind = 3)
    (hages : fld h aTunCfg 24 8 ≠ 0) (hold : fld h aTunCfg 24 8 * 8000 ≤ edgesSince h v.edge) : stationAge k h = detach h k := by
  simp only [stationAge, hdev]
  exact if_pos ⟨hkind, hages, hold⟩

/-! ### Requests that wait (R240, R265) -/

theorem tagWaitEnd_retries {h : Hub} {x : Nat × TunPacket} (hfirst : h.tun.waitTag.find? (waitReady h) = some x)
    (htag : h.tun.tags.length < 4096 ∨ x.2.hdr.kind = 0xF) :
    tagWaitEnd h = retryWait { h with tun := { h.tun with waitTag := dropFirst (fun e => decide (e = x)) h.tun.waitTag } } x := by
  have hroom : ¬ (4096 ≤ h.tun.tags.length ∧ x.2.hdr.kind ≠ 0xF) := by
    rintro ⟨hfull, hother⟩
    exact htag.elim (Nat.not_lt.mpr hfull) hother
  simp only [tagWaitEnd, hfirst, if_neg hroom]

theorem poolWaitEnd_retries {h : Hub} {x : Nat × TunPacket} (hfirst : h.tun.waitPool.find? (waitReady h) = some x) :
    poolWaitEnd h = retryWait { h with tun := { h.tun with waitPool := dropFirst (fun e => decide (e = x)) h.tun.waitPool } } x := by
  simp only [poolWaitEnd, hfirst]

/-! ### The obligation -/

/-- Settles O33: each command runs its meaning on a running core; a packet is let in first, and then judged by its port and its end. -/
theorem tunnelMessages : Obligations.TunnelMessages := by
  unfold Obligations.TunnelMessages
  refine fun s hrun => ⟨?hello, ?timeQuery, ?dropped, ?packet, ?frame, ?station, ?tagWait, ?poolWait⟩
  case hello => exact fun n u g ends hup hg hends => act_effect hrun (hello_answered hup hg hends)
  case timeQuery =>
    rintro n tid cookie tc e g rfl hend htype
    exact ⟨fun hgate => act_effect hrun (timeQuery_answered _ hend htype hgate),
      fun hgate => act_effect hrun (timeQuery_dropped _ hend htype hgate)⟩
  case dropped => exact fun sp p htrunk hbrings hdrops => act_effect hrun (tunnelPacket_dropped htrunk hbrings hdrops)
  case packet =>
    intro sp p f g x hlet hf hx hg
    have hentered := tunnelPacket_enters hlet hf hx
    rw [← hg] at hentered
    have htrunkIn : sp.val < 8 → tunnelPacket sp.val p s.hub = trunkIn g sp.val p := fun htrunk => hentered.trans (if_pos htrunk)
    refine ⟨?port, ?control, ?noEnd, ?unopened, ?opened⟩
    case port => exact fun hport => act_effect hrun (hentered.trans (if_neg (Nat.not_lt.mpr hport)))
    case control => exact fun htrunk hzero => act_effect hrun ((htrunkIn htrunk).trans (trunkIn_control hzero))
    case noEnd => exact fun htrunk htid hend => act_effect hrun ((htrunkIn htrunk).trans (trunkIn_noEnd htid hend))
    case unopened =>
      exact fun e h htrunk htid hend hopen => act_effect hrun ((htrunkIn htrunk).trans (trunkIn_unopened htid hend hopen))
    case opened =>
      intro e h o r htrunk htid hend hopen hr
      have hjudged := (htrunkIn htrunk).trans (trunkIn_opened htid hend hopen hr)
      refine ⟨fun hother => act_effect hrun (hjudged.trans (if_pos hother)), fun hsame hgate hplain => act_effect hrun ?_,
        fun hsame hpass => act_effect hrun ?_⟩
      · exact hjudged.trans ((if_neg (not_not_intro hsame)).trans (if_pos ⟨hgate, (Bool.not_eq_true' _).mpr (decide_eq_false hplain)⟩))
      · have hopenGate : ¬ (gatesClosed h e.dock = true ∧ (!(decide (e.type = 1 ∧ r.hdr.kind = 2))) = true) := by
          rintro ⟨hclosed, hplain⟩
          rcases hpass with hgate | hcpl
          · rw [hgate] at hclosed; cases hclosed
          · rw [decide_eq_true hcpl] at hplain; cases hplain
        exact hjudged.trans ((if_neg (not_not_intro hsame)).trans (if_neg hopenGate))
  case frame =>
    intro n frame g docks hthere hup hservice hg hdocks
    have hcounted := fun fcsOk => ethernetFrame_counted (frame := frame) fcsOk hthere hup hservice hg
    have hgood : 14 ≤ frame.length → frame.length ≤ 9216 → ¬ ((!true) = true ∨ 9216 < frame.length ∨ frame.length < 14) := by
      simp only [Bool.not_true, Bool.false_eq_true, false_or]
      omega
    refine ⟨act_effect hrun (hcounted false), fun hlen => act_effect hrun ?_, fun hlo hhi hfull => act_effect hrun ?_,
      fun hlo hhi hroom => act_effect hrun ?_⟩
    · exact (hcounted true).trans ((if_pos (.inr hlen.symm)).trans (if_pos rfl))
    · exact (hcounted true).trans ((if_neg (hgood hlo hhi)).trans (if_pos hfull))
    · rw [hcounted true, if_neg (hgood hlo hhi), if_neg (Bool.eq_false_iff.mp hroom), ← hdocks]
  case station => exact fun k v hdev hkind hages hold => act_effect hrun (stationAge_forgets hdev hkind hages hold)
  case tagWait => exact fun x hfirst htag => act_effect hrun (tagWaitEnd_retries hfirst htag)
  case poolWait => exact fun x hfirst => act_effect hrun (poolWaitEnd_retries hfirst)

end Sys2Proof.Machine
end

section
/-!
PROOFS. The host's side of the bridge (R248-R251, R257-R261, R386): doorbells and the event ring's registers behind the gates of the
hub page, prefetch entries and locks, and the obligation HostFunctionCommands assembled from that.
-/
namespace Sys2Proof.Machine

/-! ### The hub page (R246, R386) -/

theorem hostGate_closed {h : Hub} {d : Nat} (hgate : gatesClosed h d = true) (f : Hub → Hub) :
    hostGate d f h = count h (aVdkCntFrozenDrop d) 1 := if_pos hgate

theorem hostGate_open {h : Hub} {d : Nat} (hgate : gatesClosed h d = false) (f : Hub → Hub) : hostGate d f h = f h :=
  if_neg (Bool.eq_false_iff.mp hgate)

/-! ### Doorbells and the event ring's registers (R248, R251) -/

section
variable {h : Hub} {d : Nat} (hcreated : dockCreated h d = true)
include hcreated

theorem doorbell_rings {k : Nat} {v : Word} {g : Hub} (hawake : hfD3 h d = false) (hg : g = wr h (aTunDb d k) v) :
    doorbell d k v.toNat h =
      raise (if flag g (aTunDbPending d) k then setFlag g (aTunDbPending d) (8 + k) true else setFlag g (aTunDbPending d) k true)
        0x06 4 0 (d * 2 ^ 16 + k) := by
  have hv : W v.toNat = v := by rw [W, BitVec.ofNat_toNat, BitVec.setWidth_eq]
  subst hg
  simp only [doorbell, hcreated, hawake, hv, Bool.not_true, Bool.or_self, Bool.false_eq_true, if_false]

/-- What a write of HF_EVR_CTL comes down to (R251). -/
theorem evrCtl_created (v : Nat) :
    evrCtl d v h =
      let e := evrAt h d
      if bitOf e.ctl 31 ∧ bitOf v 31 then
        if bitsOf v 16 4 = bitsOf e.ctl 16 4 then setEvr h d { e with ctl := putBits e.ctl 0 4 (bitsOf v 0 4) } else h
      else if bitOf v 31 ∧ !(decide (4 ≤ bitsOf v 16 4) && decide (bitsOf v 16 4 ≤ 12)) then
        setEvr h d { e with ctl := putBits e.ctl 0 4 (bitsOf v 0 4) }
      else
        let e := { e with ctl := (if bitOf v 31 then 2 ^ 31 else 0) + bitsOf v 16 4 * 2 ^ 16 + bitsOf v 0 4 }
        setEvr h d (if bitOf v 31 then { e with head := 0, tail := 0, phase := true } else e) :=
  if_neg (by simp [hcreated])

section
variable {e : Evr} {v : Nat} (he : e = evrAt h d)
include he

theorem evrCtl_sameSize (hen : bitOf e.ctl 31 = true) (hon : bitOf v 31 = true) (hsize : bitsOf v 16 4 = bitsOf e.ctl 16 4) :
    evrCtl d v h = setEvr h d { e with ctl := putBits e.ctl 0 4 (bitsOf v 0 4) } := by
  subst he
  exact (evrCtl_created hcreated v).trans ((if_pos ⟨hen, hon⟩).trans (if_pos hsize))

theorem evrCtl_otherSize (hen : bitOf e.ctl 31 = true) (hon : bitOf v 31 = true) (hsize : bitsOf v 16 4 ≠ bitsOf e.ctl 16 4) :
    evrCtl d v h = h := by
  subst he
  exact (evrCtl_created hcreated v).trans ((if_pos ⟨hen, hon⟩).trans (if_neg hsize))

theorem evrCtl_starts (hen : bitOf e.ctl 31 = false) (hon : bitOf v 31 = true) (hlo : 4 ≤ bitsOf v 16 4) (hhi : bitsOf v 16 4 ≤ 12) :
    evrCtl d v h = setEvr h d { e with
      ctl := 2 ^ 31 + bitsOf v 16 4 * 2 ^ 16 + bitsOf v 0 4, head := 0, tail := 0, phase := true } := by
  subst he
  simp [evrCtl_created hcreated, hen, hon, hlo, hhi]

theorem evrCtl_badSize (hen : bitOf e.ctl 31 = false) (hon : bitOf v 31 = true) (hsize : bitsOf v 16 4 < 4 ∨ 12 < bitsOf v 16 4) :
    evrCtl d v h = setEvr h d { e with ctl := putBits e.ctl 0 4 (bitsOf v 0 4) } := by
  subst he
  have hbad : (decide (4 ≤ bitsOf v 16 4) && decide (bitsOf v 16 4 ≤ 12)) = false := by
    simp only [Bool.and_eq_false_iff, decide_eq_false_iff_not]
    omega
  simp [evrCtl_created hcreated, hen, hon, hbad]

theorem evrCtl_stops (hoff : bitOf v 31 = false) :
    evrCtl d v h = setEvr h d { e with ctl := bitsOf v 16 4 * 2 ^ 16 + bitsOf v 0 4 } := by
  subst he
  simp [evrCtl_created hcreated, hoff]

theorem evrBase_stopped (high : Bool) (hen : bitOf e.ctl 31 = false) :
    evrBase d high v h = setEvr h d { e with base := if high then putBits e.base 32 32 v else putBits e.base 0 32 (v / 16 * 16) } := by
  subst he
  simp [evrBase, hcreated, hen]

theorem evrHead_within (hwithin : bitsOf v 0 12 < 2 ^ bitsOf e.ctl 16 4) :
    evrHead d v h = setEvr h d { e with head := bitsOf v 0 12 } := by
  subst he
  simp [evrHead, hcreated, Nat.not_le.mpr hwithin]

end

end

section
variable {h : Hub} {d v : Nat} {e : Evr} (he : e = evrAt h d)
include he

theorem evrBase_running (high : Bool) (hen : bitOf e.ctl 31 = true) : evrBase d high v h = h := by
  subst he
  simp [evrBase, hen]

theorem evrHead_past (hpast : 2 ^ bitsOf e.ctl 16 4 ≤ bitsOf v 0 12) : evrHead d v h = h := by
  subst he
  simp [evrHead, hpast]

end

/-! ### Locks (R258, R259) -/

section
variable {h : Hub} {n : Nat}

theorem lockBreak_breaks {e : Nat} {o : Nat × Nat} {g : Hub} (htaken : tfind h.tun.lockEdge n = some e) (hold : 8 ≤ edgesSince h e)
    (howner : lockOwner h n = some o) (hg : g = sendUnlock h 22 n o.1 o.2) :
    lockBreak n h =
      let broken := if g.tun.broken.contains o then g.tun.broken else g.tun.broken ++ [o]
      raise (count (lockRelease { g with tun := { g.tun with broken := broken } } n) aTunCntLockBreak 1) 0x07 1 0 0 := by
  subst hg
  simp only [lockBreak, htaken, if_pos hold, lockBroken, howner]

end

section
variable {h : Hub} {d reqId : Nat} (ing : Nat)

theorem unlock_owner {n : Nat} (howner : (List.range 8).find? (fun n => decide (lockOwner h n = some (d, reqId))) = some n) :
    unlock ing d reqId h = lockRelease (sendUnlock h ing n d reqId) n := by
  simp only [unlock, howner]

theorem unlock_other (hnone : (List.range 8).find? (fun n => decide (lockOwner h n = some (d, reqId))) = none) :
    unlock ing d reqId h = h := by
  simp only [unlock, hnone]

end

/-! ### The obligation -/

/-- Settles O34: a host reaches its page through open gates and an open tunnel; the register that it writes says the rest. -/
theorem hostFunctionCommands : Obligations.HostFunctionCommands := by
  unfold Obligations.HostFunctionCommands
  refine fun s hrun => ⟨?gates, ?doorbell, ?ring, ?expiry, ?lockBreak, ?unlock, ?unlockOther⟩
  case gates =>
    intro d k v hgate
    have hdropped : ∀ f, s.act (hubPage d.val f) = .next (s.onHub fun h => count h (aVdkCntFrozenDrop d.val) 1) :=
      fun f => act_effect hrun (hostGate_closed hgate _)
    exact ⟨hdropped _, hdropped _, fun _ => hdropped _, hdropped _⟩
  case doorbell =>
    intro d k v g hgate hend hfn hmse hcreated hawake hg
    exact act_effect hrun ((hubPage_reached hgate hend hfn hmse _).trans (doorbell_rings hcreated hawake hg))
  case ring =>
    intro d v e hgate hend hfn hmse hcreated he
    have hreaches : ∀ {f g : Hub → Hub}, f s.hub = g s.hub → s.act (hubPage d.val f) = .next (s.onHub g) :=
      fun heffect => act_effect hrun ((hubPage_reached hgate hend hfn hmse _).trans heffect)
    have hkeeps : ∀ {f : Hub → Hub}, f s.hub = s.hub → s.act (hubPage d.val f) = .next s := hreaches (g := fun h => h)
    refine ⟨?sameSize, ?otherSize, ?starts, ?badSize, ?stops, ?base, ?baseStays, ?head, ?headStays⟩
    case sameSize => exact fun hen hon hsize => hreaches (evrCtl_sameSize hcreated he hen hon hsize)
    case otherSize => exact fun hen hon hsize => hkeeps (evrCtl_otherSize hcreated he hen hon hsize)
    case starts => exact fun hen hon hlo hhi => hreaches (evrCtl_starts hcreated he hen hon hlo hhi)
    case badSize => exact fun hen hon hsize => hreaches (evrCtl_badSize hcreated he hen hon hsize)
    case stops => exact fun hoff => hreaches (evrCtl_stops hcreated he hoff)
    case base => exact fun hen => ⟨hreaches (evrBase_stopped hcreated he true hen), hreaches (evrBase_stopped hcreated he false hen)⟩
    case baseStays => exact fun hen high => hkeeps (evrBase_running he high hen)
    case head => exact fun hwithin => hreaches (evrHead_within hcreated he hwithin)
    case headStays => exact fun hpast => hkeeps (evrHead_past he hpast)
  case expiry => exact fun n => act_runs hrun _
  case lockBreak => exact fun n e o g htaken hold howner hg => act_effect hrun (lockBreak_breaks htaken hold howner hg)
  case unlock =>
    intro d id n e hend hgate howner
    refine act_effect hrun ?_
    simp only [hend, hostGate_open hgate, unlock_owner e.sp howner]
  case unlockOther =>
    intro d id e hend hgate hnone
    refine act_unchanged ?_
    simp only [hend, hostGate_open hgate, unlock_other e.sp hnone]

end Sys2Proof.Machine
end

section
/-!
PROOFS. The bridge (R241, R242, R253-R259, R268, R269, R273): where a configuration request and a locked read go, how a device's TLP is
judged, how tags and handles end, how a PCIe link comes up and goes down, and the obligation BridgeCommands assembled from that.
-/
namespace Sys2Proof.Machine

/-! ### Configuration requests (R253, R254) -/

/-- The port of a dock whose buses hold a bus. -/
def busPort (h : Hub) (d bus : Nat) : Option Nat :=
  (dockPorts h d).find? (fun n =>
    decide (0 < secBus h d (2 + n)) && decide (secBus h d (2 + n) ≤ bus) && decide (bus ≤ subBus h d (2 + n)))

section
variable {h : Hub} {e : EndInfo} {q : ConfigReq} (ing : Nat) (hdr : Hdr) (retry : Bool) (hvsw : fld h aTunVswId 0 16 ≠ 0xFFFF)
include hvsw

theorem configRequest_type0 (htype : q.type1 = false) : configRequest h ing e hdr q retry = cfgAnswer h e.dock 0 q := by
  simp only [configRequest, if_neg hvsw, htype, Bool.not_false, if_true]

variable (htype : q.type1 = true)
include htype

/-- A Type 1 request is judged by its bus. -/
theorem configRequest_type1 :
    configRequest h ing e hdr q retry =
      if q.bus.toNat = secBus h e.dock 0 then
        if q.dev = 0 then cfgAnswer h e.dock 1 q
        else if 1 ≤ q.dev.toNat ∧ q.dev.toNat ≤ 8 ∧ (dockPorts h e.dock).contains (q.dev.toNat - 1) then
          cfgAnswer h e.dock (1 + q.dev.toNat) q
        else cplHost h e.dock (configTlp q) 1 []
      else if q.bus.toNat < secBus h e.dock 0 ∨ subBus h e.dock 0 < q.bus.toNat then cplHost h e.dock (configTlp q) 1 []
      else match busPort h e.dock q.bus.toNat with
        | none => cplHost h e.dock (configTlp q) 1 []
        | some n =>
          if q.bus.toNat = secBus h e.dock (2 + n) ∧ q.dev ≠ 0 then cplHost h e.dock (configTlp q) 1 []
          else npToPort (if q.write then flushPf h n else h) ing e hdr n
            { configTlp q with type1 := decide (q.bus.toNat ≠ secBus h e.dock (2 + n)) } (configTlp q) retry :=
  (if_neg hvsw).trans (if_neg (by simp [htype]))

theorem configRequest_hubFunction (hbus : q.bus.toNat = secBus h e.dock 0) (hdev : q.dev = 0) :
    configRequest h ing e hdr q retry = cfgAnswer h e.dock 1 q := by
  rw [configRequest_type1 ing hdr retry hvsw htype, if_pos hbus, if_pos hdev]

theorem configRequest_downstream (hbus : q.bus.toNat = secBus h e.dock 0) (hlo : 1 ≤ q.dev.toNat) (hhi : q.dev.toNat ≤ 8)
    (hport : (dockPorts h e.dock).contains (q.dev.toNat - 1) = true) :
    configRequest h ing e hdr q retry = cfgAnswer h e.dock (1 + q.dev.toNat) q := by
  have hdev : q.dev ≠ 0 := fun hzero => by rw [hzero] at hlo; exact absurd hlo (by decide)
  rw [configRequest_type1 ing hdr retry hvsw htype, if_pos hbus, if_neg hdev, if_pos ⟨hlo, hhi, hport⟩]

theorem configRequest_toPort {n : Nat} (hlo : secBus h e.dock 0 < q.bus.toNat) (hhi : q.bus.toNat ≤ subBus h e.dock 0)
    (hport : busPort h e.dock q.bus.toNat = some n) (hdev : q.bus.toNat = secBus h e.dock (2 + n) → q.dev = 0) :
    configRequest h ing e hdr q retry = npToPort (if q.write then flushPf h n else h) ing e hdr n
      { configTlp q with type1 := decide (q.bus.toNat ≠ secBus h e.dock (2 + n)) } (configTlp q) retry := by
  have hthere : ¬ (q.bus.toNat = secBus h e.dock (2 + n) ∧ q.dev ≠ 0) := fun hbad => hbad.2 (hdev hbad.1)
  rw [configRequest_type1 ing hdr retry hvsw htype, if_neg (by omega), if_neg (by omega), hport]
  exact if_neg hthere

theorem configRequest_unsupported (hbus : q.bus.toNat ≠ secBus h e.dock 0)
    (hnone : q.bus.toNat < secBus h e.dock 0 ∨ subBus h e.dock 0 < q.bus.toNat ∨ busPort h e.dock q.bus.toNat = none) :
    configRequest h ing e hdr q retry = cplHost h e.dock (configTlp q) 1 [] := by
  rw [configRequest_type1 ing hdr retry hvsw htype, if_neg hbus]
  by_cases hout : q.bus.toNat < secBus h e.dock 0 ∨ subBus h e.dock 0 < q.bus.toNat
  · rw [if_pos hout]
  · obtain ⟨hlo, hhi⟩ := not_or.mp hout
    rw [if_neg hout, (hnone.resolve_left hlo).resolve_left hhi]

end

/-! ### Locked reads (R257, R259) -/

section
variable {h : Hub} {e : EndInfo} {t : Tlp} (ing : Nat) (hdr : Hdr) (retry : Bool)

theorem hostLocked_broken (hbroken : h.tun.broken.contains (e.dock, t.reqId.toNat) = true) :
    hostLocked h ing e hdr t retry =
      cplHost { h with tun := { h.tun with broken := h.tun.broken.erase (e.dock, t.reqId.toNat) } } e.dock t 4 [] := if_pos hbroken

theorem hostLocked_toPort {n : Nat} (hwhole : h.tun.broken.contains (e.dock, t.reqId.toNat) = false)
    (hport : decodeMem h e.dock t.addr.toNat t.len = .port n)
    (hone : (List.range 8).any (fun m => decide (m ≠ n) && decide ((lockOwner h m).map (·.1) = some e.dock)) = false) :
    hostLocked h ing e hdr t retry = npToPort h ing e hdr n t t retry := by
  simp only [hostLocked, hwhole, hport, hone, Bool.false_eq_true, if_false]

end

/-! ### TLPs of a device (R239, R256, R386) -/

/-- A TLP of a device whose link is up and whose end is routed is counted and judged. -/
theorem deviceTlp_counted {h g : Hub} {n : Nat} {t : Tlp} {e : EndInfo} {i : PInfo} (hend : portEnd h (8 + n) = some e)
    (hup : pcieUp h n = true) (hroute : (routeOf h (8 + n) e.tid).isSome = true)
    (hi : i = ⟨8 + n, e.dock, e.cls, memAddr 1 (tlpBytes t)⟩)
    (hg : g = tally (tally h (0xC0 + n) 0x0C01 1 (some i)) 0x20 0x0200 1 (some i)) :
    deviceTlp n t h =
      if isCpl t then devCpl g n e t
      else if gatesClosed g e.dock then g
      else if tlpClass t = 0 then devPosted g n e t
      else devNp g n e t false := by
  subst hi hg
  have hrouted : (routeOf h (8 + n) e.tid).isNone = false := Option.isNone_eq_false_iff.mpr hroute
  simp only [deviceTlp, hend, hup, hrouted, Bool.not_true, Bool.false_eq_true, if_false]

/-! ### Tags and handles (R242, R268, R269) -/

theorem discardTimer_ends {h : Hub} {k : Nat} {g : Tag} {e : Nat} (htag : tfind h.tun.tags k = some g) (hdiscard : g.discard = some e)
    (hlate : fld h aTunBrgCfg 16 11 ≤ edgesSince h e) :
    discardTimer k h =
      if g.toHost ∧ 8 ≤ g.retSp ∧ g.type = 1 then cplDev (freeTag h k false) g.dock (g.retSp - 8) g.tlp 1 else freeTag h k false := by
  simp only [discardTimer, htag, hdiscard, if_neg (Nat.not_lt.mpr hlate)]

theorem cplTimeout_frees {h : Hub} {k : Nat} {g : Tag} (htag : tfind h.tun.tags k = some g) (hlimit : fld h aTunBrgCfg 0 16 ≠ 0)
    (hlate : fld h aTunBrgCfg 0 16 ≤ edgesSince h g.issued) :
    cplTimeout k h = raise (count (freeTag h k false) aTunCntCplTimeout 1) 0x07 2 0 0 := by
  simp only [cplTimeout, htag]
  exact if_neg fun hearly => hearly.elim hlimit (Nat.not_lt.mpr hlate)

theorem handleReturn_returns {h : Hub} {n e : Nat} (hfreed : tfind h.tun.freed n = some e) (hlate : 16 ≤ edgesSince h e)
    (hunnamed : h.tun.tags.any (fun t => decide (t.2.dev = n)) = false) :
    handleReturn n h = { h with tun := { h.tun with freed := tdel h.tun.freed n } } := by
  simp only [handleReturn, hfreed, hunnamed, Nat.not_lt.mpr hlate, Bool.false_eq_true, or_self, if_false]

/-! ### Physical links (R241, R273) -/

theorem pcieLinkUp_attaches {h g : Hub} {n rate width r : Nat} {lanes : List Nat}
    (hg : g = pcieSettled { h with lns := { h.lns with x1 := tdel h.lns.x1 n } } n) (hlanes : lanes = pcieLanes g n width)
    (hsome : lanes ≠ []) (hr : r = max 1 (min 6 rate)) (hthere : n < g.part.res.pcie) (hdown : pcieUp g n = false)
    (hservice : retired g 5 n = false) :
    pcieLinkUp n rate width h =
      let h := lanes.foldl (pcieLane r) g
      attachPort { h with tun := { h.tun with plinks := tset ⟨false, 0, 0⟩ h.tun.plinks n ⟨true, r, lanes.length⟩ } } n := by
  have hmay : ¬ (g.part.res.pcie ≤ n ∨ pcieUp g n = true ∨ retired g 5 n = true ∨ lanes = []) := by
    simp only [hsome, hdown, hservice, Bool.false_eq_true, or_false]
    omega
  subst hg hlanes hr
  exact if_neg hmay

/-! ### The obligation -/

/-- Settles O35: each command runs its meaning on a running core; a host's request comes through open gates on its dock's tunnel. -/
theorem bridgeCommands : Obligations.BridgeCommands := by
  unfold Obligations.BridgeCommands
  refine fun s hrun => ⟨?config, ?locked, ?device, ?discard, ?timeout, ?handle, ?linkUp, ?linkDown⟩
  case config =>
    intro d q e hend hgate hdock hvsw
    have hcomes : ∀ {g : Hub → Hub}, configRequest s.hub e.sp e (plainHdr 1 e.tid 1 0 0 0) q false = g s.hub →
        exec (.configRequest d q) s = .next (s.onHub g) :=
      fun heffect => act_effect hrun (by simp only [hend, hostGate_open hgate, heffect])
    rw [← hdock]
    refine ⟨?type0, ?hubFunction, ?downstream, ?toPort, ?unsupported⟩
    case type0 => exact fun htype => hcomes (configRequest_type0 _ _ _ hvsw htype)
    case hubFunction => exact fun htype hbus hdev => hcomes (configRequest_hubFunction _ _ _ hvsw htype hbus hdev)
    case downstream =>
      exact fun htype hbus hlo hhi hport => hcomes (configRequest_downstream _ _ _ hvsw htype hbus hlo hhi hport)
    case toPort =>
      exact fun n htype hlo hhi hport hdev => hcomes (configRequest_toPort _ _ _ hvsw htype hlo hhi hport hdev)
    case unsupported => exact fun htype hbus hnone => hcomes (configRequest_unsupported _ _ _ hvsw htype hbus hnone)
  case locked =>
    intro d t e hend hgate hdock
    have hcomes : ∀ {g : Hub → Hub},
        hostLocked s.hub e.sp e (plainHdr 1 e.tid 1 0 0 0) { t with kind := .memRdLk } false = g s.hub →
        exec (.mrdlk d t) s = .next (s.onHub g) :=
      fun heffect => act_effect hrun (by simp only [hend, hostGate_open hgate, heffect])
    rw [← hdock]
    exact ⟨fun hbroken => hcomes (hostLocked_broken _ _ _ hbroken),
      fun n hwhole hport hone => hcomes (hostLocked_toPort _ _ _ hwhole hport hone)⟩
  case device =>
    intro n t e i g hend hup hroute hi hg
    have hjudged := deviceTlp_counted hend hup hroute hi hg
    have hrequest : isCpl t = false → gatesClosed g e.dock = false →
        deviceTlp n.val t s.hub = if tlpClass t = 0 then devPosted g n e t else devNp g n e t false := fun hcpl hgate =>
      hjudged.trans ((if_neg (Bool.eq_false_iff.mp hcpl)).trans (if_neg (Bool.eq_false_iff.mp hgate)))
    refine ⟨?completion, ?frozen, ?posted, ?nonPosted⟩
    case completion => exact fun hcpl => act_effect hrun (hjudged.trans (if_pos hcpl))
    case frozen =>
      exact fun hcpl hgate => act_effect hrun (hjudged.trans ((if_neg (Bool.eq_false_iff.mp hcpl)).trans (if_pos hgate)))
    case posted => exact fun hcpl hgate hclass => act_effect hrun ((hrequest hcpl hgate).trans (if_pos hclass))
    case nonPosted => exact fun hcpl hgate hclass => act_effect hrun ((hrequest hcpl hgate).trans (if_neg hclass))
  case discard => exact fun k g e htag hdiscard hlate => act_effect hrun (discardTimer_ends htag hdiscard hlate)
  case timeout => exact fun k g htag hlimit hlate => act_effect hrun (cplTimeout_frees htag hlimit hlate)
  case handle => exact fun n e hfreed hlate hunnamed => act_effect hrun (handleReturn_returns hfreed hlate hunnamed)
  case linkUp =>
    exact fun n rate width g lanes r hg hlanes hsome hr hthere hdown hservice =>
      act_effect hrun (pcieLinkUp_attaches hg hlanes hsome hr hthere hdown hservice)
  case linkDown => exact fun n hup => act_effect hrun (if_neg (by simp [hup]))

end Sys2Proof.Machine
end

section
/-!
PROOFS. The switch core's commands (R279, R286, R289, R293, R300, R301): what each meaning comes down to once its guard is met, and the
obligation SwitchCoreCommands assembled from that.
-/
namespace Sys2Proof.Machine

/-! ### Entering and spilling (R279, R225, R293) -/

section
variable {h : Hub} {j : Nat}

theorem packetEntry_none (hnone : nextEntry h j [] (tget [] h.swc.entry j) = none) : packetEntry j h = h := by
  simp only [packetEntry, hnone]

section
variable {p : Pkt} {ps : List Pkt} {rest : Hub} (hnext : nextEntry h j [] (tget [] h.swc.entry j) = some (p, ps))
  (hrest : rest = { h with swc := { h.swc with entry := tset [] h.swc.entry j ps } })
include hnext hrest

theorem packetEntry_enters (hmove : heldMove h p = none) : packetEntry j h = enterCore rest p := by
  simp only [packetEntry, hnext, hmove, hrest]

theorem packetEntry_joinsMove {m : Move} (hmove : heldMove h p = some m) :
    packetEntry j h = { rest with tun := { rest.tun with
      moves := rest.tun.moves.map (fun x => if x = m then { x with held := x.held ++ [p] } else x) } } := by
  simp only [packetEntry, hnext, hmove, hrest]

end

theorem barrelWrite_due {q : Nat} {m : Mem} (hcells : (queueAt h q).openCells ≠ [])
    (hdue : (queueAt h q).openCells.length = 16 ∨ (queueAt h q).openFrom + 3200 ≤ h.tim.coreClk) :
    barrelWrite q m h = writeBarrel m h q := if_pos ⟨hcells, hdue⟩

end

/-! ### Fences (R300, R301, R236) -/

section
variable {h : Hub} {d : Nat} {f : Fence}

theorem fenceStart_starts {g : Hub} {m old : List Nat} (hwaits : h.swc.waiting.contains d = true)
    (hfree : tfind h.swc.fences d = none) (hfew : h.swc.fences.length < 8)
    (hg : g = setFlag { h with swc := { h.swc with waiting := h.swc.waiting.filter (· ≠ d) } } (aSwcGrpStatus d) 30 false)
    (hmap : newMap g d (dockMask h d) = some m) (hold : old = (List.range 256).map (mapTrunk g d))
    (hchanges : m ≠ old ∨ mapMask g d ≠ dockMask h d)
    (hf : f = ⟨fenceNo g, mapMask g d, dockMask h d, m,
      BitVec.ofNat 256 (maskOf 256 (fun b => decide ((m[b]?).getD 8 ≠ (old[b]?).getD 8))), 0, g.tim.edges, [], []⟩) :
    fenceStart d h =
      let h := setFld g aSwcFenceStatus 16 16 ((f.no + 1) % 65536)
      let h := setFld (setFlag h (aSwcGrpStatus d) 31 true) (aSwcGrpStatus d) 0 16 f.no
      let h := { h with swc := { h.swc with fences := tput h.swc.fences d f } }
      (members (f.oldMask ||| f.newMask)).foldl (fun h n =>
        if trkState h n = 7 then
          sendControl h n 3 64 [f.no * 2 ^ 48 + d * 2 ^ 40 + f.oldMask * 2 ^ 32 + f.newMask * 2 ^ 24] else h) h := by
  have hready : ¬ ((!h.swc.waiting.contains d) = true ∨ (tfind h.swc.fences d).isSome = true ∨ 8 ≤ h.swc.fences.length) := by
    simp only [hwaits, hfree, Bool.not_true, Option.isSome_none, Bool.false_eq_true, false_or]
    omega
  have hnew : ¬ (m = (List.range 256).map (mapTrunk g d) ∧ mapMask g d = dockMask h d) := fun ⟨hsame, hmask⟩ =>
    hchanges.elim (· (hsame.trans hold.symm)) (· hmask)
  subst hold hf
  simp only [fenceStart, if_neg hready, ← hg, hmap, if_neg hnew]

theorem fenceAck_counts {n u0 : Nat} (hfence : tfind h.swc.fences (bitsOf u0 40 6) = some f) (hno : f.no = bitsOf u0 48 16)
    (hmember : bitOf (f.oldMask ||| f.newMask) n = true) :
    fenceAck n u0 h = { h with swc := { h.swc with fences := tput h.swc.fences (bitsOf u0 40 6) { f with
      acked := f.acked ||| 2 ^ n, upto := if bitOf f.acked n then f.upto else tput f.upto n h.swc.nextPkt } } } := by
  have hmeant : ¬ (f.no ≠ bitsOf u0 48 16 ∨ (!bitOf (f.oldMask ||| f.newMask) n) = true) := by simp [hno, hmember]
  simp only [fenceAck, hfence, if_neg hmeant]

theorem fenceEnd_closes (hfence : tfind h.swc.fences d = some f) (hover : fenceOver h d f = true) :
    fenceEnd d h = fenceClose h d f := by
  simp only [fenceEnd, hfence, if_pos hover]

theorem fenceTimeout_discards {r : Hub × List Pkt} (hfence : tfind h.swc.fences d = some f)
    (hlate : fld h aSwcFenceCfg 16 8 ≤ edgesSince h f.edge) (hr : r = purge h (oldBound h d f)) :
    fenceTimeout d h =
      raise (fenceClose (r.2.foldl (fun h p => count h (aSwcCntLost p.egr) 1) r.1) d f) 0x08 4 0 0 := by
  simp only [fenceTimeout, hfence, if_neg (Nat.not_lt.mpr hlate), hr]

end

/-! ### The obligation on the switch core's commands -/

/-- Settles O28: each command runs its meaning on a running core, and the lemmas above say what that meaning comes down to under the
hypotheses of its clause. -/
theorem switchCoreCommands : Obligations.SwitchCoreCommands := by
  unfold Obligations.SwitchCoreCommands
  refine fun s hrun => ⟨?entry, ?keptBack, ?barrel, ?relink, ?start, ?ack, ?fenceEnd, ?timeout⟩
  case entry =>
    intro j p ps rest g hnext hrest hfree hheld
    have hentered : packetEntry j.val s.hub = g := by
      cases hmove : heldMove s.hub p with
      | none => exact (packetEntry_enters hnext hrest hmove).trans (hfree hmove).symm
      | some m => exact (packetEntry_joinsMove hnext hrest hmove).trans (hheld m hmove).symm
    exact act_effect hrun (by rw [hentered])
  case keptBack => exact fun j hnone => act_effect hrun (by rw [packetEntry_none hnone])
  case barrel =>
    rintro q k x rfl - hcells hdue
    refine (actMem_runs hrun _).trans ?_
    rw [barrelWrite_due hcells hdue]
  case relink =>
    rintro r rfl
    exact actMem_runs hrun _
  case start =>
    intro d m old f g hwaits hfree hfew hg hmap hold hchanges hf
    exact act_effect hrun (fenceStart_starts hwaits hfree hfew hg hmap hold hchanges hf)
  case ack => exact fun n u f hfence hno hmember => act_effect hrun (fenceAck_counts hfence hno hmember)
  case fenceEnd => exact fun d f hfence hover => act_effect hrun (fenceEnd_closes hfence hover)
  case timeout => exact fun d f r hfence hlate hr => act_effect hrun (fenceTimeout_discards hfence hlate hr)

end Sys2Proof.Machine
end

section
/-!
PROOFS. The flow hash and the map in force of a group (R298): the CRC over 32 bits is the CRC over their four bytes and stays below
2^16, and the obligation FlowBuckets assembled from that.
-/
namespace Sys2Proof.Machine

/-! ### Bits by bytes -/

theorem bitsMsb_eq_testBit (n v : Nat) : bitsMsb n v = (List.range n).map (fun i => v.testBit (n - 1 - i)) :=
  List.map_congr_left fun _ _ => Nat.testBit_eq_decide_div_mod_eq.symm

/-- The high bits come before the low ones. -/
theorem bitsMsb_add (m n v : Nat) : bitsMsb (m + n) v = bitsMsb m (v / 2 ^ n) ++ bitsMsb n v := by
  simp only [bitsMsb_eq_testBit, Nat.testBit_div_two_pow, List.range_add, List.map_append, List.map_map]
  congr 1
  · refine List.map_congr_left fun i hi => congrArg v.testBit ?_
    have hlt := List.mem_range.mp hi
    omega
  · exact List.map_congr_left fun i _ => congrArg v.testBit (show m + n - 1 - (m + i) = n - 1 - i by omega)

theorem bitsMsb_mod (n v : Nat) : bitsMsb n (v % 2 ^ n) = bitsMsb n v := by
  simp only [bitsMsb_eq_testBit, Nat.testBit_mod_two_pow]
  refine List.map_congr_left fun i hi => ?_
  have hlt := List.mem_range.mp hi
  rw [decide_eq_true (by omega), Bool.true_and]

theorem bitsMsb_bytes (v : Nat) :
    bitsMsb 32 v = [v / 2 ^ 24 % 2 ^ 8, v / 2 ^ 16 % 2 ^ 8, v / 2 ^ 8 % 2 ^ 8, v % 2 ^ 8].flatMap (bitsMsb 8) := by
  simp only [List.flatMap_cons, List.flatMap_nil, List.append_nil, bitsMsb_mod]
  rw [bitsMsb_add 8 24, bitsMsb_add 8 16, bitsMsb_add 8 8]

/-! ### The CRC and the bucket (R298) -/

theorem crcBit_lt {width poly : Nat} (hpoly : poly < 2 ^ width) (c : Nat) (b : Bool) : crcBit width poly c b < 2 ^ width := by
  have hshifted : c * 2 % 2 ^ width < 2 ^ width := Nat.mod_lt _ (Nat.two_pow_pos width)
  unfold crcBit
  dsimp only
  split
  · exact Nat.xor_lt_two_pow hshifted hpoly
  · exact hshifted

theorem crc16_lt (bits : List Bool) : crc16 bits < 2 ^ 16 :=
  List.foldlRecOn (motive := (· < 2 ^ 16)) bits (crcBit 16 0x1021) (by decide) fun c _ b _ => crcBit_lt (by decide) c b

theorem flowBucket_lt (tid flow : Nat) : flowBucket tid flow < 256 := by
  have hcrc : crc16Of 32 (tid % 4096 * 65536 + flow % 65536) < 2 ^ 16 := crc16_lt _
  exact Nat.xor_lt_two_pow (n := 8) (by omega) (by omega)

theorem crc16Of_tidFlow {tid flow : Nat} (htid : tid < 4096) (hflow : flow < 65536) :
    crc16Of 32 (tid % 4096 * 65536 + flow % 65536) =
      crc16 ([tid / 256, tid % 256, flow / 256, flow % 256].flatMap (bitsMsb 8)) := by
  rw [crc16Of, bitsMsb_bytes, show (tid % 4096 * 65536 + flow % 65536) / 2 ^ 24 % 2 ^ 8 = tid / 256 by omega,
    show (tid % 4096 * 65536 + flow % 65536) / 2 ^ 16 % 2 ^ 8 = tid % 256 by omega,
    show (tid % 4096 * 65536 + flow % 65536) / 2 ^ 8 % 2 ^ 8 = flow / 256 by omega,
    show (tid % 4096 * 65536 + flow % 65536) % 2 ^ 8 = flow % 256 by omega]

/-! ### The map in force (R298, R299) -/

theorem mapTrunk_member {h : Hub} {d b n : Nat}
    (hmember : (members (mapMask h d))[fld h (aSwcGrpMap d (b / 16)) (2 * (b % 16)) 2]? = some n) : mapTrunk h d b = n := by
  rw [mapTrunk, hmember, Option.getD_some]

/-- Without a fence of its source or its group a packet goes where the map in force sends its bucket. -/
theorem routeIn_mapped {h : Hub} {p : Pkt} {d b n : Nat} (hgroup : groupDock h p = some d) (hfence : tfind h.swc.fences d = none)
    (hsource : tfind h.swc.fences p.src = none) (hactive : (members (mapMask h d)).any (fun k => decide (capacity h k ≠ 0)) = true)
    (hbucket : b = flowBucket p.hdr.tid.toNat p.hdr.flow.toNat) (hmap : mapTrunk h d b = n) :
    routeIn h p = queueIn h { p with bucket := some b, egr := n } := by
  have hsome : (members (mapMask h d)).all (fun k => decide (capacity h k = 0)) = false := by
    simpa [List.all_eq_false] using hactive
  simp only [routeIn, hsource, hgroup, hfence, hsome, ← hbucket, hmap, Bool.false_eq_true, if_false]

/-! ### The obligation on flow buckets -/

/-- Settles O51: the bytes of TID and FLOW are the bits that the bucket's CRC takes, and the map in force names the member. -/
theorem flowBuckets : Obligations.FlowBuckets := by
  unfold Obligations.FlowBuckets
  refine ⟨?check, ?bucket, ?member⟩
  case check => decide +kernel
  case bucket =>
    rintro tid flow x htid hflow rfl
    rw [← crc16Of_tidFlow htid hflow]
    exact ⟨rfl, flowBucket_lt tid flow⟩
  case member =>
    intro h p d b n hgroup hfence hsource hactive hbucket hmember
    exact routeIn_mapped hgroup hfence hsource hactive hbucket (mapTrunk_member hmember)

end Sys2Proof.Machine
end

section
/-!
PROOFS. The targets of a group's members (R299): among members ranked by fraction and then by number, those of the lowest ranks share
out the buckets that the floors leave over; and the obligation BucketTargetsFill assembled from that.
-/
namespace Sys2Proof.Machine

/-! ### Lists without repetition, and sums -/

theorem nodup_map_of_inj {α β : Type} {f : α → β} {l : List α} (hinj : ∀ x ∈ l, ∀ y ∈ l, f x = f y → x = y) (hnodup : l.Nodup) :
    (l.map f).Nodup :=
  List.pairwise_map.mpr (List.Pairwise.imp_of_mem (fun {x y} hx hy hne heq => hne (hinj x hx y hy heq)) hnodup)

/-- Different numbers below their count are all the numbers below it: at most k of them lie below k, and at most the rest do not. -/
theorem countP_lt_of_nodup {ranks : List Nat} {k : Nat} (hnodup : ranks.Nodup) (hbelow : ∀ r ∈ ranks, r < ranks.length)
    (hk : k ≤ ranks.length) : ranks.countP (fun r => decide (r < k)) = k := by
  have hlow : (ranks.filter (fun r => decide (r < k))).length ≤ (List.range k).length :=
    List.Nodup.length_le_of_subset (List.Pairwise.filter _ hnodup)
      fun r hr => List.mem_range.mpr (of_decide_eq_true (List.mem_filter.mp hr).2)
  have hhigh : (ranks.filter (fun r => decide (¬ decide (r < k) = true))).length ≤ (List.range' k (ranks.length - k)).length := by
    refine List.Nodup.length_le_of_subset (List.Pairwise.filter _ hnodup) fun r hr => List.mem_range'_1.mpr ?_
    obtain ⟨hmem, hge⟩ := List.mem_filter.mp hr
    have hlt := hbelow r hmem
    simp only [decide_eq_true_eq] at hge
    omega
  have hall := List.length_eq_countP_add_countP (fun r => decide (r < k)) (l := ranks)
  rw [← List.countP_eq_length_filter, List.length_range] at hlow
  rw [← List.countP_eq_length_filter, List.length_range'] at hhigh
  omega

section
variable {α : Type} (f g : α → Nat) (l : List α)

theorem foldl_add_eq_sum : l.foldl (fun a x => a + f x) 0 = (l.map f).sum := by
  rw [List.sum_eq_foldl_nat, List.foldl_map]

theorem sum_map_add : (l.map (fun x => f x + g x)).sum = (l.map f).sum + (l.map g).sum := by
  induction l with
  | nil => rfl
  | cons x l ih =>
    simp only [List.map_cons, List.sum_cons]
    omega

theorem sum_map_mul_left (c : Nat) : (l.map (fun x => c * f x)).sum = c * (l.map f).sum := by
  induction l with
  | nil => rfl
  | cons x l ih => simp only [List.map_cons, List.sum_cons, ih, Nat.mul_add]

theorem sum_ite_one (p : α → Prop) [DecidablePred p] : (l.map (fun x => if p x then 1 else 0)).sum = l.countP (fun x => decide (p x)) := by
  induction l with
  | nil => rfl
  | cons x l ih => simp only [List.map_cons, List.sum_cons, List.countP_cons, ih, decide_eq_true_eq, Nat.add_comm]

end

/-! ### Ranks by fraction (R299) -/

/-- Does m come before n, by the larger fraction or by the lower number of two of the same fraction? -/
def aheadOf (frac : Nat → Nat) (m n : Nat) : Bool := decide (frac n < frac m) || (decide (frac m = frac n) && decide (m < n))

/-- The number of members that come before n. -/
def rankIn (frac : Nat → Nat) (l : List Nat) (n : Nat) : Nat := l.countP (fun m => aheadOf frac m n)

section
variable {frac : Nat → Nat} {l : List Nat} {m n : Nat}

theorem aheadOf_iff : aheadOf frac m n = true ↔ frac n < frac m ∨ (frac m = frac n ∧ m < n) := by
  simp [aheadOf]

theorem aheadOf_irrefl : aheadOf frac n n = false := by simp [aheadOf]

theorem aheadOf_trans {k : Nat} (hkm : aheadOf frac k m = true) (hmn : aheadOf frac m n = true) : aheadOf frac k n = true := by
  rw [aheadOf_iff] at *
  omega

theorem aheadOf_total (hne : m ≠ n) : aheadOf frac m n = true ∨ aheadOf frac n m = true := by
  simp only [aheadOf_iff]
  omega

/-- A member with all that come before it, all of them in a list, is no more than the list. -/
theorem rankIn_lt_of_subset {l' : List Nat} (hnodup : l.Nodup) (hn : n ∈ l') (hsub : ∀ k ∈ l, aheadOf frac k n = true → k ∈ l') :
    rankIn frac l n < l'.length := by
  have hcons : (n :: l.filter (fun k => aheadOf frac k n)).Nodup :=
    List.nodup_cons.mpr ⟨fun hmem => Bool.eq_false_iff.mp aheadOf_irrefl (List.mem_filter.mp hmem).2, List.Pairwise.filter _ hnodup⟩
  rw [rankIn, List.countP_eq_length_filter]
  refine List.Nodup.length_le_of_subset hcons fun k hk => ?_
  rcases List.mem_cons.mp hk with rfl | hk
  · exact hn
  · obtain ⟨hmem, hahead⟩ := List.mem_filter.mp hk
    exact hsub k hmem hahead

theorem rankIn_lt_length (hnodup : l.Nodup) (hn : n ∈ l) : rankIn frac l n < l.length :=
  rankIn_lt_of_subset hnodup hn fun _ hk _ => hk

theorem rankIn_lt_rankIn (hnodup : l.Nodup) (hm : m ∈ l) (hahead : aheadOf frac m n = true) : rankIn frac l m < rankIn frac l n := by
  rw [rankIn.eq_def frac l n, List.countP_eq_length_filter]
  exact rankIn_lt_of_subset hnodup (List.mem_filter.mpr ⟨hm, hahead⟩)
    fun _ hk hkm => List.mem_filter.mpr ⟨hk, aheadOf_trans hkm hahead⟩

theorem rankIn_inj (hnodup : l.Nodup) (hm : m ∈ l) (hn : n ∈ l) (hrank : rankIn frac l m = rankIn frac l n) : m = n := by
  refine Decidable.byContradiction fun hne => ?_
  rcases aheadOf_total hne with hahead | hahead
  · exact Nat.ne_of_lt (rankIn_lt_rankIn hnodup hm hahead) hrank
  · exact Nat.ne_of_lt (rankIn_lt_rankIn hnodup hn hahead) hrank.symm

theorem nodup_ranks (hnodup : l.Nodup) : (l.map (rankIn frac l)).Nodup :=
  nodup_map_of_inj (fun _ hm _ hn => rankIn_inj hnodup hm hn) hnodup

/-- As many members have a rank below k as k says. -/
theorem countP_rankIn_lt (hnodup : l.Nodup) {k : Nat} (hk : k ≤ l.length) : l.countP (fun n => decide (rankIn frac l n < k)) = k := by
  have hbelow : ∀ r ∈ l.map (rankIn frac l), r < (l.map (rankIn frac l)).length := fun r hr => by
    obtain ⟨n, hn, rfl⟩ := List.mem_map.mp hr
    rw [List.length_map]
    exact rankIn_lt_length hnodup hn
  have hranks := countP_lt_of_nodup (k := k) (nodup_ranks hnodup) hbelow (by rwa [List.length_map])
  rwa [List.countP_map] at hranks

/-- A member whose fraction is nothing comes behind all that have one. -/
theorem countP_pos_le_rankIn (hzero : frac n = 0) : l.countP (fun m => decide (0 < frac m)) ≤ rankIn frac l n :=
  List.countP_mono_left fun _ _ hpos => aheadOf_iff.mpr (.inl (hzero ▸ of_decide_eq_true hpos))

end

/-! ### Floors and what they leave over (R299) -/

section
variable (f : Nat → Nat) (c : Nat) (l : List Nat)

theorem sum_div_add_sum_mod : c * (l.map (fun n => f n / c)).sum + (l.map (fun n => f n % c)).sum = (l.map f).sum := by
  rw [← sum_map_mul_left, ← sum_map_add]
  exact congrArg List.sum (List.map_congr_left fun n _ => Nat.div_add_mod (f n) c)

theorem sum_mod_le (hc : 0 < c) : (l.map (fun n => f n % c)).sum ≤ c * l.countP (fun n => decide (0 < f n % c)) := by
  induction l with
  | nil => exact Nat.zero_le _
  | cons n l ih =>
    have hmod := Nat.mod_lt (f n) hc
    rw [List.map_cons, List.sum_cons, List.countP_cons, Nat.mul_add]
    by_cases hpos : 0 < f n % c
    · rw [if_pos (decide_eq_true hpos)]
      omega
    · rw [if_neg (by simpa using hpos)]
      omega

/-- The floors of t shares leave at most one over for each that has a fraction. -/
theorem leftover_le {t : Nat} (hc : 0 < c) (hsum : (l.map f).sum = c * t) :
    (l.map (fun n => f n / c)).sum ≤ t ∧
      t - (l.map (fun n => f n / c)).sum ≤ l.countP (fun n => decide (0 < f n % c)) := by
  have hparts := sum_div_add_sum_mod f c l
  have hmods := sum_mod_le f c l hc
  rw [hsum] at hparts
  refine ⟨Nat.le_of_mul_le_mul_left (by omega) hc, Nat.le_of_mul_le_mul_left ?_ hc⟩
  rw [Nat.mul_sub]
  omega

end

/-! ### Targets (R299) -/

/-- The capacity of all members of a mask. -/
def groupCapacity (h : Hub) (mask : Nat) : Nat := ((members mask).map (capacity h)).sum

/-- What a member's share of the 256 buckets exceeds its floor by, in parts of the group's capacity. -/
def shareFrac (h : Hub) (mask n : Nat) : Nat := 256 * capacity h n % groupCapacity h mask

/-- What the floors of the shares leave over of the 256 buckets. -/
def leftover (h : Hub) (mask : Nat) : Nat := 256 - ((members mask).map (fun n => 256 * capacity h n / groupCapacity h mask)).sum

/-- The target of a member: the floor of its share, and one of what is left over where its rank is low enough. -/
def memberTarget (h : Hub) (mask n : Nat) : Nat :=
  256 * capacity h n / groupCapacity h mask + if rankIn (shareFrac h mask) (members mask) n < leftover h mask then 1 else 0

section
variable {h : Hub} {mask n : Nat}

theorem targets_eq : targets h mask = (members mask).map (fun n => (n, memberTarget h mask n)) := by
  simp only [targets, foldl_add_eq_sum, List.map_map, List.filter_map, List.length_map, ← List.countP_eq_length_filter]
  rfl

theorem nodup_members : (members mask).Nodup := List.Pairwise.filter _ List.nodup_range

theorem mem_targets {t : Nat} : (n, t) ∈ targets h mask ↔ n ∈ members mask ∧ t = memberTarget h mask n := by
  rw [targets_eq, List.mem_map]
  constructor
  · rintro ⟨k, hk, heq⟩
    cases heq
    exact ⟨hk, rfl⟩
  · rintro ⟨hn, rfl⟩
    exact ⟨n, hn, rfl⟩

variable (hcap : groupCapacity h mask ≠ 0)
include hcap

theorem leftover_le_fractions :
    ((members mask).map (fun n => 256 * capacity h n / groupCapacity h mask)).sum ≤ 256 ∧
      leftover h mask ≤ (members mask).countP (fun n => decide (0 < shareFrac h mask n)) := by
  refine leftover_le (fun n => 256 * capacity h n) _ _ (Nat.pos_of_ne_zero hcap) ?_
  rw [sum_map_mul_left, Nat.mul_comm]
  rfl

theorem sum_memberTarget : ((members mask).map (memberTarget h mask)).sum = 256 := by
  obtain ⟨hfloors, hleft⟩ := leftover_le_fractions hcap
  have hbonus := countP_rankIn_lt (frac := shareFrac h mask) (nodup_members (mask := mask)) (Nat.le_trans hleft List.countP_le_length)
  unfold memberTarget
  rw [sum_map_add, sum_ite_one, hbonus, leftover, Nat.add_sub_cancel' hfloors]

theorem memberTarget_incapable (hzero : capacity h n = 0) : memberTarget h mask n = 0 := by
  have hfrac : shareFrac h mask n = 0 := by rw [shareFrac, hzero, Nat.mul_zero, Nat.zero_mod]
  have hrank := Nat.le_trans (leftover_le_fractions hcap).2 (countP_pos_le_rankIn hfrac)
  rw [memberTarget, if_neg (Nat.not_lt.mpr hrank), hzero, Nat.mul_zero, Nat.zero_div]

end

/-! ### The obligation on targets -/

/-- Settles O52: the targets are the members' floors with one more for the lowest ranks, as many as the floors leave over. -/
theorem bucketTargetsFill : Obligations.BucketTargetsFill := by
  unfold Obligations.BucketTargetsFill
  rintro h mask c rfl hcap
  refine ⟨?names, ?sum, ?floor, ?order, ?incapable⟩
  case names => rw [targets_eq, List.map_map]; exact List.map_id _
  case sum => rw [targets_eq, List.map_map]; exact sum_memberTarget hcap
  case floor =>
    intro n t ht
    obtain ⟨-, rfl⟩ := mem_targets.mp ht
    unfold memberTarget
    split
    · exact .inr rfl
    · exact .inl rfl
  case order =>
    intro n t m u ht hu hmore hahead
    obtain ⟨-, rfl⟩ := mem_targets.mp ht
    obtain ⟨hm, rfl⟩ := mem_targets.mp hu
    have hrank : rankIn (shareFrac h mask) (members mask) m < rankIn (shareFrac h mask) (members mask) n :=
      rankIn_lt_rankIn nodup_members hm (aheadOf_iff.mpr (hahead.imp_right (.imp_left Eq.symm)))
    have hbonus : rankIn (shareFrac h mask) (members mask) n < leftover h mask := by
      refine Decidable.byContradiction fun hnone => ?_
      rw [memberTarget, if_neg hnone] at hmore
      exact absurd hmore (Nat.succ_ne_self _).symm
    rw [memberTarget, if_pos (Nat.lt_trans hrank hbonus)]
    rfl
  case incapable =>
    intro n t ht hzero
    obtain ⟨-, rfl⟩ := mem_targets.mp ht
    exact memberTarget_incapable hcap hzero

end Sys2Proof.Machine
end

section
/-!
PROOFS. Push-out (R290, R291): which packets are candidates, in which order they are taken, and that taking them until they hold enough
cells takes no more than needed; and the obligation PushOutVictims assembled from that.
-/
namespace Sys2Proof.Machine

/-! ### Candidates and their order (R290, R291) -/

theorem mem_candidates {h : Hub} {j : Nat} {v : Pkt} :
    v ∈ candidates h j ↔ (∃ e ∈ h.swc.queues, v ∈ e.2.cask) ∧ v.egr = j ∧ v.lossy = true := by
  simp only [candidates, mem_sortBy, List.mem_flatMap, List.mem_filter, Bool.and_eq_true, decide_eq_true_eq]
  exact ⟨fun ⟨e, he, hv, hfits⟩ => ⟨⟨e, he, hv⟩, hfits⟩, fun ⟨⟨e, he, hv⟩, hfits⟩ => ⟨e, he, hv, hfits⟩⟩

theorem candidates_newestFirst (h : Hub) (j : Nat) : (candidates h j).Pairwise (fun x y => y.order ≤ x.order) := by
  refine (pairwise_sortBy _ (fun a b c hab hbc => ?_) (fun a b => ?_) _).imp of_decide_eq_true
  · exact decide_eq_true (Nat.le_trans (of_decide_eq_true hbc) (of_decide_eq_true hab))
  · exact (Nat.le_total b.order a.order).imp (decide_eq_true ·) (decide_eq_true ·)

/-- Is x taken before y: of a lower class, or red before green, or admitted no earlier? -/
def TakenBefore (x y : Pkt) : Prop :=
  x.cls < y.cls ∨ (x.cls = y.cls ∧ ((x.red = true ∧ y.red = false) ∨ (x.red = y.red ∧ y.order ≤ x.order)))

/-- The candidates of a class that a packet of class cls pushes out, red before green. -/
def classVictims (cls : Nat) (l : List Pkt) (c : Nat) : List Pkt :=
  (if c ≤ cls then l.filter (fun p => decide (p.cls = c) && p.red) else []) ++
    (if c < cls then l.filter (fun p => decide (p.cls = c) && !p.red) else [])

theorem victimOrder_eq (cls : Nat) (l : List Pkt) : victimOrder cls l = (List.range 8).flatMap (classVictims cls l) := rfl

section
variable {cls c : Nat} {l : List Pkt} {v : Pkt}

theorem mem_ite_filter {p : Prop} [Decidable p] {q : Pkt → Bool} : v ∈ (if p then l.filter q else []) ↔ p ∧ v ∈ l ∧ q v = true := by
  by_cases hp : p <;> simp [hp]

theorem mem_classVictims : v ∈ classVictims cls l c ↔ v ∈ l ∧ v.cls = c ∧ (c < cls ∨ (c = cls ∧ v.red = true)) := by
  simp only [classVictims, List.mem_append, mem_ite_filter, Bool.and_eq_true, Bool.not_eq_true', decide_eq_true_eq, Nat.le_iff_lt_or_eq]
  constructor
  · rintro (⟨hlt | heq, hmem, hclass, hred⟩ | ⟨hlt, hmem, hclass, -⟩)
    · exact ⟨hmem, hclass, .inl hlt⟩
    · exact ⟨hmem, hclass, .inr ⟨heq, hred⟩⟩
    · exact ⟨hmem, hclass, .inl hlt⟩
  · rintro ⟨hmem, hclass, hlt | ⟨heq, hred⟩⟩
    · cases hred : v.red with
      | false => exact .inr ⟨hlt, hmem, hclass, rfl⟩
      | true => exact .inl ⟨.inl hlt, hmem, hclass, rfl⟩
    · exact .inl ⟨.inr heq, hmem, hclass, hred⟩

theorem mem_victimOrder (hv : v ∈ victimOrder cls l) : v ∈ l ∧ (v.cls < cls ∨ (v.cls = cls ∧ v.red = true)) := by
  obtain ⟨c, -, hv⟩ := List.mem_flatMap.mp (victimOrder_eq cls l ▸ hv)
  obtain ⟨hmem, rfl, hclass⟩ := mem_classVictims.mp hv
  exact ⟨hmem, hclass⟩

/-- Within a class and a colour the order of the candidates stays. -/
theorem pairwise_ite_filter {p : Prop} [Decidable p] {red : Bool} {q : Pkt → Bool} (hl : l.Pairwise (fun x y => y.order ≤ x.order))
    (hq : ∀ x, q x = true → x.cls = c ∧ x.red = red) : (if p then l.filter q else []).Pairwise TakenBefore := by
  split
  · refine (hl.filter q).imp_of_mem fun {x y} hx hy horder => ?_
    obtain ⟨hxc, hxr⟩ := hq x (List.mem_filter.mp hx).2
    obtain ⟨hyc, hyr⟩ := hq y (List.mem_filter.mp hy).2
    exact .inr ⟨hxc.trans hyc.symm, .inr ⟨hxr.trans hyr.symm, horder⟩⟩
  · exact .nil

theorem pairwise_classVictims (hl : l.Pairwise (fun x y => y.order ≤ x.order)) : (classVictims cls l c).Pairwise TakenBefore := by
  refine List.pairwise_append.mpr ⟨pairwise_ite_filter (c := c) (red := true) hl (by simp),
    pairwise_ite_filter (c := c) (red := false) hl (by simp), fun x hx y hy => ?_⟩
  simp only [mem_ite_filter, Bool.and_eq_true, Bool.not_eq_true', decide_eq_true_eq] at hx hy
  obtain ⟨-, -, hxc, hxr⟩ := hx
  obtain ⟨-, -, hyc, hyr⟩ := hy
  exact .inr ⟨hxc.trans hyc.symm, .inl ⟨hxr, hyr⟩⟩

theorem pairwise_victimOrder (hl : l.Pairwise (fun x y => y.order ≤ x.order)) : (victimOrder cls l).Pairwise TakenBefore := by
  rw [victimOrder_eq]
  refine List.pairwise_flatMap.mpr ⟨fun c _ => pairwise_classVictims hl, List.pairwise_lt_range.imp fun {a b} hab x hx y hy => ?_⟩
  obtain ⟨-, rfl, -⟩ := mem_classVictims.mp hx
  obtain ⟨-, rfl, -⟩ := mem_classVictims.mp hy
  exact .inl hab

end

/-! ### Taking until enough cells are free (R290) -/

theorem cellsOf_eq_sum (l : List Pkt) : cellsOf l = (l.map pktCells).sum := foldl_add_eq_sum pktCells l

@[simp] theorem cellsOf_nil : cellsOf [] = 0 := rfl

@[simp] theorem cellsOf_cons (p : Pkt) (l : List Pkt) : cellsOf (p :: l) = pktCells p + cellsOf l := by
  simp only [cellsOf_eq_sum, List.map_cons, List.sum_cons]

theorem takeVictims_zero (l : List Pkt) : takeVictims l 0 = [] := by
  cases l with
  | nil => rfl
  | cons p ps => exact if_pos rfl

theorem takeVictims_sublist (l : List Pkt) (d : Nat) : (takeVictims l d).Sublist l := by
  induction l generalizing d with
  | nil => exact .slnil
  | cons p ps ih =>
    rw [takeVictims]
    split
    · exact List.nil_sublist _
    · exact (ih _).cons_cons p

theorem cellsOf_le_of_sublist {l l' : List Pkt} (hsub : l.Sublist l') : cellsOf l ≤ cellsOf l' := by
  induction hsub with
  | slnil => exact Nat.le_refl _
  | cons p _ ih =>
    rw [cellsOf_cons]
    omega
  | cons_cons p _ ih =>
    rw [cellsOf_cons, cellsOf_cons]
    omega

theorem cellsOf_takeVictims_le (l : List Pkt) (d : Nat) : cellsOf (takeVictims l d) ≤ cellsOf l :=
  cellsOf_le_of_sublist (takeVictims_sublist l d)

/-- Where the packets hold enough, those taken do. -/
theorem le_cellsOf_takeVictims {l : List Pkt} {d : Nat} (henough : d ≤ cellsOf l) : d ≤ cellsOf (takeVictims l d) := by
  induction l generalizing d with
  | nil => exact henough
  | cons p ps ih =>
    rw [takeVictims]
    split
    case isTrue hd => exact Nat.le_of_eq hd
    case isFalse hd =>
      rw [cellsOf_cons] at henough ⊢
      have hrest := ih (d := d - pktCells p) (by omega)
      omega

/-- The last packet taken was needed. -/
theorem cellsOf_dropLast_takeVictims_lt {l : List Pkt} {d : Nat} (hd : 0 < d) : cellsOf (takeVictims l d).dropLast < d := by
  induction l generalizing d with
  | nil => exact hd
  | cons p ps ih =>
    rw [takeVictims, if_neg (Nat.ne_of_gt hd)]
    cases hrest : takeVictims ps (d - pktCells p) with
    | nil => exact hd
    | cons q qs =>
      have hmore : 0 < d - pktCells p := by
        refine Decidable.byContradiction fun hnone => ?_
        rw [Nat.eq_zero_of_not_pos hnone, takeVictims_zero] at hrest
        cases hrest
      have hlast := ih hmore
      rw [hrest] at hlast
      rw [List.dropLast_cons_cons, cellsOf_cons]
      omega

/-! ### Victims (R290) -/

section
variable {h : Hub} {p : Pkt} {d : Nat}

theorem victims_red (hred : p.red = true) : victims h p d = [] := if_pos hred

/-- Every packet taken while they hold enough, else none. -/
theorem victims_green (hgreen : p.red = false) :
    victims h p d =
      if d ≤ cellsOf (takeVictims (victimOrder p.cls (candidates h p.egr)) d) then
        takeVictims (victimOrder p.cls (candidates h p.egr)) d
      else [] := if_neg (Bool.eq_false_iff.mp hgreen)

theorem victims_sublist : (victims h p d).Sublist (victimOrder p.cls (candidates h p.egr)) := by
  cases hred : p.red with
  | true => rw [victims_red hred]; exact List.nil_sublist _
  | false =>
    rw [victims_green hred]
    split
    · exact takeVictims_sublist _ _
    · exact List.nil_sublist _

theorem victims_needed (hsome : victims h p d ≠ []) : d ≤ cellsOf (victims h p d) ∧ cellsOf (victims h p d).dropLast < d := by
  cases hred : p.red with
  | true => exact absurd (victims_red hred) hsome
  | false =>
    rw [victims_green hred] at hsome ⊢
    split at hsome
    case isFalse => exact absurd rfl hsome
    case isTrue henough =>
      rw [if_pos henough]
      have hd : 0 < d := Nat.pos_of_ne_zero fun hzero => hsome (by rw [hzero, takeVictims_zero])
      exact ⟨henough, cellsOf_dropLast_takeVictims_lt hd⟩

end

/-! ### The obligation on victims -/

/-- Settles O53: victims are taken from the order of the candidates until they hold enough cells. -/
theorem pushOutVictims : Obligations.PushOutVictims := by
  unfold Obligations.PushOutVictims
  refine fun h p d => ⟨victims_red, ?mem, ?order, victims_needed, ?short, ?suffice⟩
  case mem =>
    intro v hv
    obtain ⟨hmem, hclass⟩ := mem_victimOrder (victims_sublist.subset hv)
    obtain ⟨hcask, hegr, hlossy⟩ := mem_candidates.mp hmem
    exact ⟨hlossy, hegr, hcask, hclass⟩
  case order => exact (pairwise_victimOrder (candidates_newestFirst h p.egr)).sublist victims_sublist
  case short =>
    intro hgreen hfew
    rw [victims_green hgreen, if_neg (Nat.not_le.mpr (Nat.lt_of_le_of_lt (cellsOf_takeVictims_le _ _) hfew))]
  case suffice =>
    intro hgreen henough
    have htaken := le_cellsOf_takeVictims henough
    rwa [victims_green hgreen, if_pos htaken]

end Sys2Proof.Machine
end

section
/-!
PROOFS. The spindle's matching (R284): what one iteration grants and accepts, that it pairs no port a second time, and the obligation
SpindleMatching assembled from that.
-/
namespace Sys2Proof.Machine

/-! ### Requests (R284) -/

theorem mem_spindleRequests {h : Hub} {i j : Nat} {u : Bool} (hreq : (i, j, u) ∈ spindleRequests h) :
    portUp h i = true ∧ portUp h j = true ∧ offer h i j ≠ [] := by
  obtain ⟨k, -, hk⟩ := List.mem_filterMap.mp hreq
  dsimp only at hk
  split at hk
  case isTrue => cases hk
  case isFalse hup =>
    simp only [Bool.not_eq_true', not_or, Bool.not_eq_false] at hup
    split at hk
    · cases hk
    case _ p ps hoffer =>
      cases hk
      exact ⟨hup.1, hup.2, by rw [hoffer]; exact List.cons_ne_nil _ _⟩

/-! ### Grants and acceptances (R284) -/

theorem mem_of_firstFrom {ptr p : Nat} {l : List Nat} (hfirst : firstFrom ptr l = some p) : p ∈ l :=
  List.contains_iff_mem.mp (List.find?_some hfirst)

theorem mem_urgentFirst {p : Nat} {l : List (Nat × Bool)} (hp : p ∈ urgentFirst l) : ∃ u, (p, u) ∈ l := by
  obtain ⟨⟨q, u⟩, hmem, rfl⟩ := List.mem_map.mp hp
  refine ⟨u, ?_⟩
  split at hmem
  · exact hmem
  · exact (List.mem_filter.mp hmem).1

section
variable (h : Hub) (req : List (Nat × Nat × Bool)) (m : Matching)

/-- The requests between ports that no pair has taken. -/
def openRequests : List (Nat × Nat × Bool) :=
  req.filter (fun r => m.pairs.all (fun x => decide (x.1 ≠ r.1) && decide (x.2 ≠ r.2.1)))

/-- The ingress port that an egress port grants. -/
def grantOf (j : Nat) : Option Nat :=
  firstFrom (fld h (aSwcPortPtr j) 0 5)
    (urgentFirst (((openRequests req m).filter (fun r => decide (r.2.1 = j))).map (fun r => (r.1, r.2.2))))

/-- The grants of an iteration: at most one of each egress port. -/
def grantsOf : List (Nat × Nat) := (List.range 24).filterMap (fun j => (grantOf h req m j).map (fun i => (i, j)))

/-- The egress port that an ingress port accepts. -/
def acceptOf (i : Nat) : Option Nat :=
  firstFrom (fld h (aSwcPortPtr i) 8 5)
    (urgentFirst (((grantsOf h req m).filter (fun g => decide (g.1 = i))).map (fun g =>
      (g.2, (openRequests req m).any (fun r => decide (r.1 = i) && decide (r.2.1 = g.2) && r.2.2)))))

/-- The acceptances of an iteration: at most one of each ingress port. -/
def acceptsOf : List (Nat × Nat) := (List.range 24).filterMap (fun i => (acceptOf h req m i).map (fun j => (i, j)))

theorem spindleIter_eq (isFirst : Bool) :
    spindleIter h req m isFirst =
      ⟨m.pairs ++ acceptsOf h req m, if isFirst then acceptsOf h req m else m.first⟩ := rfl

variable {h req m} {i j : Nat}

theorem mem_openRequests {u : Bool} :
    (i, j, u) ∈ openRequests req m ↔ (i, j, u) ∈ req ∧ ∀ x ∈ m.pairs, x.1 ≠ i ∧ x.2 ≠ j := by
  simp only [openRequests, List.mem_filter, List.all_eq_true, Bool.and_eq_true, decide_eq_true_eq]

theorem mem_grantsOf (hmem : (i, j) ∈ grantsOf h req m) : grantOf h req m j = some i := by
  obtain ⟨k, -, hk⟩ := List.mem_filterMap.mp hmem
  obtain ⟨g, hg, heq⟩ := Option.map_eq_some_iff.mp hk
  cases heq
  exact hg

theorem mem_acceptsOf (hmem : (i, j) ∈ acceptsOf h req m) : acceptOf h req m i = some j := by
  obtain ⟨k, -, hk⟩ := List.mem_filterMap.mp hmem
  obtain ⟨g, hg, heq⟩ := Option.map_eq_some_iff.mp hk
  cases heq
  exact hg

theorem grantOf_requested (hgrant : grantOf h req m j = some i) : ∃ u, (i, j, u) ∈ openRequests req m := by
  obtain ⟨u, hu⟩ := mem_urgentFirst (mem_of_firstFrom hgrant)
  obtain ⟨⟨i', j', u'⟩, hmem, heq⟩ := List.mem_map.mp hu
  obtain ⟨hopen, hj⟩ := List.mem_filter.mp hmem
  obtain rfl : j' = j := of_decide_eq_true hj
  cases heq
  exact ⟨u', hopen⟩

theorem acceptOf_granted (haccept : acceptOf h req m i = some j) : grantOf h req m j = some i := by
  obtain ⟨u, hu⟩ := mem_urgentFirst (mem_of_firstFrom haccept)
  obtain ⟨⟨i', j'⟩, hmem, heq⟩ := List.mem_map.mp hu
  obtain ⟨hgrant, hi⟩ := List.mem_filter.mp hmem
  obtain rfl : i' = i := of_decide_eq_true hi
  cases heq
  exact mem_grantsOf hgrant

theorem accepts_requested (hmem : (i, j) ∈ acceptsOf h req m) : ∃ u, (i, j, u) ∈ openRequests req m :=
  grantOf_requested (acceptOf_granted (mem_acceptsOf hmem))

/-- Each ingress port accepts once. -/
theorem nodup_accepts_ingress : ((acceptsOf h req m).map (·.1)).Nodup := by
  refine List.pairwise_map.mpr (List.pairwise_filterMap.mpr (List.Pairwise.imp (fun {i k} hne x hx y hy => ?_) List.nodup_range))
  obtain ⟨_, -, rfl⟩ := Option.map_eq_some_iff.mp hx
  obtain ⟨_, -, rfl⟩ := Option.map_eq_some_iff.mp hy
  exact hne

/-- Each egress port has granted one ingress port, so that no two accept it. -/
theorem nodup_accepts_egress : ((acceptsOf h req m).map (·.2)).Nodup := by
  refine List.pairwise_map.mpr (List.Pairwise.imp_of_mem (fun {x y} hx hy hne heq => hne ?_) (List.pairwise_map.mp nodup_accepts_ingress))
  have hgx := acceptOf_granted (mem_acceptsOf hx)
  have hgy := acceptOf_granted (mem_acceptsOf hy)
  rw [heq, hgy] at hgx
  exact (Option.some.inj hgx).symm

/-! ### Matchings over iterations (R284) -/

/-- No port stands in two pairs, and every pair was requested. -/
structure SoundMatching (req : List (Nat × Nat × Bool)) (m : Matching) : Prop where
  ingress : (m.pairs.map (·.1)).Nodup
  egress : (m.pairs.map (·.2)).Nodup
  requested : ∀ i j, (i, j) ∈ m.pairs → ∃ u, (i, j, u) ∈ req

theorem sound_nil : SoundMatching req ⟨[], []⟩ := ⟨List.nodup_nil, List.nodup_nil, fun _ _ hmem => nomatch hmem⟩

/-- What is accepted shares no port with what is paired. -/
theorem accepts_apart {x y : Nat × Nat} (hx : x ∈ m.pairs) (hy : y ∈ acceptsOf h req m) : x.1 ≠ y.1 ∧ x.2 ≠ y.2 := by
  obtain ⟨u, hopen⟩ := accepts_requested hy
  exact (mem_openRequests.mp hopen).2 x hx

theorem spindleIter_sound (hm : SoundMatching req m) (isFirst : Bool) : SoundMatching req (spindleIter h req m isFirst) := by
  rw [spindleIter_eq]
  refine ⟨?ingress, ?egress, ?requested⟩
  case ingress =>
    rw [List.map_append]
    refine List.nodup_append.mpr ⟨hm.ingress, nodup_accepts_ingress, fun i hi k hk => ?_⟩
    obtain ⟨x, hx, rfl⟩ := List.mem_map.mp hi
    obtain ⟨y, hy, rfl⟩ := List.mem_map.mp hk
    exact (accepts_apart hx hy).1
  case egress =>
    rw [List.map_append]
    refine List.nodup_append.mpr ⟨hm.egress, nodup_accepts_egress, fun j hj k hk => ?_⟩
    obtain ⟨x, hx, rfl⟩ := List.mem_map.mp hj
    obtain ⟨y, hy, rfl⟩ := List.mem_map.mp hk
    exact (accepts_apart hx hy).2
  case requested =>
    intro i j hmem
    rcases List.mem_append.mp hmem with hpaired | hacc
    · exact hm.requested i j hpaired
    · obtain ⟨u, hopen⟩ := accepts_requested hacc
      exact ⟨u, (mem_openRequests.mp hopen).1⟩

theorem pairs_subset_spindleIter (isFirst : Bool) {x : Nat × Nat} (hx : x ∈ m.pairs) : x ∈ (spindleIter h req m isFirst).pairs :=
  List.mem_append_left _ hx

theorem spindleIter_first_later : (spindleIter h req m false).first = m.first := rfl

theorem spindleIter_first_initial : (spindleIter h req ⟨[], []⟩ true).first = (spindleIter h req ⟨[], []⟩ true).pairs := by
  simp only [spindleIter_eq, if_true, List.nil_append]

end

/-! ### The obligation on matchings -/

/-- Settles O54: each of the three iterations keeps the matching sound and adds to its pairs. -/
theorem spindleMatching : Obligations.SpindleMatching := by
  unfold Obligations.SpindleMatching
  rintro h req one m rfl rfl rfl
  obtain ⟨hingress, hegress, hrequested⟩ :=
    spindleIter_sound (h := h) (spindleIter_sound (h := h) (spindleIter_sound (h := h) sound_nil true) false) false
  refine ⟨hingress, hegress, fun i j hmem => ?_, ?_, fun x hx => ?_⟩
  · obtain ⟨u, hreq⟩ := hrequested i j hmem
    obtain ⟨hin, hout, hoffer⟩ := mem_spindleRequests hreq
    exact ⟨hin, hout, hoffer, u, hreq⟩
  · exact spindleIter_first_later.trans (spindleIter_first_later.trans spindleIter_first_initial)
  · exact pairs_subset_spindleIter false (pairs_subset_spindleIter false hx)

end Sys2Proof.Machine
end

section
/-!
PROOFS. The traffic manager's instructions (R112, R304, R320, R321, R541): the checks that BW.ALLOT, SHP.SET, POL.SET and Q.MAP make of
their own operands, and the obligation TrafficInstructions assembled from that.
-/
namespace Sys2Proof.Machine

/-! ### The operands' ranges (R304, R320, R321, R541) -/

theorem bwAllot_operandsOk {v : Variant} {w : IW} (hoperand : onlyBits w.operand 0xFFFF0F1F = true) (hdock : w.target < 64)
    (hthere : w.target < v.docks) (hsp : w.o 0 5 ≤ 20) (hpresent : spPresent v (w.o 0 5) = true) (hweight : w.o 16 16 ≠ 0) :
    ¬ ((!onlyBits w.operand 0xFFFF0F1F) = true ∨ 64 ≤ w.target ∨ v.docks ≤ w.target ∨ 20 < w.o 0 5 ∨
      (!spPresent v (w.o 0 5)) = true ∨ w.o 16 16 = 0) := by
  simp only [hoperand, hpresent, hweight, Bool.not_true, Bool.false_eq_true, or_false, false_or]
  omega

/-- A dock at a port that has a schedule tree, as a dock's shaper names it. -/
theorem dockShaper_placeOk {v : Variant} {d sp : Nat} (hdock : d < 64) (hthere : d < v.docks) (hsp : sp ≤ 20)
    (hpresent : spPresent v sp = true) : ¬ (64 ≤ d ∨ v.docks ≤ d ∨ 20 < sp ∨ (!spPresent v sp) = true) := by
  simp only [hpresent, Bool.not_true, Bool.false_eq_true, or_false]
  omega

/-- A shaper's operand has bits of its form alone, a control that is given a meaning and slopes in their ranges. -/
theorem shpSet_formOk {w : IW} {mask : Nat} (hoperand : onlyBits w.operand mask = true) (hctl : w.o 28 2 ≠ 3)
    (hslopes : slopesOk (w.x 0) (w.x 1) = true) :
    ¬ ((!onlyBits w.operand mask) = true ∨ w.o 28 2 = 3 ∨ (!slopesOk (w.x 0) (w.x 1)) = true) := by
  simp [hoperand, hctl, hslopes]

theorem polSet_operandsOk {v : Variant} {w : IW} (hoperand : onlyBits w.operand 0x31F = true) (hlow : w.target < 1024)
    (hclass : w.target % 16 ≤ 8) (hdock : w.target / 16 < v.docks) (hsp : w.o 0 5 < 24) (hpresent : spPresent v (w.o 0 5) = true)
    (hslopes : slopesOk (w.x 0) (w.x 1) = true) :
    ¬ ((!onlyBits w.operand 0x31F) = true ∨ 1024 ≤ w.target ∨ 8 < w.target % 16 ∨ v.docks ≤ w.target / 16 ∨ 24 ≤ w.o 0 5 ∨
      (!spPresent v (w.o 0 5)) = true ∨ (!slopesOk (w.x 0) (w.x 1)) = true) := by
  simp only [hoperand, hpresent, hslopes, Bool.not_true, Bool.false_eq_true, or_false, false_or]
  omega

theorem qMap_operandsOk {v : Variant} {w : IW} (hoperand : onlyBits w.operand 0x80073F1F = true) (hqueue : w.target < v.queues)
    (hdock : w.o 8 6 < v.docks) :
    ¬ ((!onlyBits w.operand 0x80073F1F) = true ∨ v.queues ≤ w.target ∨ v.docks ≤ w.o 8 6) := by
  simp [hoperand, hqueue, hdock]

/-! ### The obligation on the traffic manager's instructions -/

/-- Settles O29: under the hypotheses of its clause an instruction passes its own checks, and then those of staging. -/
theorem trafficInstructions : Obligations.TrafficInstructions := by
  unfold Obligations.TrafficInstructions
  refine fun s th c w recs extra => ⟨?weight, ?dockShaper, ?queueShaper, ?policer, ?queueMap⟩
  case weight =>
    rintro at_ hoperand hdock hthere hsp hpresent hweight rfl rfl hmay
    have hchecks := bwAllot_operandsOk hoperand hdock hthere hsp hpresent hweight
    exact act_onInstr at_ ((if_neg hchecks).trans (stageOpen_ok hmay))
  case dockShaper =>
    rintro at_ hscope hoperand hctl hslopes hdock hthere hsp hpresent rfl rfl hmay
    refine act_onInstr at_ ?_
    simp only [if_pos hscope, if_neg (shpSet_formOk hoperand hctl hslopes), if_neg (dockShaper_placeOk hdock hthere hsp hpresent)]
    exact stageOpen_ok hmay
  case queueShaper =>
    rintro at_ hscope hoperand hctl hslopes hqueue rfl rfl hmay
    refine act_onInstr at_ ?_
    simp only [if_neg hscope, if_neg (shpSet_formOk hoperand hctl hslopes), if_neg (Nat.not_le.mpr hqueue)]
    exact stageOpen_ok hmay
  case policer =>
    rintro at_ hoperand hlow hclass hdock hsp hpresent hslopes rfl rfl hmay
    have hchecks := polSet_operandsOk hoperand hlow hclass hdock hsp hpresent hslopes
    exact act_onInstr at_ ((if_neg hchecks).trans (stageOpen_ok hmay))
  case queueMap =>
    rintro at_ hoperand hqueue hdock rfl rfl hmay
    exact act_onInstr at_ ((if_neg (qMap_operandsOk hoperand hqueue hdock)).trans (stageOpen_ok hmay))

end Sys2Proof.Machine
end

section
/-!
PROOFS. Departures, cell slots, phase P1 and pauses (R284, R294, R305, R310-R317, R319, R457): what each meaning comes down to once its
guard is met, and the obligation EgressCommands assembled from that.
-/
namespace Sys2Proof.Machine

/-! ### What a port sends next (R305, R310-R317) -/

section
variable {h g : Hub} {j : Nat} {m : Mem} (hidle : tget 0 h.tel.busy j = 0) (hup : portUp h j = true)
include hidle hup

theorem packetSelect_ready : ¬ (tget 0 h.tel.busy j ≠ 0 ∨ (!portUp h j) = true) := by simp [hidle, hup]

theorem packetSelect_direct {p : Pkt} (hdirect : 21 ≤ j) (hg : g = dropLost h j) (hnext : directNext g j = some p) :
    packetSelect j m h =
      depart m { g with swc := { g.swc with direct := tmod [] g.swc.direct (j * 4 + p.pass) (fun l => l.drop 1) } } p := by
  simp only [packetSelect, if_neg (packetSelect_ready hidle hup), if_pos hdirect, ← hg, hnext]

section
variable (htree : j ≤ 20) (hg : g = refresh (dropLost h j) j)
include htree hg

theorem packetSelect_system {p : Pkt} (hnext : sysNext g j = some p) (hsink : sinkOk g j p = true) :
    packetSelect j m h =
      depart m (count { g with swc := { g.swc with sysq := tmod [] g.swc.sysq j (fun l => l.erase p) } } (aTmgCntSysq j) 1) p := by
  have hport : ¬ 21 ≤ j := by omega
  simp only [packetSelect, if_neg (packetSelect_ready hidle hup), if_neg hport, ← hg, hnext, if_pos hsink]

/-- With no head of the system queue to send, the tree's head is charged as a child of each of its levels, its shapers start and it
leaves its queue. -/
theorem packetSelect_tree {x : Head} {charged : Hub} {len : Nat} {y : Hub → Nat → Hub} {r : Mem × Hub}
    (hsys : ∀ p, sysNext g j = some p → sinkOk g j p = false)
    (hhead : selectHead g j ((heads g j).filter Head.ok) = some x) (hlen : len = pktLength g j x.p)
    (hcharged : charged = charge (charge (charge g (kDock j x.d) len) (kClass j x.d x.c) len) x.q len)
    (hy : y = (fun h k => setShaper h k (shaperStart (shSet h (shAddr k)) (shaper h k) len)))
    (hr : r = depart m (removeHead (y (y charged (shKeyQueue x.q)) (shKeyDock x.d j)) x.q)
      { x.p with casks := headCasks (y (y charged (shKeyQueue x.q)) (shKeyDock x.d j)) x.q x.p }) :
    packetSelect j m h = (r.1, refresh r.2 j) := by
  subst hlen hcharged hy hr
  have hport : ¬ 21 ≤ j := by omega
  cases hnext : sysNext g j with
  | none => simp only [packetSelect, if_neg (packetSelect_ready hidle hup), if_neg hport, ← hg, hnext, hhead]
  | some p =>
    simp only [packetSelect, if_neg (packetSelect_ready hidle hup), if_neg hport, ← hg, hnext, hsys p hnext, Bool.false_eq_true, if_false,
      hhead]

end
end

/-! ### Phase P1 (R45, R47, R316) -/

section
variable {h g : Hub} (hp0 : phaseOpen h 0 = true) (hg : g = enterPhase h 1)
include hp0 hg

theorem p1Allot_fresh (hfresh : phaseSuspended g 1 = false) : p1Allot h = allot g := by
  simp only [p1Allot, hp0, ← hg, hfresh, Bool.not_true, Bool.false_eq_true, if_false]

theorem p1Allot_suspended (hleft : phaseSuspended g 1 = true) : p1Allot h = allot (allot (resumed g 1)) := by
  simp only [p1Allot, hp0, ← hg, hleft, Bool.not_true, Bool.false_eq_true, if_false, if_true]

end

/-! ### Pauses (R311) -/

section
variable {h g : Hub} {n quanta : Nat} (hup : portUp h (16 + n) = true) (hg : g = raise (count h (aTmgCntPause (16 + n)) 1) 0x09 1 0 0)
include hup hg

theorem pauseFrame_counted (hoff : flag g (aTmgPortCfg (16 + n)) 16 = false) : pauseFrame n quanta h = g := by
  simp only [pauseFrame, hup, ← hg, hoff, Bool.not_true, Bool.not_false, Bool.false_eq_true, if_false, if_true]

theorem pauseFrame_holds (hon : flag g (aTmgPortCfg (16 + n)) 16 = true) :
    pauseFrame n quanta h = wr { g with tmg := { g.tmg with pauseAt := tset 0 g.tmg.pauseAt n g.tim.coreClk } }
      (aTmgPortStatus (16 + n)) (if quanta = 0 then 0 else W (2 ^ 31 + quanta)) := by
  simp only [pauseFrame, hup, ← hg, hon, Bool.not_true, Bool.false_eq_true, if_false]

end

/-! ### The obligation on egress -/

/-- Settles O30: each command runs its meaning on a running core, and the lemmas above say what that meaning comes down to under the
hypotheses of its clause. -/
theorem egressCommands : Obligations.EgressCommands := by
  unfold Obligations.EgressCommands
  refine fun s hrun => ⟨?direct, ?system, ?tree, ?barrel, ?slot, ?fresh, ?suspended, ?pause, ?pauseEnd⟩
  case direct =>
    intro j p g hidle hup hdirect hg hnext
    refine (actMem_runs hrun _).trans ?_
    rw [packetSelect_direct hidle hup hdirect hg hnext]
  case system =>
    intro j p g hidle hup htree hg hnext hsink
    refine (actMem_runs hrun _).trans ?_
    rw [packetSelect_system hidle hup htree hg hnext hsink]
  case tree =>
    intro j x g h len y r hidle hup htree hg hsys hhead hlen hcharged hy hr
    refine (actMem_runs hrun _).trans ?_
    rw [packetSelect_tree hidle hup htree hg hsys hhead hlen hcharged hy hr]
  case barrel =>
    rintro j u r rfl
    exact act_runs hrun _
  case slot => exact act_runs hrun _
  case fresh =>
    rintro g known all hp0 hg hfresh rfl rfl
    exact act_effect hrun (p1Allot_fresh hp0 hg hfresh)
  case suspended => exact fun g hp0 hg hleft => act_effect hrun (p1Allot_suspended hp0 hg hleft)
  case pause =>
    intro n q g hup hg
    exact ⟨fun hoff => act_effect hrun (pauseFrame_counted hup hg hoff), fun hon => act_effect hrun (pauseFrame_holds hup hg hon)⟩
  case pauseEnd => exact fun n => act_runs hrun _

end Sys2Proof.Machine
end

section
/-!
PROOFS. The display instructions (R112, R115, R337, R341, R348, R541): the checks that DSP.LAYER, DSP.TIMING and DSP.CHECK make of
their own operands, and the obligation DisplayInstructions assembled from that.
-/
namespace Sys2Proof.Machine

/-! ### The operands' ranges (R337, R341, R348, R541) -/

theorem dspLayer_operandsOk {h : Hub} {w : IW} {o k : Nat} (htarget : onlyBits w.target 0x77 = true) (hpresent : dspPresent h o = true)
    (hoperand : onlyBits w.operand 0x1FF0F = true) (hstride : w.x 1 < 2 ^ 32) (hformat : w.o 1 3 < 4)
    (hcursor : bitOf w.operand 16 = true → k = 7) :
    ¬ ((!onlyBits w.target 0x77) = true ∨ (!dspPresent h o) = true ∨ (!onlyBits w.operand 0x1FF0F) = true ∨ 2 ^ 32 ≤ w.x 1 ∨ 4 ≤ w.o 1 3 ∨
      (bitOf w.operand 16 = true ∧ k ≠ 7)) := by
  simp only [htarget, hpresent, hoperand, Bool.not_true, Bool.false_eq_true, false_or, not_or, not_le, not_and, not_not]
  exact ⟨hstride, hformat, hcursor⟩

theorem dspTiming_operandsOk {h : Hub} {w : IW} (houtput : w.target < 8) (hpresent : dspPresent h w.target = true)
    (hoperand : onlyBits w.operand 0x3F = true) (hpclk : onlyBits (w.x 2) 0x3FFFFFFFF = true) (hrate : w.o 2 3 < 4) :
    ¬ (8 ≤ w.target ∨ (!dspPresent h w.target) = true ∨ (!onlyBits w.operand 0x3F) = true ∨ (!onlyBits (w.x 2) 0x3FFFFFFFF) = true ∨
      4 ≤ w.o 2 3) := by
  simp only [hpresent, hoperand, hpclk, Bool.not_true, Bool.false_eq_true, false_or, not_or, not_le]
  exact ⟨houtput, hrate⟩

theorem dspCheck_operandsOk {h : Hub} {w : IW} {o : Nat} (htarget : onlyBits w.target 0xF7 = true) (hpresent : dspPresent h o = true)
    (hoperand : w.operand < 2) (hexpect : w.x 1 < 2 ^ 32) :
    ¬ ((!onlyBits w.target 0xF7) = true ∨ (!dspPresent h o) = true ∨ 2 ≤ w.operand ∨ 2 ^ 32 ≤ w.x 1) := by
  simp only [htarget, hpresent, Bool.not_true, Bool.false_eq_true, false_or, not_or, not_le]
  exact ⟨hoperand, hexpect⟩

/-! ### The obligation on the display instructions -/

/-- Settles O37: under the hypotheses of its clause an instruction passes its own checks, and then those of staging. -/
theorem displayInstructions : Obligations.DisplayInstructions := by
  unfold Obligations.DisplayInstructions
  refine fun s th c w recs => ⟨?layer, ?timing, ?check⟩
  case layer =>
    rintro o k base at_ rfl rfl htarget hpresent hoperand hstride hformat hcursor rfl rfl hmay
    have hchecks := dspLayer_operandsOk htarget hpresent hoperand hstride hformat hcursor
    exact act_onInstr at_ ((if_neg hchecks).trans (stageOpen_ok hmay))
  case timing =>
    rintro o base at_ rfl houtput hpresent hoperand hpclk hrate rfl rfl hmay
    have hchecks := dspTiming_operandsOk houtput hpresent hoperand hpclk hrate
    exact act_onInstr at_ ((if_neg hchecks).trans (stageOpen_ok hmay))
  case check =>
    rintro o k base at_ rfl rfl htarget hpresent hoperand hexpect rfl rfl hmay
    have hchecks := dspCheck_operandsOk htarget hpresent hoperand hexpect
    exact act_onInstr at_ ((if_neg hchecks).trans (stageOpen_ok hmay))

end Sys2Proof.Machine
end

section
/-!
PROOFS. Hot plug, latch points, underruns, check windows and AUX (R328-R331, R342-R350): what each meaning comes down to once its
guard is met, and the obligation DisplayEvents assembled from that.
-/
namespace Sys2Proof.Machine

/-! ### Hot plug (R328, R330) -/

section
variable {h g : Hub} {o : Nat} {k : SinkReport} (hpresent : dspPresent h o = true)
include hpresent

theorem hpdRise_trains (hlow : flag h (aDspStatus o) 27 = false) :
    hpdRise o k h = faults (raise (setSink (setFlag h (aDspStatus o) 27 true) o k) 0x0A 0 o 0) [.train o] :=
  if_neg (by simp [hpresent, hlow])

section
variable (hhigh : flag h (aDspStatus o) 27 = true)
include hhigh

theorem hpdUnplug_stops (hg : g = setFlag h (aDspStatus o) 27 false) :
    hpdUnplug o h = raise (if scanning g o then dspDown g o 1 else g) 0x0A 0 o 0 := by
  subst hg
  exact if_neg (by simp [hpresent, hhigh])

theorem irqHpd_reads {lost : Bool} (hg : g = raise (setSink h o k) 0x0A 0 o 0) :
    irqHpd o lost k h = if lost = true ∧ fld g (aDspStatus o) 20 3 ≠ 0 then faults g [.train o] else g := by
  subst hg
  exact if_neg (by simp [hpresent, hhigh])

end
end

/-! ### The latch point (R342, R345) -/

section
variable {h : Hub} {o : Nat} {k : SinkReport}

theorem latchPoint_idle (hoff : scanning h o = false) : latchPoint o k h = h := if_pos (by simp [hoff])

section
variable (hscan : scanning h o = true)
include hscan

theorem latchPoint_kept (hp0 : p0Busy h = true) : latchPoint o k h = { h with dsp := { h.dsp with late := tput h.dsp.late o k } } := by
  simp only [latchPoint, hscan, hp0, Bool.not_true, Bool.false_eq_true, if_false, if_true]

theorem latchPoint_now (hp0 : p0Busy h = false) : latchPoint o k h = latchNow o k (lateLatches h) := by
  simp only [latchPoint, hscan, hp0, Bool.not_true, Bool.false_eq_true, if_false]

end
end

/-! ### Underruns and check windows (R347-R349) -/

section
variable {h : Hub} {o : Nat} (hscan : scanning h o = true)
include hscan

theorem dspUnderrun_marks {l px : Nat} {fetch : Bool} {g : Hub} (hen : (layerAt (active h) o l).en = true)
    (hfirst : tfind h.dsp.cut (o * 8 + l) = none)
    (hg : g = setFlag { h with dsp := { h.dsp with cut := tput h.dsp.cut (o * 8 + l) px } } (aDspLayerStatus o l) 1 true) :
    dspUnderrun o l fetch px h = if fetch then raise (count g (aDspCntFetchErr o) 1) 0x0A 3 o 0
      else raise (tally (count g (aDspCntUnderrun o) 1) (0x50 + o) 0x0501 1 none) 0x0A 2 o 0 := by
  subst hg
  exact if_neg (by simp [hscan, hen, hfirst])

theorem checkWindow_ready {w : Nat} (hen : bitOf (active h (aDspChkCtl o w)) 0 = true)
    (hfirst : tget false h.dsp.checked (o * 16 + w) = false) :
    ¬ (!scanning h o || !bitOf (active h (aDspChkCtl o w)) 0 || tget false h.dsp.checked (o * 16 + w)) = true := by
  simp [hscan, hen, hfirst]

end

/-! ### AUX (R331) -/

section
variable {h : Hub} {o : Nat}

theorem safeClr_waits (hpresent : dspPresent h o = true) : safeClr o h = { h with dsp := { h.dsp with clr := tset false h.dsp.clr o true } } :=
  if_neg (by simp [hpresent])

/-- Each AUX row starts on the write with GO whose OP it has, while no transaction runs. -/
theorem auxRow_starts {v : Word} {op : Nat} {g : Hub} (hpresent : dspPresent h o = true) (hgo : bitOf v.toNat 31 = true)
    (hidle : flag h (aDspAuxCmd o) 31 = false) (hop : bitsOf v.toNat 28 3 = op)
    (hg : g = setFld (wr h (aDspAuxCmd o) (v &&& 0xFF0FFFFF)) (aDspAuxStatus o) 0 3 4) :
    auxRow op o v h = { g with dsp := { g.dsp with aux := tset (0, 0) g.dsp.aux o (0, 0) } } := by
  subst hg
  exact (if_pos ⟨hgo, hop⟩).trans (if_neg (by simp [hpresent, hidle]))

section
variable (hbusy : flag h (aDspAuxCmd o) 31 = true)
include hbusy

theorem auxReply_busy : ¬ (!flag h (aDspAuxCmd o) 31) = true := by simp [hbusy]

theorem auxReply_nack : auxReply o .nack h = auxEnd h o 1 := if_neg (auxReply_busy hbusy)

theorem auxReply_defer : auxReply o .defer h =
    if (tget (0, 0) h.dsp.aux o).2 < 7 then
      { h with dsp := { h.dsp with aux := tset (0, 0) h.dsp.aux o ((tget (0, 0) h.dsp.aux o).1, (tget (0, 0) h.dsp.aux o).2 + 1) } }
    else auxEnd h o 2 := if_neg (auxReply_busy hbusy)

theorem auxReply_missing : auxReply o .missing h =
    if (tget (0, 0) h.dsp.aux o).1 < 3 then
      { h with dsp := { h.dsp with aux := tset (0, 0) h.dsp.aux o ((tget (0, 0) h.dsp.aux o).1 + 1, (tget (0, 0) h.dsp.aux o).2) } }
    else auxEnd h o 3 := if_neg (auxReply_busy hbusy)

theorem auxReply_ack (data : List Byte) : auxReply o (.ack data) h =
    auxEnd (if fld h (aDspAuxCmd o) 28 1 = 1 then auxData h o (data.take (fld h (aDspAuxCmd o) 24 4 + 1)) else h) o 0 :=
  if_neg (auxReply_busy hbusy)

end
end

/-! ### The obligation on display events -/

/-- Settles O38: each command runs its meaning on a running core, and the lemmas above say what that meaning comes down to under the
hypotheses of its clause; a latch that takes place is `latchNow` with its steps named. -/
theorem displayEvents : Obligations.DisplayEvents := by
  unfold Obligations.DisplayEvents
  refine fun s o hrun hpresent => ⟨?rise, ?unplug, ?irq, ?latchWaits, ?latch, ?underrun, ?check, ?safe, ?auxStart, ?auxReply⟩
  case rise => exact fun k hlow => act_effect hrun (hpdRise_trains hpresent hlow)
  case unplug => exact fun g hhigh hg => act_effect hrun (hpdUnplug_stops hpresent hhigh hg)
  case irq => exact fun lost k g hhigh hg => act_effect hrun (irqHpd_reads hpresent hhigh hg)
  case latchWaits =>
    exact fun k => ⟨fun hoff => act_effect hrun (g := fun h => h) (latchPoint_idle hoff),
      fun hscan hp0 => act_effect hrun (latchPoint_kept hscan hp0)⟩
  case latch =>
    rintro k f g h x old clr hscan hp0 rfl hscan' rfl rfl rfl rfl rfl
    have hon : ¬ (!scanning (lateLatches s.hub) o.val) = true := by simp [hscan']
    exact act_effect hrun ((latchPoint_now hscan hp0).trans (if_neg hon))
  case underrun =>
    exact fun k px g hscan hen hfirst hg =>
      ⟨act_effect hrun (dspUnderrun_marks hscan hen hfirst hg), act_effect hrun (dspUnderrun_marks hscan hen hfirst hg)⟩
  case check =>
    rintro w crc last g hscan hen hfirst rfl rfl rfl
    refine act_effect hrun ((if_neg (checkWindow_ready hscan hen hfirst)).trans ?_)
    simp only [decide_eq_true_eq]
  case safe => exact fun p => act_effect hrun (safeClr_waits hpresent)
  case auxStart =>
    intro p v g hgo hidle hg
    have hstarts (op : Nat) (hop : bitsOf v.toNat 28 3 = op) : s.act (auxRow op o.val v) = .next (s.onHub fun _ => g) :=
      act_effect hrun ((auxRow_starts hpresent hgo hidle hop rfl).trans hg.symm)
    exact ⟨hstarts 0, hstarts 1, hstarts 2, hstarts 3⟩
  case auxReply =>
    rintro t hbusy rfl
    refine ⟨?nack, ?deferAgain, ?deferEnds, ?missingAgain, ?missingEnds, fun data => ⟨?ackWrite, ?ackRead⟩⟩
    case nack => exact act_effect hrun (auxReply_nack hbusy)
    case deferAgain => exact fun hleft => act_effect hrun ((auxReply_defer hbusy).trans (if_pos hleft))
    case deferEnds => exact fun hover => act_effect hrun ((auxReply_defer hbusy).trans (if_neg (Nat.not_lt.mpr hover)))
    case missingAgain => exact fun hleft => act_effect hrun ((auxReply_missing hbusy).trans (if_pos hleft))
    case missingEnds => exact fun hover => act_effect hrun ((auxReply_missing hbusy).trans (if_neg (Nat.not_lt.mpr hover)))
    case ackWrite => exact fun hwrite => act_effect hrun ((auxReply_ack hbusy data).trans (by rw [if_neg hwrite]))
    case ackRead => exact fun hread => act_effect hrun ((auxReply_ack hbusy data).trans (by rw [if_pos hread]))

end Sys2Proof.Machine
end

section
/-!
PROOFS. What every step keeps (R86, R444, R446, R468, R490, R491, R508, R511, R514): each command answers a next state, in which the
cellar has its canonical form and the queue is as it was, and a core that does not run changes nothing; the obligations CellarFormAtReset,
CellarFormKept, CellarReadsAsWritten, EveryCommandAnswers, HaltedCoreChangesNothing and StepRunsTheCommandInFront assembled from that.
-/
namespace Sys2Proof.Machine

/-! ### Tables of one form (R446) -/

section
variable {α : Type}

theorem tfind_keysAbove {b a : Nat} (hle : a ≤ b) : ∀ {t : Tab α}, keysAbove b t = true → tfind t a = none
  | [], _ => rfl
  | (k, v) :: t, habove => by
    simp only [keysAbove, Bool.and_eq_true, decide_eq_true_eq] at habove
    obtain ⟨hk, ht⟩ := habove
    rw [tfind, if_neg (by omega), tfind_keysAbove hle ht]

theorem tget_cons_self (d : α) (k : Nat) (v : α) (t : Tab α) : tget d ((k, v) :: t) k = v := by simp [tget, tfind]

theorem tget_cons_ne (d : α) {k a : Nat} (v : α) (t : Tab α) (hne : a ≠ k) : tget d ((k, v) :: t) a = tget d t a := by
  simp [tget, tfind, hne]

theorem tget_keysAbove (d : α) {b a : Nat} {t : Tab α} (habove : keysAbove b t = true) (hle : a ≤ b) : tget d t a = d := by
  rw [tget, tfind_keysAbove hle habove, Option.getD_none]

/-- A key whose value is not the default lies below no table that reads alike. -/
theorem not_keysAbove_of_alike {d : α} {k : Nat} {v : α} {t u : Tab α} (hv : v ≠ d) (halike : tget d ((k, v) :: t) k = tget d u k) :
    ¬ keysAbove k u = true := fun habove => by
  rw [tget_cons_self, tget_keysAbove d habove le_rfl] at halike
  exact hv halike

variable [DecidableEq α] {d : α}

theorem canonical_cons {k : Nat} {v : α} {t : Tab α} :
    canonical d ((k, v) :: t) = true ↔ keysAbove k t = true ∧ v ≠ d ∧ canonical d t = true := by
  simp only [canonical, keysRise_cons, List.all_cons, Bool.and_eq_true, decide_eq_true_eq]
  tauto

/-- Two tables in canonical form that read alike are the same list. -/
theorem canonical_ext : ∀ {t u : Tab α}, canonical d t = true → canonical d u = true → (∀ a, tget d t a = tget d u a) → t = u
  | [], [], _, _, _ => rfl
  | [], (k, v) :: u, _, hu, halike => absurd rfl (not_keysAbove_of_alike (canonical_cons.mp hu).2.1 (halike k).symm)
  | (k, v) :: t, [], ht, _, halike => absurd rfl (not_keysAbove_of_alike (canonical_cons.mp ht).2.1 (halike k))
  | (k, v) :: t, (k', v') :: u, ht, hu, halike => by
    obtain ⟨habove, hv, htail⟩ := canonical_cons.mp ht
    obtain ⟨habove', hv', htail'⟩ := canonical_cons.mp hu
    have hnotlt : ¬ k < k' := fun hlt => not_keysAbove_of_alike hv (halike k)
      (by simp [keysAbove, hlt, keysAbove_mono (Nat.le_of_lt hlt) u habove'])
    have hnotgt : ¬ k' < k := fun hlt => not_keysAbove_of_alike hv' (halike k').symm
      (by simp [keysAbove, hlt, keysAbove_mono (Nat.le_of_lt hlt) t habove])
    obtain rfl : k = k' := by omega
    have hvalue := halike k
    rw [tget_cons_self, tget_cons_self] at hvalue
    have hrest : ∀ a, tget d t a = tget d u a := fun a => by
      by_cases hak : a = k
      · rw [hak, tget_keysAbove d habove le_rfl, tget_keysAbove d habove' le_rfl]
      · have hthere := halike a
        rwa [tget_cons_ne d v t hak, tget_cons_ne d v' u hak] at hthere
    rw [hvalue, canonical_ext htail htail' hrest]

end

/-! ### Going on with cellar and hub -/

section
variable {s : State} {f : Mem → Hub → Mem × Hub} {r : Mem × Hub}

theorem actAonMem_effect (heffect : f s.mem s.hub = r) : s.actAonMem f = .next { s with mem := r.1, hub := r.2 } := by
  rw [State.actAonMem, heffect]

theorem actMem_effect (hrun : s.hub.runs = true) (heffect : f s.mem s.hub = r) : s.actMem f = .next { s with mem := r.1, hub := r.2 } := by
  rw [actMem_runs hrun, heffect]

end

/-! ### What every command answers (R86, R446, R468) -/

/-- A next state with the queue as it was, and a cellar in canonical form where it was in that form. -/
def KeepsForm (s : State) (a : Ans) : Prop :=
  ∃ mh : Mem × Hub, a = .next { s with mem := mh.1, hub := mh.2 } ∧ (Memory.wf s.mem = true → Memory.wf mh.1 = true)

section
variable {s : State}

theorem keepsForm_of_hubAlone {a : Ans} (ha : HubAlone s a) : KeepsForm s a := by
  obtain ⟨f, rfl⟩ := ha
  exact ⟨(s.mem, f s.hub), rfl, id⟩

theorem keepsForm_actAonMem {f : Mem → Hub → Mem × Hub} (hf : Memory.wf s.mem = true → Memory.wf (f s.mem s.hub).1 = true) :
    KeepsForm s (s.actAonMem f) := ⟨f s.mem s.hub, actAonMem_effect rfl, hf⟩

theorem keepsForm_actMem {f : Mem → Hub → Mem × Hub} (hf : Memory.wf s.mem = true → Memory.wf (f s.mem s.hub).1 = true) :
    KeepsForm s (s.actMem f) := by
  cases hrun : s.hub.runs with
  | true => exact ⟨f s.mem s.hub, actMem_effect hrun rfl, hf⟩
  | false => exact ⟨(s.mem, s.hub), actMem_halted hrun f, id⟩

/-- The commands that write the cellar keep its form by the lemma of their meaning; all others leave it as it is. -/
theorem exec_keepsForm (c : Instr) (s : State) : KeepsForm s (exec c s) := by
  cases hlisted : mayWriteCellar c with
  | false => exact keepsForm_of_hubAlone (exec_hubAlone s hlisted)
  | true =>
    cases c with
    | switchOver => exact keepsForm_actMem (switchOver_wf _)
    | saveComplete dock uncorr => exact keepsForm_actMem (saveComplete_wf _ _ _)
    | restoreTestEnd cls index pass => exact keepsForm_actMem (restoreTestEnd_wf _ _ _ _)
    | vaultOpComplete uncorr => exact keepsForm_actMem (vaultOpComplete_wf _ _)
    | scanEnd lane => exact keepsForm_actMem (scanEnd_wf _ _)
    | copyComplete ring tag uncorr => exact keepsForm_actMem (copyComplete_wf _ _ _ _)
    | pwrStateDoze th => exact keepsForm_actMem fun hm => ite_wf (dozeEntry_wf _ hm) hm
    | barrelWrite q => exact keepsForm_actMem (barrelWrite_wf _ _)
    | relink => exact keepsForm_actMem (relink_wf _)
    | harvesterLatch running bad => exact keepsForm_actMem (harvesterLatch_wf _ _ _)
    | packetSelect sp => exact keepsForm_actMem (packetSelect_wf _ _)
    | powerOnReset lim => exact keepsForm_actAonMem (f := fun _ h => (⟨[]⟩, powerOnReset lim h)) fun _ => empty_wf
    | brownOut m => exact keepsForm_actAonMem (brownOut_wf _ _)
    | railRetry => exact keepsForm_actAonMem (railRetry_wf _)
    | offExit source index => exact keepsForm_actAonMem (offExit_wf _ _ _)
    | wakeTimer => exact keepsForm_actAonMem (wakeTimer_wf _)
    | smbusAddressMatch addr => exact keepsForm_actAonMem (smbusMatch_wf _ _)
    | _ => cases hlisted

end

/-! ### A core that does not run (R490, R491, R508, R511, R514) -/

/-- The commands of the always-on domain apart, each goes on with the hub, or with the cellar and the hub, of a running core only. -/
theorem exec_halted {c : Instr} {s : State} (hrun : s.hub.runs = false) (hserved : servedAlwaysOn c = false) : exec c s = .next s := by
  cases c with
  | tickEdge _ _ _ | feedPresent _ _ | feedLost _ | feedOver _ | insertion _ _ | rampStart _ | trip _ _ | powerGood _ _
  | retryEnd _ | removal _ | fetShort _ | dozeWake _ _ _ | sentrySample _ | thermalShutdown _ | offExit _ _ | wakeTimer
  | warmResetRelease | powerOnReset _ | railFail _ | brownOut _ | railRetry | setPtr _ _ | write _ _ | read _
  | smbusAddressMatch _ => cases hserved
  | switchOver | saveComplete _ _ | restoreTestEnd _ _ _ | vaultOpComplete _ | scanEnd _ | copyComplete _ _ _ | pwrStateDoze _
  | barrelWrite _ | relink | harvesterLatch _ _ | packetSelect _ | rackSave _ | imageChecked _ _ | registerWrite _ _ _ _
  | csrWr _ _ | csrRmw _ _ => exact actMem_halted hrun _
  | _ => exact act_halted hrun _

/-! ### The obligations on every step -/

/-- Settles O41: a step runs the command in front, and what `exec_keepsForm` says of it; an empty queue changes nothing. -/
theorem cellarFormKept : Obligations.CellarFormKept := by
  unfold Obligations.CellarFormKept
  intro s t hform hstep
  cases hqueue : s.pending with
  | nil =>
    rw [step, hqueue] at hstep
    cases hstep
    exact hform
  | cons c rest =>
    rw [step, hqueue] at hstep
    obtain ⟨mh, hnext, hkeeps⟩ := exec_keepsForm c { s with pending := rest }
    cases hnext.symm.trans hstep
    exact hkeeps hform

/-- Settles O40: no byte is listed at reset, and tables in canonical form that read alike are equal. -/
theorem cellarFormAtReset : Obligations.CellarFormAtReset := by
  unfold Obligations.CellarFormAtReset
  exact ⟨empty_wf, fun m n hm hn halike => congrArg Mem.mk (canonical_ext hm hn halike)⟩

/-- Settles O42: a write off the bus is a run of bytes written to the cellar, one on the bus leaves the cellar as it is. -/
theorem cellarReadsAsWritten : Obligations.CellarReadsAsWritten := by
  unfold Obligations.CellarReadsAsWritten
  intro m h p a bs
  have hcellar (hbus : onBus a = false) : (writeHub m h p a bs).1 = writeCellar m h a bs := by simp [writeHub, hbus]
  refine ⟨fun hbus i b hb => ?inside, fun hbus c hout => ?outside, fun hbus c => ?onBus⟩
  case inside =>
    rw [hcellar hbus]
    cases hhole : isHole h (a + i) with
    | true => exact cellarByte_writeCellar_hole h bs m a (a + i) hhole
    | false => exact cellarByte_writeCellar_in h bs m a i b hb hhole
  case outside => rw [hcellar hbus, cellarByte_writeCellar_out h bs m a c hout]
  case onBus => rw [writeHub_bus h p bs hbus]

/-- Settles O43: what `exec_keepsForm` says of the queue. -/
theorem everyCommandAnswers : Obligations.EveryCommandAnswers := by
  unfold Obligations.EveryCommandAnswers
  intro c s
  obtain ⟨mh, hnext, -⟩ := exec_keepsForm c s
  exact ⟨_, hnext, rfl⟩

/-- Settles O44 by `exec_halted`. -/
theorem haltedCoreChangesNothing : Obligations.HaltedCoreChangesNothing := by
  unfold Obligations.HaltedCoreChangesNothing
  exact fun c s => exec_halted

/-- Settles O1: the two branches of a step. -/
theorem stepRunsTheCommandInFront : Obligations.StepRunsTheCommandInFront := by
  unfold Obligations.StepRunsTheCommandInFront
  exact ⟨fun _ _ _ => rfl, fun s hempty => by rw [step, hempty]⟩

end Sys2Proof.Machine
end

section
/-!
PROOFS. The key vault and its life cycle (R181, R402-R423): the checks of the key instructions and what each meaning comes down to once
they pass, and the obligations KeyVaultCommands and LifeCycleCommands assembled from that.
-/
namespace Sys2Proof.Machine

/-! ### Checks of the key instructions (R406, R409, R411, R414-R417) -/

section
variable {w : IW}

theorem keyGraft_operandsOk (htarget : w.target < 1024) (hoperand : onlyBits w.operand 0xF83FF = true)
    (hroot : bitOf w.operand 15 = true → w.o 0 10 = 0) :
    ¬ (1024 ≤ w.target ∨ (!onlyBits w.operand 0xF83FF) = true ∨ bitOf w.operand 15 = true ∧ w.o 0 10 ≠ 0) := by
  simp only [hoperand, Bool.not_true, Bool.false_eq_true, false_or, not_or, not_le, not_and, not_not]
  exact ⟨htarget, hroot⟩

theorem keyGraft_slotOk {k : KeySlot} (hfree : fillable k = true) (hgen : k.gen < 0xFFFFFFFF) :
    ¬ ((!fillable k) = true ∨ 0xFFFFFFFF ≤ k.gen) := by
  simp only [hfree, Bool.not_true, Bool.false_eq_true, false_or, not_le]
  exact hgen

theorem keyBind_operandsOk {v : Variant} {sp tid : Nat} (htarget : w.target < 1024) (hoperand : w.operand < 2 ^ 17) (hsp : sp < 24)
    (hpresent : spPresent v sp = true) (hbuilt : builtIn sp tid = false) :
    ¬ (1024 ≤ w.target ∨ 2 ^ 17 ≤ w.operand ∨ 24 ≤ sp ∨ (!spPresent v sp) = true ∨ builtIn sp tid = true) := by
  simp only [hpresent, hbuilt, Bool.not_true, Bool.false_eq_true, or_false]
  omega

end

/-- A blob in the cellar waits for it; one behind a management port does not (R415, R446). -/
theorem blob_reachable {h : Hub} {a : Nat} (hthere : onBus a = true ∨ cellarReady h = true) : (!onBus a && !cellarReady h) = false := by
  rcases hthere with hbus | hready
  · simp [hbus]
  · simp [hready]

theorem fillable_not_pending {k : KeySlot} (hfree : fillable k = true) : k.state ≠ 1 := by
  rintro hpending
  simp [fillable, hpending] at hfree

/-! ### Operations that finish (R411, R414, R415) -/

section
variable {h g : Hub} {m : Mem} {rest : List VaultOp} (hg : g = { h with keys := { h.keys with ops := rest } }) (uncorr : Bool)
include hg

theorem vaultOpComplete_graft {cmd n prev parent usage ctx : Nat} {root : Bool}
    (hops : h.keys.ops = .graft cmd n prev root parent usage ctx :: rest) :
    vaultOpComplete uncorr m h = (m, tally (finishGraft g cmd n prev root parent usage ctx) 0x80 0x0803 1 none) := by
  simp only [vaultOpComplete, hops, hg]

theorem vaultOpComplete_load {cmd n addr : Nat} {prev : Option Nat} (hops : h.keys.ops = .load cmd n prev addr :: rest) :
    vaultOpComplete uncorr m h = (m, finishLoad m g cmd n prev addr uncorr) := by
  simp only [vaultOpComplete, hops, hg]

theorem vaultOpComplete_wrap {cmd n addr : Nat} {v : Mem × Hub} (hops : h.keys.ops = .wrap cmd n addr :: rest)
    (hready : (slot g n).state = 2) (hcurrent : ancestryCurrent g (slot g n) = true)
    (hv : v = writeHub m g (idPort g cmd) addr (blobOf g n)) :
    vaultOpComplete uncorr m h = (v.1, settle v.2 cmd .ok 72) := by
  have hgood : ¬ ((slot g n).state ≠ 2 ∨ (!ancestryCurrent g (slot g n)) = true) := by simp [hready, hcurrent]
  simp only [vaultOpComplete, hops, ← hg, if_neg hgood, ← hv]

end

/-! ### Imports, sweeps and graces (R181, R416, R423) -/

/-- An import that GO starts in NURSERY or DEBUG fills its slot with the higher GEN, and zeroes its registers (R416). -/
theorem keyImport_fills {v key : Nat} {h g : Hub} (hgo : bitOf v 31 = true)
    (hg : g = setFld (setFld h aKeyImportCtl 16 4 (bitsOf v 16 4)) aKeyImportCtl 0 10 (bitsOf v 0 10))
    (hlc : g.keys.lc = 1 ∨ g.keys.lc = 3) (hchange : g.keys.change = none) (husage : usageOk (bitsOf v 16 4) = true)
    (hfree : fillable (slot g (bitsOf v 0 10)) = true) (hgen : (slot g (bitsOf v 0 10)).gen < (rd g aKeyImportGen).toNat)
    (hkey : key = (List.range 8).foldl (fun a k => a + (rd g (aKeyImport k)).toNat * 2 ^ (32 * k)) 0) :
    keyImport v h =
      setFld (fillSlot ((List.range 8).foldl (fun h k => wr h (aKeyImport k) 0) (wr g aKeyImportGen 0)) (bitsOf v 0 10)
        (bitsOf v 16 4) (nurseryRoot g) 1 true (rootEpoch g) (rd g aKeyImportGen).toNat key []) aKeyImportCtl 28 3 0 := by
  have hmode : ¬ (g.keys.lc ≠ 1 ∧ g.keys.lc ≠ 3) := by tauto
  have hidle : ¬ (g.keys.change.isSome = true ∨ (slot g (bitsOf v 0 10)).state = 1) := by
    simp [hchange, fillable_not_pending hfree]
  have hnew : ¬ ((!fillable (slot g (bitsOf v 0 10))) = true ∨ (slot g (bitsOf v 0 10)).gen = 0xFFFFFFFF ∨
      (rd g aKeyImportGen).toNat ≤ (slot g (bitsOf v 0 10)).gen) := by
    have hword := (rd g aKeyImportGen).isLt
    simp only [hfree, Bool.not_true, Bool.false_eq_true, false_or]
    omega
  simp only [keyImport, ← hg, hgo, husage, if_neg hmode, if_neg hidle, if_neg hnew, ← hkey, Bool.not_true, Bool.false_eq_true, if_false,
    if_true]
  rfl

theorem keySweep_sweeps {h : Hub} (hfirst : h.tim.sweepAt ≠ some h.tim.edges) :
    keySweep h =
      let h := atClk h 64000
      let h := { h with tim := { h.tim with sweepAt := some h.tim.edges } }
      keylessScan ((h.keys.slots.map (·.1)).foldl (fun h n =>
        if (slot h n).state = 2 ∧ !ancestryCurrent h (slot h n) then staleSlot h n else h) h) :=
  if_neg hfirst

theorem keyGraceEnd_ends {h : Hub} {sp tid old edge : Nat} (hgrace : tfind h.keys.grace (endKey sp tid) = some (old, edge))
    (hover : fld h (aTrkKeyGrace sp) 0 8 ≤ edgesSince h edge) :
    keyGraceEnd sp tid h = { h with keys := { h.keys with grace := tdel h.keys.grace (endKey sp tid) } } := by
  simp only [keyGraceEnd, hgrace, if_pos hover]

/-! ### The obligation on the key vault -/

/-- Settles O21: under the hypotheses of its clause an instruction passes its own checks, and the lemmas above say what the other
commands come down to. -/
theorem keyVaultCommands : Obligations.KeyVaultCommands := by
  unfold Obligations.KeyVaultCommands
  refine fun s => ⟨?graft, ?load, ?wrap, fun hrun => ⟨?graftDone, ?loadDone, ?wrapDone⟩, ?kill, ?bind, ?import_, ?sweep, ?grace⟩
  case graft =>
    intro th c w at_ htarget hoperand hroot husage hlc hbusy hfree hgen hparent
    refine act_onLong at_ ((if_neg (keyGraft_operandsOk htarget hoperand hroot)).trans ?_)
    simp only [husage, hlc, hbusy, if_neg (keyGraft_slotOk hfree hgen), hparent, Bool.not_true, Bool.false_eq_true, if_false]
  case load =>
    intro th c w at_ htarget hoperand hlc hrange hbus hthere hbusy
    have hform : ¬ (1024 ≤ w.target ∨ 2 ^ 16 ≤ w.operand) := by omega
    constructor <;> intro hfree <;> refine act_onLong at_ ((if_neg hform).trans ?_) <;>
      simp only [hlc, hoperand, hrange, hbus, blob_reachable hthere, hbusy, hfree, Bool.not_true, Bool.false_eq_true, ne_eq, not_true,
        if_false, if_true]
  case wrap =>
    intro th c w at_ htarget hoperand hlc hrange hbus hthere hbusy hready hcurrent
    have hform : ¬ (1024 ≤ w.target ∨ w.operand ≠ 0) := by omega
    have hslot : ¬ ((slot s.hub w.target).state ≠ 2 ∨ (!ancestryCurrent s.hub (slot s.hub w.target)) = true) := by
      simp [hready, hcurrent]
    refine act_onLong at_ ((if_neg hform).trans ?_)
    simp only [hlc, hrange, hbus, blob_reachable hthere, hbusy, if_neg hslot, Bool.not_true, Bool.false_eq_true, if_false]
  case graftDone =>
    intro u cmd n prev parent usage ctx root rest hops
    exact actMem_effect hrun (vaultOpComplete_graft rfl u hops)
  case loadDone =>
    intro u cmd n addr prev rest hops
    exact actMem_effect hrun (vaultOpComplete_load rfl u hops)
  case wrapDone =>
    intro u cmd n addr rest g v hops hg hready hcurrent hv
    exact actMem_effect hrun (vaultOpComplete_wrap hg u hops hready hcurrent hv)
  case kill =>
    intro th c w at_ htarget hoperand hlc
    have hform : ¬ (1024 ≤ w.target ∨ w.operand ≠ 0) := by omega
    exact act_onInstr at_ ((if_neg hform).trans (if_neg (ne_true_of_eq_false hlc)))
  case bind =>
    rintro th c w sp tid recs at_ htarget hoperand rfl rfl hsp hpresent hbuilt hlc rfl hmay
    refine act_onInstr at_ ((if_neg (keyBind_operandsOk htarget hoperand hsp hpresent hbuilt)).trans ?_)
    exact (if_neg (ne_true_of_eq_false hlc)).trans (stageOpen_ok hmay)
  case import_ =>
    intro p v g key hrun hgo hg hlc hchange husage hfree hgen hkey
    exact act_effect hrun (keyImport_fills hgo hg hlc hchange husage hfree hgen hkey)
  case sweep => exact fun hrun hfirst => act_effect hrun (keySweep_sweeps hfirst)
  case grace => exact fun sp tid old edge hrun hgrace hover => act_effect hrun (keyGraceEnd_ends hgrace hover)

/-! ### The life cycle (R402, R403, R405) -/

section
variable {h : Hub} {v : Nat}

theorem lcCmd_begins (hcode : bitsOf v 16 16 = 0x4C43) (hidle : h.keys.change = none) (hnew : bitsOf v 0 3 ≠ h.keys.lc)
    (hpermits : lcPermits h (bitsOf v 0 3) = true) (hepoch : lcDestroys h (bitsOf v 0 3) = true → h.part.epoch.toNat ≠ 255) :
    lcCmd v h = { h with keys := { h.keys with change := some (bitsOf v 0 3) } } :=
  if_neg (by simpa [hcode, hidle, hnew, hpermits] using hepoch)

theorem lcCmd_refuses (hpermits : lcPermits h (bitsOf v 0 3) = false) : lcCmd v h = raise h 0x0D 1 0 0 :=
  if_pos (by simp [hpermits])

theorem lcChange_takesEffect {t : Nat} (hchange : h.keys.change = some t) :
    lcChange h =
      let g := lcEffects h t
      raise (keylessScan { g with
        part := { g.part with lcBase := if t = 3 then g.part.lcBase else BitVec.ofNat 3 t }
        keys := { g.keys with lc := t, change := none } }) 0x0D 0 0 0 := by
  simp only [lcChange, hchange]

theorem fuseCmd_begins (hcode : bitsOf v 16 16 = 0x4346) (hset : bitOf v 0 = true) (hidle : h.keys.change = none)
    (hopen : h.part.compat = false) (hnotDebug : h.keys.lc ≠ 3) (hbase : h.part.lcBase = 0 ∨ h.part.lcBase = 1) :
    fuseCmd v h = { h with keys := { h.keys with fuse := true } } :=
  if_neg (by simpa [hcode, hset, hidle, hopen, hnotDebug] using hbase.resolve_left)

end

/-- Settles O22: each command runs its meaning on a running core, and under the hypotheses of its clause no check of that meaning
stops it but the table's. -/
theorem lifeCycleCommands : Obligations.LifeCycleCommands := by
  unfold Obligations.LifeCycleCommands
  refine fun s hrun => ⟨?ask, ?change, ?fuse, ?blown⟩
  case ask =>
    exact fun p v hcode hidle hnew =>
      ⟨fun hpermits hepoch => act_effect hrun (lcCmd_begins hcode hidle hnew hpermits hepoch),
        fun hpermits => act_effect hrun (lcCmd_refuses hpermits)⟩
  case change => exact fun t hchange => act_effect hrun (lcChange_takesEffect hchange)
  case fuse =>
    exact fun p v hcode hset hidle hopen hnotDebug hbase =>
      act_effect hrun (fuseCmd_begins hcode hset hidle hopen hnotDebug hbase)
  case blown => exact fun hfuse => act_effect hrun (if_pos hfuse)

end Sys2Proof.Machine
end

section
/-!
PROOFS. Copies, the background test, SRAM and cellar errors, the scrub and readiness (R88, R429-R447): what each meaning comes down to
once its guard is met, and the obligation MemoryCommands assembled from that.
-/
namespace Sys2Proof.Machine

/-! ### Copies and fills (R68, R88, R441) -/

/-- A copy or fill of whole lines that its port may reach, each end on a bus or in a cellar that is ready. -/
theorem copyStart_starts {h : Hub} {c : Cmd} {w : IW} {x : Copy} (htarget : w.target = 0) (hlines : x.len % 64 = 0)
    (hdst : hubRangeOk h x.dst x.len = true) (hsrc : (!x.fill && !hubRangeOk h x.src x.len) = false)
    (hdstBus : busDenied h (cmdPort h c) x.dst = false) (hsrcBus : (!x.fill && busDenied h (cmdPort h c) x.src) = false)
    (hready : ((!onBus x.dst || (!x.fill && !onBus x.src)) && !cellarReady h) = false) :
    copyStart h c w x =
      let g := takeChannel (beginWait h c w .op) c.id
      { g with mst := { g.mst with copies := g.mst.copies ++ [x] } } := by
  simp only [copyStart, htarget, hlines, hdst, hsrc, hdstBus, hsrcBus, hready, ne_eq, not_true, decide_false, Bool.not_true, Bool.or_false,
    Bool.false_eq_true, if_false]

section
variable {h g : Hub} {m : Mem} {r : Nat} {tag : Byte} {uncorr : Bool} {c : Cmd} {x : Copy} {d : Hub × List Byte × Bool} {v : Mem × Hub}
  (hcmd : findTag h r tag = some c) (hcopy : h.mst.copies.find? (fun x => decide (x.cmd = c.id)) = some x)
  (hheld : channelHeld h c.id = true)
  (hg : g = freeChannel { h with mst := { h.mst with copies := h.mst.copies.filter (fun y => decide (y.cmd ≠ c.id)) } } c.id)
  (hd : d = copyData m g x)
include hcmd hcopy hheld hg hd

/-- A copy whose every line could be read moves its data and ends OK. -/
theorem copyComplete_ok (hread : d.2.2 = true) (hgood : uncorr = false ∨ x.fill = true)
    (hv : v = writeHub m d.1 (cmdPort h c) x.dst d.2.1) : copyComplete r tag uncorr m h = (v.1, settle v.2 c.id .ok 0) := by
  have hwhole : d.2.2 = true ∧ (!decide (uncorr = true ∧ (!x.fill) = true)) = true :=
    ⟨hread, by rcases hgood with hu | hf <;> simp [*]⟩
  simp only [copyComplete, hcmd, hcopy, hheld, ← hg, ← hd, if_pos hwhole, ← hv, Bool.not_true, Bool.false_eq_true, if_false]

/-- Otherwise it moves some of the lines before the unreadable one and ends FAULT. -/
theorem copyComplete_fault {n : Nat} (hbad : d.2.2 = false ∨ uncorr = true ∧ x.fill = false)
    (hn : n = (drawFree d.1).2.toNat % ((if onBus x.src then x.len / 64 else goodLines h x.src x.len) + 1))
    (hv : v = writeHub m (drawFree d.1).1 (cmdPort h c) x.dst (d.2.1.take (64 * n))) :
    copyComplete r tag uncorr m h = (v.1, settle v.2 c.id .fault 0) := by
  have hpart : ¬ (d.2.2 = true ∧ (!decide (uncorr = true ∧ (!x.fill) = true)) = true) := by
    rcases hbad with hlost | ⟨hu, hf⟩
    · simp [hlost]
    · simp [hu, hf]
  simp only [copyComplete, hcmd, hcopy, hheld, ← hg, ← hd, if_neg hpart, ← hn, ← hv, Bool.not_true, Bool.false_eq_true, if_false]

end

/-! ### The background test (R45, R47, R432) -/

section
variable {h : Hub} (fails : List RegionFail) (hopen : phaseOpen h 3 = true)
include hopen

theorem backgroundTest_resumes (hleft : phaseSuspended h 3 = true) :
    backgroundTest fails h = (List.range 53).foldl (testGroup fails) (resumed (enterPhase h 3) 3) := by
  simp only [backgroundTest, hopen, hleft, Bool.not_true, Bool.and_false, Bool.or_false, Bool.false_eq_true, if_false, if_true]

theorem backgroundTest_tests (hfresh : phaseSuspended h 3 = false) (hdue : h.mst.testEdge < h.tim.edges) :
    backgroundTest fails h =
      let g := enterPhase h 3
      (List.range 53).foldl (testGroup fails) { g with mst := { g.mst with testEdge := g.tim.edges } } := by
  simp only [backgroundTest, hopen, hfresh, Nat.not_le.mpr hdue, decide_false, Bool.not_true, Bool.false_and, Bool.or_false,
    Bool.false_eq_true, if_false]

end

/-! ### SRAM errors (R429, R430) -/

section
variable {h : Hub} {x : SramSite} (hthere : (siteBucket x).1 ≠ 4 ∨ (siteBucket x).2.1 < h.part.res.outputs)
include hthere

theorem site_present : ¬ (!(decide ((siteBucket x).1 ≠ 4) || decide ((siteBucket x).2.1 < h.part.res.outputs))) = true := by
  simpa [Decidable.imp_iff_not_or] using hthere

/-- A single error is corrected, as is one of a configuration record, which its shadow restores. -/
theorem sramError_corrected {double : Bool} (hmild : double = false ∨ ∃ g b, x = .state g b (some .record)) :
    sramError x double h =
      faults (tally (count h aMemCntSramCorr 1) 0x90 0x0902 1 none) [.add (siteBucket x).1 (siteBucket x).2.1 1 (siteBucket x).2.2] := by
  simp only [sramError, if_neg (site_present hthere)]
  rcases hmild with rfl | ⟨g, b, rfl⟩ <;> exact if_neg (by simp)

theorem sramError_uncorrectable (hplain : ∀ g b, x ≠ .state g b (some .record)) :
    sramError x true h =
      faults (sramEffect (raise (count h aMemCntSramUncorr 1) 0x0E 0 0 0) x)
        [.add (siteBucket x).1 (siteBucket x).2.1 8 (siteBucket x).2.2] := by
  refine (if_neg (site_present hthere)).trans (if_pos ⟨rfl, ?_⟩)
  split
  · exact absurd rfl (hplain _ _)
  · rfl

end

/-! ### The cellar (R438-R446) -/

theorem cellarCorr_counts {h : Hub} {c : Nat} (hon : channelOn h c = true) :
    cellarCorr c h =
      let g := tally (count h (aMemChCntCorr c) 1) 0x90 0x0903 1 none
      let n := tget 0 g.mst.corr c + 1
      let u := 2 ^ fld g aMemCfg 8 5
      faults { g with mst := { g.mst with corr := tset 0 g.mst.corr c (n % u) } } [.add 3 c (n / u) 0] :=
  if_neg (by simp [hon])

section
variable {h g : Hub} {c addr row : Nat} {ppr : Bool} (hon : channelOn h c = true) (hchan : chanOf h addr = c)
  (hthere : addr < installedBytes h) (hfirst : tget false h.mst.poison (addr / 64) = false)
  (hg : g = raise (wr64 (count { h with mst := { h.mst with poison := tset false h.mst.poison (addr / 64) true } } (aMemChCntUncorr c) 1)
    (aMemChErrLo c) addr) 0x0E 3 0 c)
include hon hchan hthere hfirst hg

/-- The first detection of an uncorrectable line poisons it; what follows is open to the watch list. -/
theorem cellarUncorr_first : cellarUncorr c addr row ppr h =
    let rows := tget [] g.mst.watch c
    if rows.contains row then faults g [.add 3 c 1 0, .retire 3 c 1 0]
    else
      let rows := if 64 ≤ rows.length then rows.drop 1 ++ [row] else rows ++ [row]
      let x := setFld { g with mst := { g.mst with watch := tset [] g.mst.watch c rows } } (aMemChStatus c) 0 7 rows.length
      faults (if ppr then setFld x (aMemChStatus c) 8 8 (min 255 (fld x (aMemChStatus c) 8 8 + 1)) else x) [.add 3 c 1 0] := by
  subst hg
  exact if_neg (by simp [hon, hchan, hthere, hfirst])

theorem cellarUncorr_again (hwatched : (tget [] g.mst.watch c).contains row = true) :
    cellarUncorr c addr row ppr h = faults g [.add 3 c 1 0, .retire 3 c 1 0] :=
  (cellarUncorr_first hon hchan hthere hfirst hg).trans (if_pos hwatched)

theorem cellarUncorr_watches {rows : List Nat} {x : Hub} (hnew : (tget [] g.mst.watch c).contains row = false)
    (hrows : rows = (if 64 ≤ (tget [] g.mst.watch c).length then (tget [] g.mst.watch c).drop 1 ++ [row]
      else tget [] g.mst.watch c ++ [row]))
    (hx : x = setFld { g with mst := { g.mst with watch := tset [] g.mst.watch c rows } } (aMemChStatus c) 0 7 rows.length) :
    cellarUncorr c addr row ppr h =
      faults (if ppr then setFld x (aMemChStatus c) 8 8 (min 255 (fld x (aMemChStatus c) 8 8 + 1)) else x) [.add 3 c 1 0] := by
  subst hrows hx
  exact (cellarUncorr_first hon hchan hthere hfirst hg).trans (if_neg (ne_true_of_eq_false hnew))

end

theorem patrolScrub_ready {h : Hub} (hon : flag h aMemScrubCfg 31 = true) (hready : cellarReady h = true)
    (hidle : flag h aMemCellarStatus 30 = false) :
    ¬ (!flag h aMemScrubCfg 31 || !cellarReady h || flag h aMemCellarStatus 30) = true := by
  simp [hon, hready, hidle]

/-! ### The obligation on memories -/

/-- Settles O19: each command runs its meaning on a running core, and the lemmas above say what that meaning comes down to under the
hypotheses of its clause. -/
theorem memoryCommands : Obligations.MemoryCommands := by
  unfold Obligations.MemoryCommands
  refine fun s hrun => ⟨?copy, ?fill, ?complete, ?test, ?sram, ?corrected, ?uncorrectable, ?scrub, ?ready⟩
  case copy =>
    intro th c w at_ htarget hlines hsrc hdst hsrcBus hdstBus hready
    exact act_onLong at_ (copyStart_starts htarget hlines hdst (by simp [hsrc]) hdstBus (by simp [hsrcBus])
      (by rcases hready with hready | ⟨hsrcOn, hdstOn⟩ <;> simp [*]))
  case fill =>
    intro th c w at_ htarget hlines hdst hdstBus hready
    exact act_onLong at_ (copyStart_starts htarget hlines hdst rfl hdstBus rfl (by rcases hready with hready | hdstOn <;> simp [*]))
  case complete =>
    intro r tag uncorr c x g d hcmd hcopy hheld hg hd
    exact ⟨fun hread hgood v hv => actMem_effect hrun (copyComplete_ok hcmd hcopy hheld hg hd hread hgood hv),
      fun hbad n v hn hv => actMem_effect hrun (copyComplete_fault hcmd hcopy hheld hg hd hbad hn hv)⟩
  case test =>
    exact fun fails hopen => ⟨fun hleft => act_effect hrun (backgroundTest_resumes fails hopen hleft),
      fun hfresh hdue => act_effect hrun (backgroundTest_tests fails hopen hfresh hdue)⟩
  case sram =>
    exact fun x hthere => ⟨fun double hmild => act_effect hrun (sramError_corrected hthere hmild),
      fun hplain => act_effect hrun (sramError_uncorrectable hthere hplain)⟩
  case corrected => exact fun c hon => act_effect hrun (cellarCorr_counts hon)
  case uncorrectable =>
    exact fun c a row ppr g hon hchan hthere hfirst hg =>
      ⟨fun hwatched => act_effect hrun (cellarUncorr_again hon hchan hthere hfirst hg hwatched),
        fun rows x hnew hrows hx => act_effect hrun (cellarUncorr_watches hon hchan hthere hfirst hg hnew hrows hx)⟩
  case scrub => exact fun l hon hready hidle => act_effect hrun (if_neg (patrolScrub_ready hon hready hidle))
  case ready => exact fun t hnot => act_effect hrun (if_neg (ne_true_of_eq_false hnot))

end Sys2Proof.Machine
end

section
/-!
PROOFS. Selections, arming, marks and the Harvester's latch (R50, R324, R453-R465): what each meaning comes down to once its checks pass,
and the obligation TelemetryCommands assembled from that.
-/
namespace Sys2Proof.Machine

/-! ### The operands' ranges (R453, R456, R459, R541) -/

theorem cntSelect_operandsOk {w : IW} {n k ev : Nat} {b : Nat} (hcounter : k < n) (hoperand : onlyBits w.operand 0x8000FFFF = true)
    (hfilter : w.o 31 1 = 1 ∨ w.x 0 = 0) (hknown : selectCode b k ev (decide (w.o 31 1 = 1)) (w.x 0) ≠ 1)
    (hkind : selectCode b k ev (decide (w.o 31 1 = 1)) (w.x 0) ≠ 2) :
    ¬ (n ≤ k ∨ (!onlyBits w.operand 0x8000FFFF) = true ∨ (!decide (w.o 31 1 = 1)) = true ∧ w.x 0 ≠ 0 ∨
      selectCode b k ev (decide (w.o 31 1 = 1)) (w.x 0) = 1 ∨ selectCode b k ev (decide (w.o 31 1 = 1)) (w.x 0) = 2) := by
  simp only [hoperand, hknown, hkind, Bool.not_true, Bool.false_eq_true, Bool.not_eq_true', decide_eq_false_iff_not, or_false, false_or,
    not_or, not_le, not_and, not_not]
  exact ⟨hcounter, fun hoff => hfilter.resolve_left hoff⟩

theorem cntArm_operandsOk {w : IW} {n k : Nat} (hbank : 0 < n) (hcounter : k < n ∨ k = 255) (hoperand : w.operand < 4) :
    ¬ (n = 0 ∨ (n ≤ k ∧ k ≠ 255) ∨ 4 ≤ w.operand) := by omega

theorem markSet_operandsOk {w : IW} {v : Variant} (htarget : w.target < 24) (hpresent : spPresent v w.target = true)
    (hoperand : onlyBits w.operand 0x1F = true) (hrate : markRateOk w.operand = true) :
    ¬ (24 ≤ w.target ∨ (!spPresent v w.target) = true ∨ (!onlyBits w.operand 0x1F) = true ∨ (!markRateOk w.operand) = true) := by
  simp only [hpresent, hoperand, hrate, Bool.not_true, Bool.false_eq_true, or_false, not_le]
  exact htarget

/-! ### The Harvester's latch (R45, R47, R50, R462-R464) -/

section
variable {h g : Hub} {m : Mem} {running bad : Bool} (hopen : phaseOpen h 1 = true) (hg : g = resumed (enterPhase h 2) 2)
include hopen hg

/-- A latch runs in P2; a copy suspended at the edge still runs. -/
theorem harvesterLatch_latches :
    harvesterLatch running bad m h = latchCounters (running || phaseSuspended (enterPhase h 2) 2) bad m g := by
  simp only [harvesterLatch, hopen, ← hg, Bool.not_true, Bool.false_eq_true, if_false]

theorem harvesterLatch_records (hidle : running = false) (hfresh : phaseSuspended (enterPhase h 2) 2 = false)
    (hbank12 : bitOf g.mst.dpLost 12 = false) (hbank13 : bitOf g.mst.dpLost 13 = false) :
    harvesterLatch running bad m h = writeRecord_ m (sampleQueues g) bad :=
  (harvesterLatch_latches hopen hg).trans (if_neg (by simp [hidle, hfresh, hbank12, hbank13]))

theorem harvesterLatch_late {r : Mem × Hub} (hbusy : running = true ∨ phaseSuspended (enterPhase h 2) 2 = true) (hr : r = markLate m g) :
    harvesterLatch running bad m h =
      (r.1, raise (count { r.2 with tel := { r.2.tel with skipped := r.2.tel.skipped + 1 } } aTelCntSkipped 1) 0x0F 0 0 0) := by
  have hruns : (running || phaseSuspended (enterPhase h 2) 2) = true := by simpa using hbusy
  rw [harvesterLatch_latches hopen hg, hruns, hr]
  rfl

theorem harvesterLatch_lost (hidle : running = false) (hfresh : phaseSuspended (enterPhase h 2) 2 = false)
    (hlost : bitOf g.mst.dpLost 12 = true ∨ bitOf g.mst.dpLost 13 = true) :
    harvesterLatch running bad m h =
      (m, raise (count { g with tel := { g.tel with skipped := g.tel.skipped + 1 } } aTelCntSkipped 1) 0x0F 0 0 0) := by
  have hidle' : (running || phaseSuspended (enterPhase h 2) 2) = false := by simp [hidle, hfresh]
  rw [harvesterLatch_latches hopen hg, hidle']
  exact if_pos (by simpa using hlost)

end

/-! ### The obligation on telemetry -/

/-- Settles O20: under the hypotheses of its clause an instruction passes its own checks, and the latch takes the branch of
`latchCounters` that its state says. -/
theorem telemetryCommands : Obligations.TelemetryCommands := by
  unfold Obligations.TelemetryCommands
  refine fun s => ⟨?select, ?arm, ?mark, ?latch, ?age⟩
  case select =>
    rintro th c w recs at_ hcounter hoperand hfilter hknown hkind rfl hmay
    have hchecks := cntSelect_operandsOk hcounter hoperand hfilter hknown hkind
    exact act_onInstr at_ ((if_neg hchecks).trans (stageOpen_ok hmay))
  case arm =>
    intro th c w at_ hbank hcounter hoperand
    exact act_onInstr at_ (if_neg (cntArm_operandsOk hbank hcounter hoperand))
  case mark =>
    intro th c w at_ htarget hpresent hoperand hrate hmay
    have hchecks := markSet_operandsOk htarget hpresent hoperand hrate
    exact act_onInstr at_ ((if_neg hchecks).trans (stageOpen_ok hmay))
  case latch =>
    intro running bad g hrun hopen hg
    refine ⟨fun hidle hfresh hbank12 hbank13 r hr => ?records, fun hbusy r hr => ?late, fun hidle hfresh hlost => ?lost⟩
    case records => exact actMem_effect hrun ((harvesterLatch_records hopen hg hidle hfresh hbank12 hbank13).trans hr.symm)
    case late => exact actMem_effect hrun (harvesterLatch_late hopen hg hbusy hr)
    case lost => exact actMem_effect hrun (harvesterLatch_lost hopen hg hidle hfresh hlost)
  case age => exact fun hrun => act_effect hrun rfl

end Sys2Proof.Machine
end

section
/-!
PROOFS. The fault manager (R206-R209, R284, R470-R478, R483): buckets and leaks, hold-offs, port failures and the restoring of
resources, what each meaning comes down to once its guard is met, and the obligations FaultManagerCommands and RestoreInstruction
assembled from that.
-/
namespace Sys2Proof.Machine

/-! ### Errors and leaks (R206, R207, R470-R472) -/

/-- A present lane other than one of an output receives, so its errors count. -/
theorem lane_receives {h : Hub} {l : Nat} (hpresent : lanePresent h.part.res l = true) (hkind : l < 32 ∨ 64 ≤ l) :
    (lanePresent h.part.res l && !(decide (32 ≤ l) && decide (l < 64))) = true := by
  simp only [hpresent, Bool.true_and, Bool.not_eq_true', Bool.and_eq_false_iff, decide_eq_false_iff_not]
  omega

theorem bucketLeak_due {h : Hub} {c : Nat} (hperiod : fld h (aFltClassCfg c) 0 16 ≠ 0)
    (hdue : 8 * fld h (aFltClassCfg c) 0 16 ≤ edgesSince h (tget 0 h.flt.leakFrom c)) :
    bucketLeak c h =
      let p := 8 * fld h (aFltClassCfg c) 0 16
      let t := threshold h c
      let g := { h with flt := { h.flt with leakFrom := tset 0 h.flt.leakFrom c (tget 0 h.flt.leakFrom c + p) } }
      (List.range (classCount c)).foldl (fun g i =>
        let lv := bucketLevel g c i
        if lv = 0 ∨ (c = 9 ∧ flag g aMemRetiredBanks (16 + i) = true ∧ t ≠ 0 ∧ t ≤ lv) then g
        else
          let g := setFld g (aFltBkt c i) 0 16 (lv - 1)
          if t = 0 ∨ lv - 1 < (t + 1) / 2 then setFlag g (aFltBkt c i) 16 false else g) g := by
  have hready : ¬ (8 * fld h (aFltClassCfg c) 0 16 = 0 ∨
      edgesSince h (tget 0 h.flt.leakFrom c) < 8 * fld h (aFltClassCfg c) 0 16) := by omega
  simp only [bucketLeak, if_neg hready, Bool.and_eq_true, decide_eq_true_eq, and_assoc]

/-! ### The hold-off of messages (R483) -/

section
variable {h : Hub} {p : Port} (hheld : tget false h.flt.holdoff (Port.toNat p) = true)
include hheld

theorem holdoffEnd_ends :
    holdoffEnd p h =
      let g := { h with flt := { h.flt with holdoff := tset false h.flt.holdoff (Port.toNat p) false } }
      if !tget false g.flt.due (Port.toNat p) || !mgmtUp g p then g
      else fltMessage { g with flt := { g.flt with due := tset false g.flt.due (Port.toNat p) false } } p :=
  if_neg (by simp [hheld])

theorem holdoffEnd_sends (hdue : tget false h.flt.due (Port.toNat p) = true) (hup : mgmtUp h p = true) :
    holdoffEnd p h = fltMessage { h with flt := { h.flt with
      holdoff := tset false h.flt.holdoff (Port.toNat p) false, due := tset false h.flt.due (Port.toNat p) false } } p := by
  have hup' : mgmtUp { h with flt := { h.flt with holdoff := tset false h.flt.holdoff (Port.toNat p) false } } p = true := hup
  exact (holdoffEnd_ends hheld).trans (if_neg (by simp [hdue, hup']))

theorem holdoffEnd_silent (hnone : tget false h.flt.due (Port.toNat p) = false ∨ mgmtUp h p = false) :
    holdoffEnd p h = { h with flt := { h.flt with holdoff := tset false h.flt.holdoff (Port.toNat p) false } } := by
  refine (holdoffEnd_ends hheld).trans (if_pos ?_)
  rcases hnone with hdue | hdown
  · simp [hdue]
  · have hdown' : mgmtUp { h with flt := { h.flt with holdoff := tset false h.flt.holdoff (Port.toNat p) false } } p = false := hdown
    simp [hdown']

end

/-! ### Ports (R188, R209, R284, R470) -/

theorem pcieX1_retires {h : Hub} {p e : Nat} (hretrain : tfind h.lns.x1 p = some e) (hlate : 1600 ≤ edgesSince h e) :
    pcieX1 p h = pcieSettled (faults { h with lns := { h.lns with x1 := tdel h.lns.x1 p } }
      [.retire 5 p 4 (if laneRetired h (64 + 2 * p) then 64 + 2 * p else 65 + 2 * p)]) p := by
  simp only [pcieX1, hretrain, if_neg (Nat.not_lt.mpr hlate)]

theorem ethDown_rests {h : Hub} {e : Nat} (hup : bitOf h.tun.ethUp.toNat e = true) (signal : Bool) :
    ethDown e signal h =
      let g := { h with tun := { h.tun with ethUp := h.tun.ethUp &&& ~~~(BitVec.ofNat 4 (2 ^ e)) } }
      let g := laneRest g (80 + e) 0
      if signal then faults g [.add 7 e 4 0] else g :=
  if_neg (by simp [hup])

theorem ethLinkUp_trains {h : Hub} {e rate : Nat} (hpresent : e < h.part.res.eth) (hport : retired h 7 e = false)
    (hlane : laneRetired h (80 + e) = false) :
    ethLinkUp e rate h =
      let b := ethBaud h rate
      let g := laneUp (partnerFfe (drawFree h).1 (80 + e)) (80 + e) b.1 b.2
      { g with tun := { g.tun with ethUp := g.tun.ethUp ||| BitVec.ofNat 4 (2 ^ e) } } :=
  if_neg (by simp [hpresent, hport, hlane])

/-! ### The test of a resource (R175, R477) -/

section
variable {m : Mem} {h : Hub} {c i id : Nat} {pass : Bool}

/-- The test of the oldest restore of a resource, of which no return by handshake runs, ends it. -/
theorem restoreTestEnd_ends
    (hasked : h.flt.restores.find? (fun r => decide (r.1 = c) && decide (r.2.1 = i) && (findCmd h r.2.2).isSome) = some (c, i, id))
    (hfree : c = 0 → i < 32 → ((((trk h (i / 4)).change.bind (·.waiter)).toList ++
      (trk h (i / 4)).todo.filterMap (fun e => e.2.2)).contains id) = false) :
    restoreTestEnd c i pass m h = restoreEnd m h c i id pass := by
  have hidle : ¬ ((decide (c = 0) && decide (i < 32) && ((((trk h (i / 4)).change.bind (·.waiter)).toList ++
      (trk h (i / 4)).todo.filterMap (fun e => e.2.2)).contains id)) = true) := by
    simp only [Bool.and_eq_true, decide_eq_true_eq, not_and, Bool.not_eq_true, and_imp]
    exact hfree
  simp only [restoreTestEnd, hasked]
  exact if_neg hidle

theorem restoreEnd_inService (hservice : retired h c i = false) : restoreEnd m h c i id pass = (m, settleRestores h c i) :=
  if_pos (by simp [hservice])

section
variable (hout : retired h c i = true)
include hout

theorem restoreEnd_fails : restoreEnd m h c i id false = (m, resFailed h c i id) := by
  simp only [restoreEnd, hout, Bool.not_true, Bool.not_false, Bool.false_eq_true, if_false, true_or, if_true]

section
variable (hfit : restoreFit h c i = true)
include hfit

/-- A pass starts the return of a lane of an ACTIVE trunk, and returns any other resource. -/
theorem restoreEnd_pass : restoreEnd m h c i id true =
    if c = 0 ∧ i < 32 ∧ trkState h (i / 4) = 7 then (m, askChange h (i / 4) true (i % 4) (some id)) else restorePass m h c i := by
  simp only [restoreEnd, hout, hfit, Bool.not_true, Bool.false_eq_true, or_self, if_false]

end
end
end

/-! ### The obligation on the fault manager -/

/-- Settles O17: each command runs its meaning on a running core, and the lemmas above say what that meaning comes down to under the
hypotheses of its clause. -/
theorem faultManagerCommands : Obligations.FaultManagerCommands := by
  unfold Obligations.FaultManagerCommands
  refine fun s hrun => ⟨?lane, ?port, ?leak, ?message, ?silent, ?x1, ?ethDown, ?ethUp, ?restore⟩
  case lane =>
    intro i hpresent hkind
    have hreceives := lane_receives hpresent hkind
    refine ⟨fun n => act_effect hrun (if_pos hreceives), act_effect hrun (if_pos hreceives), act_effect hrun (if_pos hreceives),
      act_effect hrun (if_pos hreceives), fun htrunk => act_effect hrun (if_pos ?_)⟩
    simp [hpresent, htrunk]
  case port => exact fun i => ⟨act_runs hrun _, act_runs hrun _, act_runs hrun _, act_runs hrun _, act_runs hrun _⟩
  case leak => exact fun c hperiod hdue => act_effect hrun (bucketLeak_due hperiod hdue)
  case message => exact fun p hheld hdue hup => act_effect hrun (holdoffEnd_sends hheld hdue hup)
  case silent => exact fun p hheld hnone => act_effect hrun (holdoffEnd_silent hheld hnone)
  case x1 => exact fun p e hretrain hlate => act_effect hrun (pcieX1_retires hretrain hlate)
  case ethDown => exact fun e sig hup => act_effect hrun (ethDown_rests hup sig)
  case ethUp => exact fun e rate hpresent hport hlane => act_effect hrun (ethLinkUp_trains hpresent hport hlane)
  case restore =>
    rintro _ _ id cls ix r rfl rfl hasked hfree
    have hends (pass : Bool) (r : Mem × Hub) (hr : restoreEnd s.mem s.hub cls.val ix.toNat id pass = r) :
        exec (.restoreTestEnd cls ix pass) s = .next { s with mem := r.1, hub := r.2 } :=
      actMem_effect hrun ((restoreTestEnd_ends hasked hfree).trans hr)
    refine ⟨fun hservice b => ?service, fun hout hfit hother hr => ?passes, fun hout hfit hc hi htrunk => ?returns, fun hout => ?fails⟩
    case service => exact hends b _ (restoreEnd_inService hservice)
    case passes => exact hends true r ((restoreEnd_pass hout hfit).trans ((if_neg hother).trans hr.symm))
    case returns => exact hends true _ ((restoreEnd_pass hout hfit).trans (if_pos ⟨hc, hi, htrunk⟩))
    case fails => exact hends false _ (restoreEnd_fails hout)

/-! ### RES.RESTORE (R438, R477, R478) -/

/-- A command that leaves its thread changes nothing of the fault manager's. -/
theorem leaveThread_flt (h : Hub) (c : Cmd) : (leaveThread h c).flt = h.flt := by
  unfold leaveThread
  split
  · split <;> rfl
  · rfl

theorem beginWait_flt (h : Hub) (c : Cmd) (w : IW) (k : Wait) : (beginWait h c w k).flt = h.flt :=
  ite_keeps Hub.flt (leaveThread_flt h c) rfl

section
variable {h g : Hub} {c : Cmd} {w : IW} {k i : Nat} (hk : k = w.target / 4096) (hi : i = w.target % 4096) (hoperand : w.operand = 0)
  (hclass : k < 9) (hpresent : resPresent h k i = true) (hfree : oConflict h c (resScope k i) = none)
include hk hi hoperand hclass hpresent hfree

theorem resRestore_inService (hservice : retired h k i = false) : resRestore h c w = settle h c.id .ok 0 := by
  have hform : ¬ (w.operand ≠ 0 ∨ 9 ≤ k ∨ (!resPresent h k i) = true) := by simp [hoperand, hpresent, hclass]
  simp only [resRestore, ← hk, ← hi, if_neg hform, hfree, hservice, Bool.not_false, if_true]

/-- A retired resource is put among those to restore; a port of classes 5 to 7 needs no test. -/
theorem resRestore_retired (hout : retired h k i = true) (hmap : k = 3 → (chanMap h).contains i = true)
    (hg : g = { beginWait h c w .op with flt := { h.flt with restores := h.flt.restores ++ [(k, i, c.id)] } }) :
    resRestore h c w =
      if 5 ≤ k ∧ k ≤ 7 then (if restoreFit g k i then restoredRes g k i else resFailed g k i c.id) else g := by
  have hform : ¬ (w.operand ≠ 0 ∨ 9 ≤ k ∨ (!resPresent h k i) = true) := by simp [hoperand, hpresent, hclass]
  have hlisted : ¬ (k = 3 ∧ (!(chanMap h).contains i) = true) := fun ⟨hthree, hmissing⟩ => by
    rw [hmap hthree] at hmissing
    cases hmissing
  simp only [resRestore, ← hk, ← hi, if_neg hform, hfree, hout, Bool.not_true, Bool.false_eq_true, if_false, if_neg hlisted, beginWait_flt,
    ← hg]

end

/-- Settles O18: RES.RESTORE passes its checks, and the class and the resource's state say how it goes on. -/
theorem restoreInstruction : Obligations.RestoreInstruction := by
  unfold Obligations.RestoreInstruction
  intro s th c w k i at_ hoperand hk hi hclass hpresent hfree
  refine ⟨fun hservice => act_onLong at_ (resRestore_inService hk hi hoperand hclass hpresent hfree hservice), ?retired⟩
  intro g hg hout hmap
  have hgoes := resRestore_retired hk hi hoperand hclass hpresent hfree hout hmap hg
  refine ⟨fun hclasses => ?tested, fun hlow hhigh hfit => ?returned, fun hlow hhigh hunfit => ?failed⟩
  case tested =>
    have htest : ¬ (5 ≤ k ∧ k ≤ 7) := by omega
    exact act_onLong at_ (g := fun _ => g) (hgoes.trans (if_neg htest))
  case returned => exact act_onLong at_ (g := fun _ => restoredRes g k i) (hgoes.trans ((if_pos ⟨hlow, hhigh⟩).trans (if_pos hfit)))
  case failed =>
    exact act_onLong at_ (g := fun _ => resFailed g k i c.id)
      (hgoes.trans ((if_pos ⟨hlow, hhigh⟩).trans (if_neg (ne_true_of_eq_false hunfit))))

end Sys2Proof.Machine
end

section
/-!
PROOFS. Hold, feeds and e-fuse channels (R493-R505): what each meaning comes down to once its guard is met, and the obligation
SupplyAndChannelCommands assembled from that.
-/
namespace Sys2Proof.Machine

/-! ### Hold (R493, R494) -/

section
variable {h : Hub} {m mv : Nat} (hreset : fld h (aPwrMonLevels m) 16 16 ≤ mv)
include hreset

theorem holdEnter_enters (hlow : mv < fld h (aPwrMonLevels m) 0 16) (hout : inHold h = false) :
    holdEnter m mv h =
      let g := monRead { h with pwr := { h.pwr with holdFrom := h.tim.edges, holdMin := [] } } m mv
      lateLatches (pwrEvent (tally (count (setFlag g aPwrStatus 30 true) aPwrCntHold 1) 0xB0 0x0B01 1 none) 0) := by
  simp only [holdEnter, if_neg (Nat.not_lt.mpr hreset), hout, if_neg (Nat.not_le.mpr hlow), Bool.false_eq_true, if_false]

/-- In hold a sample below WARN + HYST restarts the count. -/
theorem holdEnter_restarts (hin : inHold h = true) (hlow : mv < fld h (aPwrMonLevels m) 0 16 + fld h (aPwrMonHyst m) 0 16) :
    holdEnter m mv h = monRead h m mv := by
  simp only [holdEnter, if_neg (Nat.not_lt.mpr hreset), hin, if_pos hlow, if_true]

end

theorem holdExit_ends {h : Hub} (hin : inHold h = true) (hover : 8 ≤ edgesSince h h.pwr.holdLow) :
    holdExit h =
      let x := lowestMonitor h
      let g := wr (wr h aPwrHoldLast (W (x.2 * 2 ^ 16 + x.1 * 2 ^ 12))) aPwrHoldTicks (W (edgesSince h h.pwr.holdFrom))
      let g := (List.range 9).foldl (fun h m => setFld h (aPwrMonStatus m) 16 16 0xFFFF) (setFlag g aPwrStatus 30 false)
      pwrEvent { g with pwr := { g.pwr with holdMin := [] } } 1 :=
  if_neg (by simp [hin, hover])

/-! ### Feeds (R495-R497) -/

theorem feedPresent_comesOn {h : Hub} {x mv : Nat} (hrange : feedIn h x mv = true) (hoff : feedOn h x = false) :
    feedPresent x mv h =
      let g := setFld (setFld h (aPwrFeedStatus x) 30 2 3) (aPwrFeedStatus x) 0 16 mv
      let g := { g with pwr := { g.pwr with lost := tset false g.pwr.lost x false } }
      if tget false h.pwr.lost x then pwrEvent g 3 else g :=
  if_neg (by simp [hrange, hoff])

theorem feedLost_goesOff {h : Hub} {x : Nat} (hon : feedOn h x = true) :
    feedLost x h =
      let g := setFld h (aPwrFeedStatus x) 30 2 0
      pwrEvent { g with pwr := { g.pwr with lost := tset false g.pwr.lost x true } } 2 :=
  if_neg (by simp [hon])

/-! ### PWC.ON and PWC.OFF (R499, R503, R505) -/

section
variable {h : Hub} {c : Cmd} {w : IW} {n : Nat} (hoperand : w.operand = 0) (hn : n = w.target) (hpart : pwcOnPart h n = true)
  (hfree : oConflict h c (resScope 8 n) = none)
include hoperand hn hpart hfree

theorem pwcOff_retired (hretired : pwcState h n = 5) : pwcOff h c w = settle h c.id .ok 0 := by
  simp only [pwcOff, ← hn, hoperand, hpart, hfree, if_pos hretired, ne_eq, not_true, Bool.not_true, Bool.false_eq_true, or_self, if_false]

theorem pwcOff_turnsOff (hservice : pwcState h n ≠ 5) :
    pwcOff h c w =
      let x := setPwc (setFlag (setFlag h (aPwrPwcStatus n) 26 false) (aPwrPwcStatus n) 28 false) n 0
      let g := if pwcState h n = 2 ∨ pwcState h n = 3 then gateOff x n else x
      settle (pwcSettle { g with pwr := { g.pwr with retry := tdel g.pwr.retry n } } n .ok 0) c.id .ok 0 := by
  simp only [pwcOff, ← hn, hoperand, hpart, hfree, if_neg hservice, ne_eq, not_true, Bool.not_true, Bool.false_eq_true, or_self, if_false,
    Bool.or_eq_true, decide_eq_true_eq]

section
variable {g : Hub} (hservice : pwcState h n ≠ 5) (hg : g = setFlag h (aPwrPwcStatus n) 26 true)
include hservice hg

/-- PWC.ON commands its channel on; what follows is open to the channel's state. -/
theorem pwcOn_commands : pwcOn h c w =
    let x := if pwcState g n = 0 then setPwc g n 1 else g
    if pwcState x n = 3 then settle x c.id .ok (fld x (aPwrPwcMeas n) 0 16)
    else if 16 ≤ n ∧ !tget false x.pwr.det n then settle x c.id .timeout 0x0A20
    else
      let y := beginWait x c w .op
      { y with pwr := { y.pwr with waiting := tset [] y.pwr.waiting n (tget [] y.pwr.waiting n ++ [c.id]) } } := by
  simp only [pwcOn, ← hn, hoperand, hpart, hfree, if_neg hservice, ← hg, ne_eq, not_true, Bool.not_true, Bool.false_eq_true, or_self,
    if_false]

theorem pwcOn_answers (hon : pwcState g n = 3) : pwcOn h c w = settle g c.id .ok (fld g (aPwrPwcMeas n) 0 16) := by
  have hnotOff : pwcState g n ≠ 0 := by omega
  rw [pwcOn_commands hoperand hn hpart hfree hservice hg]
  simp only [if_neg hnotOff, if_pos hon]

theorem pwcOn_waits {x : Hub} (hx : x = if pwcState g n = 0 then setPwc g n 1 else g) (hnotOn : pwcState x n ≠ 3)
    (hboard : n < 16 ∨ tget false x.pwr.det n = true) :
    pwcOn h c w =
      let y := beginWait x c w .op
      { y with pwr := { y.pwr with waiting := tset [] y.pwr.waiting n (tget [] y.pwr.waiting n ++ [c.id]) } } := by
  have hthere : ¬ (16 ≤ n ∧ (!tget false x.pwr.det n) = true) := by
    rintro ⟨hslot, hnone⟩
    rcases hboard with hlow | hdet
    · omega
    · simp [hdet] at hnone
  rw [pwcOn_commands hoperand hn hpart hfree hservice hg]
  simp only [← hx, if_neg hnotOn, if_neg hthere]

end
end

/-! ### Channels (R500-R504) -/

section
variable {h : Hub} {c : Nat}

theorem detChange_restarts {low : Bool} (hslot : 16 ≤ c) (hpart : pwcOnPart h c = true) (hchanges : tget false h.pwr.det c ≠ low) :
    detChange c low h = pwrEvent { h with pwr := { h.pwr with
      det := tset false h.pwr.det c low, detEdge := tput h.pwr.detEdge c h.tim.edges } } 8 :=
  if_neg (by simp [hslot, hpart, hchanges])

theorem insertionEvent_off {low : Bool} (hoff : h.pwr.mode = .off) (hslot : 16 ≤ c) :
    insertionEvent c low h = { h with pwr := { h.pwr with det := tset false h.pwr.det c low } } :=
  (if_pos hoff).trans (if_pos hslot)

theorem rampStart_ramps (hdebounce : pwcState h c = 1) (hboard : c < 16 ∨ pwcPresent h c = true) (hhold : inHold h = false) :
    rampStart c h =
      let g := setPwc h c 2
      { g with pwr := { g.pwr with rampFrom := tput g.pwr.rampFrom c g.tim.edges } } := by
  have hready : ¬ (pwcState h c ≠ 1 ∨ (16 ≤ c ∧ (!pwcPresent h c) = true) ∨ inHold h = true) := by
    simp only [hdebounce, hhold, ne_eq, not_true, Bool.false_eq_true, or_false, false_or, not_and, Bool.not_eq_true', Bool.not_eq_false]
    exact fun hslot => hboard.resolve_left (Nat.not_lt.mpr hslot)
  exact if_neg hready

theorem powerGood_on {mv : Nat} (hramp : pwcState h c = 2) (hwindow : pwcWindow c mv = true)
    (hlong : 8 * fld h (aPwrPwcCfg1 c) 0 8 ≤ edgesSince h (tget 0 h.pwr.rampFrom c)) :
    powerGood c mv h =
      let g := setFld (setFlag (setPwc h c 3) (aPwrPwcStatus c) 28 true) (aPwrPwcMeas c) 0 16 mv
      let g := pwcSettle (pwrEvent g 7) c .ok mv
      if c < 16 then usbPowerGood g c else g :=
  if_neg (by simp [hramp, hwindow, hlong])

theorem retryEnd_debounces (htripped : pwcState h c = 4) (hover : retryLeft h c = 0) :
    retryEnd c h = { (setPwc h c 1) with pwr := { h.pwr with retry := tdel h.pwr.retry c } } :=
  if_neg (by simp [htripped, hover])

theorem removal_debounces (hslot : 16 ≤ c) (hon : pwcState h c = 3) :
    removal c h = setPwc (gateOff (detChange c false h) c) c 1 :=
  if_neg (by simp [hslot, hon])

theorem fetShort_retires (hpart : pwcOnPart h c = true) (hsettled : ∀ e, tfind h.pwr.gateDown c = some e → 400 ≤ edgesSince h e)
    (hgateOff : pwcState h c = 0 ∨ pwcState h c = 1 ∨ pwcState h c = 4) :
    fetShort c h = faults (setFlag (tripDo c 6 (pwrEvent h 6)) (aPwrPwcStatus c) 25 true) [.retire 8 c 1 0] := by
  have hstate : (!(decide (pwcState h c = 0) || decide (pwcState h c = 1) || decide (pwcState h c = 4))) = false := by
    rcases hgateOff with hst | hst | hst <;> simp [hst]
  cases hdown : tfind h.pwr.gateDown c with
  | none => simp only [fetShort, hpart, hdown, hstate, Bool.not_true, Bool.or_self, Bool.false_eq_true, if_false]
  | some e =>
    simp only [fetShort, hpart, hdown, hsettled e hdown, hstate, decide_true, Bool.not_true, Bool.or_self, Bool.false_eq_true, if_false]

end

/-! ### Trips (R501) -/

section
variable {h : Hub} {c : Nat}

/-- Over-current while ramping, and the ramp's time-out. -/
theorem trip_ramping (hramp : pwcState h c = 2) : trip c 1 h = tripDo c 1 h := if_pos (decide_eq_true hramp)

theorem trip_rampTimeout (hramp : pwcState h c = 2)
    (hlate : 16 * fld h (aPwrPwcCfg0 c) 16 8 ≤ edgesSince h (tget 0 h.pwr.rampFrom c)) : trip c 4 h = tripDo c 4 h :=
  if_pos (Bool.and_eq_true_iff.mpr ⟨decide_eq_true hramp, decide_eq_true hlate⟩)

/-- The causes of a channel that is on: the fast and the slow current limit and the output's window. -/
theorem trip_on (hon : pwcState h c = 3) {cause : Nat} (hcause : cause = 2 ∨ cause = 3 ∨ cause = 5) :
    trip c cause h = tripDo c cause h := by
  rcases hcause with rfl | rfl | rfl
  all_goals exact if_pos (decide_eq_true hon)

end

/-! ### The obligation on supply and channels -/

/-- Settles O23: hold and the two instructions run on a running core, the other commands whether or not it runs, and the lemmas above
say what each meaning comes down to under the hypotheses of its clause. -/
theorem supplyAndChannelCommands : Obligations.SupplyAndChannelCommands := by
  unfold Obligations.SupplyAndChannelCommands
  refine fun s => ⟨fun hrun => ⟨?enter, ?restart, ?exit⟩, ?feedOn, ?feedOff, ?on, ?off, ?insert, ?insertOff, ?ramp, ?trip, ?good, ?retry,
    ?removal, ?short⟩
  case enter => exact fun m mv hreset hlow hout => act_effect hrun (holdEnter_enters hreset hlow hout)
  case restart => exact fun m mv hreset hin hlow => act_effect hrun (holdEnter_restarts hreset hin hlow)
  case exit => exact fun hin hover => act_effect hrun (holdExit_ends hin hover)
  case feedOn => exact fun x mv hrange hoff => next_ext (feedPresent_comesOn hrange hoff)
  case feedOff => exact fun x hon => ⟨next_ext (feedLost_goesOff hon), next_ext (if_pos hon)⟩
  case on =>
    intro th c w n g x at_ hoperand hn hpart hfree hservice hg
    exact ⟨fun hon => act_onLong at_ (pwcOn_answers hoperand hn hpart hfree hservice hg hon),
      fun hx hnotOn hboard => act_onLong at_ (pwcOn_waits hoperand hn hpart hfree hservice hg hx hnotOn hboard)⟩
  case off =>
    intro th c w n at_ hoperand hn hpart hfree
    exact ⟨fun hretired => act_onInstr at_ (pwcOff_retired hoperand hn hpart hfree hretired),
      fun hservice => act_onInstr at_ (pwcOff_turnsOff hoperand hn hpart hfree hservice)⟩
  case insert =>
    exact fun c low hmode hslot hpart hchanges => next_ext ((if_neg hmode).trans (detChange_restarts hslot hpart hchanges))
  case insertOff => exact fun c low hoff hslot => next_ext (insertionEvent_off hoff hslot)
  case ramp => exact fun c hdebounce hboard hhold => next_ext (rampStart_ramps hdebounce hboard hhold)
  case trip =>
    refine fun c => ⟨fun hramp => ⟨next_ext (trip_ramping hramp), fun hlate => next_ext (trip_rampTimeout hramp hlate)⟩, fun hon k hk => ?_⟩
    refine next_ext (trip_on hon ?_)
    rcases hk with rfl | rfl | rfl <;> decide
  case good => exact fun c mv hramp hwindow hlong => next_ext (powerGood_on hramp hwindow hlong)
  case retry => exact fun c htripped hover => next_ext (retryEnd_debounces htripped hover)
  case removal => exact fun c hslot hon => next_ext (removal_debounces hslot hon)
  case short => exact fun c hpart hsettled hgateOff => next_ext (fetShort_retires hpart hsettled hgateOff)

end Sys2Proof.Machine
end

section
/-!
PROOFS. Power states, wakes, dock reset and the trim store (R506-R513, R516, R519-R521), and the resets (R490-R492, R514, R515): what
each meaning comes down to once its guard is met, and the obligations PowerStateCommands and Resets assembled from that.
-/
namespace Sys2Proof.Machine

/-! ### PWR.STATE (R506) -/

section
variable {s : State} {th : Fin 4} {c : Cmd} {w : IW} (at_ : AtLong s th 0x72 c w) (htarget : w.target = 0)
include at_ htarget

/-- Each of the four rows acts on its own operand. -/
theorem onState_at {n : Nat} (hstate : n < 4) (hoperand : w.operand = n) (f : Hub → Cmd → Hub) : onState s.hub th n f = f s.hub c := by
  have hrow : ¬ w.operand % 4 ≠ n := by omega
  have hform : ¬ (w.target ≠ 0 ∨ w.operand ≠ n) := by omega
  exact (onLong_at at_ _).trans ((if_neg hrow).trans (if_neg hform))

theorem act_onState {n : Nat} (hstate : n < 4) (hoperand : w.operand = n) (f : Hub → Cmd → Hub) :
    s.act (fun h => onState h th n f) = .next (s.onHub fun h => f h c) :=
  act_effect at_.1.1 (onState_at at_ htarget hstate hoperand f)

section
variable (hoperand : w.operand = 2) (hmay : dozeDenied s.hub c.id = none)
include hoperand hmay

theorem dozeAsked_at : dozeAsked s.hub th = true := by
  obtain ⟨⟨-, hcmd, hfree, hwithin, hstarted, hinstr, hop, hbad, himem⟩, htp⟩ := at_
  simp only [dozeAsked, hcmd, hinstr, hfree, htp, hwithin, hstarted, hop, hbad, himem, htarget, hoperand, hmay]
  rfl

/-- Doze entered where nothing denies it: the instruction completes, then the core goes down (R506, R508). -/
theorem pwrStateDoze_enters {r : Mem × Hub} (hr : r = dozeEntry s.mem (settle (setFld s.hub aPwrStatus 0 2 0) c.id .ok 0)) :
    exec (.pwrStateDoze th) s = .next { s with mem := r.1, hub := r.2 } := by
  refine (actMem_runs at_.1.1 _).trans ?_
  simp only [onState_at at_ htarget (by decide : 2 < 4) hoperand, hmay, dozeAsked_at at_ htarget hoperand hmay, if_true, hr]

end
end

/-! ### Temperature (R511, R521) -/

section
variable {h : Hub} {t : Int}

theorem thermalShutdown_enters (hhot : 115 < t) (hmode : h.pwr.mode ≠ .off) :
    thermalShutdown t h = enterOff true (setTemp h t) := by
  have hacts : ¬ (t ≤ 115 ∨ h.pwr.mode = .off) := not_or.mpr ⟨not_le.mpr hhot, hmode⟩
  exact if_neg hacts

theorem thermalWarn_reports (hwarm : (fld h aPwrTherm 0 8 : Int) < t) : thermalWarn t h = pwrEvent (setTemp h t) 10 :=
  if_neg (not_le.mpr hwarm)

end

/-! ### Wakes (R509-R513) -/

section
variable {h : Hub}

theorem dozeWake_wakes {src index present p : Nat} (hdoze : dozing h = true) (hlow : 1 ≤ src) (hhigh : src ≤ 8)
    (hp : p = present ||| 2 ^ (src - 1)) (hfirst : (wakeCodes p).find? (wakeEnabled h) = some src) :
    dozeWake src index present h = wakeUp src index p h := by
  have hcode : 1 ≤ src ∧ src ≤ 8 := ⟨hlow, hhigh⟩
  simp only [dozeWake, if_pos hcode, ← hp, hfirst, hdoze, Bool.not_true, ne_eq, not_true, decide_false, Bool.or_self, Bool.false_eq_true,
    if_false]

section
variable {x : SentrySample} {g : Hub} (hmode : h.pwr.mode = .doze) (hg : g = sentryRead x h)
include hmode hg

theorem sentrySample_nothing (hnone : (sentryFinds h x).find? (fun e => wakeEnabled g e.1) = none) : sentrySample x h = g := by
  simp only [sentrySample, hmode, ne_eq, not_true, if_false, ← hg, hnone]

theorem sentrySample_wakes {e : Nat × Nat} (hfinds : (sentryFinds h x).find? (fun e => wakeEnabled g e.1) = some e) :
    sentrySample x h = wakeUp e.1 e.2 ((sentryFinds h x).foldl (fun p f => p ||| 2 ^ (f.1 - 1)) 0) g := by
  simp only [sentrySample, hmode, ne_eq, not_true, if_false, ← hg, hfinds]

end

section
variable {m : Mem}

/-- Off is left by a power-on reset, whose wake record names the source (R511, R513). -/
theorem offExit_exits {src : Nat} (index : Nat) (hoff : h.pwr.mode = .off) (hsource : src = 1 ∨ src = 5 ∨ src = 7)
    (henabled : wakeEnabled h src = true) :
    offExit src index m h =
      (⟨[]⟩, wakeRecord (bringUp .offExit (if h.pwr.thermal then 6 else 5) h) false src index (2 ^ (src - 1))) := by
  have hlisted : ([1, 5, 7] : List Nat).contains src = true := by simpa using hsource
  exact if_neg (by simp only [hoff, hlisted, henabled, ne_eq, not_true, Bool.not_true, Bool.false_eq_true, or_self, not_false_eq_true])

section
variable (henabled : wakeEnabled h 5 = true) (hset : (rd h aPwrWakeTimer).toNat ≠ 0)
include henabled hset

theorem wakeTimer_armed : ¬ ((rd h aPwrWakeTimer).toNat = 0 ∨ (!wakeEnabled h 5) = true) := by simp [hset, henabled]

theorem wakeTimer_off (hoff : h.pwr.mode = .off) :
    wakeTimer m h = (⟨[]⟩, wakeRecord (bringUp .offExit (if h.pwr.thermal then 6 else 5) h) false 5 0 16) :=
  (if_neg (wakeTimer_armed henabled hset)).trans ((if_pos hoff).trans (offExit_exits 0 hoff (by decide) henabled))

end

section
variable {addr : Nat} (haddr : addr = fld h aPwrSbCfg 0 7) (henabled : wakeEnabled h 1 = true)
include haddr henabled

theorem smbusMatch_matches : ¬ (addr ≠ fld h aPwrSbCfg 0 7 ∨ (!wakeEnabled h 1) = true) := by simp [haddr, henabled]

theorem smbusMatch_off (hoff : h.pwr.mode = .off) :
    smbusMatch addr m h = (⟨[]⟩, wakeRecord (bringUp .offExit (if h.pwr.thermal then 6 else 5) h) false 1 0 1) :=
  (if_neg (smbusMatch_matches haddr henabled)).trans ((if_pos hoff).trans (offExit_exits 0 hoff (by decide) henabled))

end

section
variable (hdoze : dozing h = true)
include hdoze

theorem not_off_of_dozing : h.pwr.mode ≠ .off := by
  intro hoff
  simp [dozing, hoff] at hdoze

theorem smbusMatch_dozing {addr : Nat} (haddr : addr = fld h aPwrSbCfg 0 7) (henabled : wakeEnabled h 1 = true) :
    smbusMatch addr m h = (m, wakeUp 1 0 1 h) :=
  (if_neg (smbusMatch_matches haddr henabled)).trans ((if_neg (not_off_of_dozing hdoze)).trans (if_pos hdoze))

theorem wakeTimer_dozing (henabled : wakeEnabled h 5 = true) (hset : (rd h aPwrWakeTimer).toNat ≠ 0)
    (hover : 8 * (rd h aPwrWakeTimer).toNat * 98 ≤ edgesSince h h.pwr.dozeFrom * 100) : wakeTimer m h = (m, wakeUp 5 0 16 h) :=
  (if_neg (wakeTimer_armed henabled hset)).trans ((if_neg (not_off_of_dozing hdoze)).trans (if_pos ⟨hdoze, hover⟩))

end
end
end

/-! ### Dock reset and the trim store (R516, R519) -/

theorem dockReset_resets {h g : Hub} {v : Word} {d : Nat} (hgo : bitOf v.toNat 31 = true) (hd : d = bitsOf v.toNat 0 6)
    (hg : g = (if bitOf v.toNat 30 then setFlag (setFld h aPwrDockReset 0 6 d) aPwrDockReset 30 false else setFld h aPwrDockReset 0 6 d))
    (hcreated : dockCreated g d = true) (hruns : dockFrozen g d = false) :
    dockReset v h =
      let x := dockDiscard g d
      let x := (dockPorts x d).foldl (fun h n => pcieLinkDown n h) x
      pwrEvent (usbDefault (hostDefault x d) d) 13 := by
  simp only [dockReset, ← hd, ← hg, hgo, hcreated, hruns, Bool.not_true, Bool.or_self, Bool.false_eq_true, if_false]

/-- A rewrite that is allowed begins where its image could be read and is valid, and is INVALID elsewhere. -/
theorem trimRewrite_allowed {h : Hub} {m : Mem} {v : Word} {r : Hub × List Byte × Bool} (hcode : bitsOf v.toNat 16 16 = 0x5452)
    (hgo : bitOf v.toNat 0 = true) (hidle : flag h aPwrTrimStatus 31 = false) (hraw : h.keys.lc ≠ 0) (hsealed : h.keys.lc ≠ 4)
    (hr : r = readHub m h (rd64 h aPwrTrimSrcLo) 65536) :
    trimRewrite v m h =
      if r.2.2 = true ∧ trimValid (some r.2.1) = true then
        let g := setFlag r.1 aPwrTrimStatus 31 true
        { g with pwr := { g.pwr with trimNew := some r.2.1 } }
      else trimRefused r.1 .invalid := by
  have hasked : ¬ (bitsOf v.toNat 16 16 ≠ 0x5452 ∨ (!bitOf v.toNat 0) = true ∨ flag h aPwrTrimStatus 31 = true) := by
    simp [hcode, hgo, hidle]
  have hlc : ¬ (h.keys.lc = 0 ∨ h.keys.lc = 4) := not_or.mpr ⟨hraw, hsealed⟩
  simp only [trimRewrite, if_neg hasked, if_neg hlc, ← hr]
  by_cases hgood : r.2.2 = true ∧ trimValid (some r.2.1) = true
  · rw [if_pos hgood, if_neg (by simp [hgood])]
  · rw [if_neg hgood, if_pos (by simpa [Decidable.imp_iff_not_or] using hgood)]

theorem trimDone_stores {h : Hub} {img : List Byte} (hnew : h.pwr.trimNew = some img) (fails : Bool) :
    trimDone fails h =
      let g := setFld (setFlag h aPwrTrimStatus 31 false) aPwrTrimStatus 0 3 (if fails then 7 else 0)
      pwrEvent { g with pwr := { g.pwr with trim := some (if fails then [] else img), trimNew := none } } 12 := by
  simp only [trimDone, hnew]
  rfl

/-! ### The obligation on power states -/

/-- Settles O24: PWR.STATE takes the branch of its operand, and the lemmas above say what the other meanings come down to under the
hypotheses of their clauses. -/
theorem powerStateCommands : Obligations.PowerStateCommands := by
  unfold Obligations.PowerStateCommands
  refine fun s => ⟨?state, ?shutdown, ?warn, ?dozeWake, ?sentry, fun hoff => ⟨?offExit, ?offMatch, ?offTimer⟩, ?dozeMatch, ?dozeTimer,
    ?dock, ?rewrite, ?trimDone⟩
  case state =>
    intro th c w at_ htarget
    exact ⟨fun hoperand => act_onState at_ htarget (by decide) hoperand _, fun hoperand => act_onState at_ htarget (by decide) hoperand _,
      fun hoperand hmay r hr => pwrStateDoze_enters at_ htarget hoperand hmay hr,
      fun hoperand => act_onState at_ htarget (by decide) hoperand _⟩
  case shutdown => exact fun t hhot hmode => next_ext (thermalShutdown_enters hhot hmode)
  case warn => exact fun t hrun hwarm => act_effect hrun (thermalWarn_reports hwarm)
  case dozeWake => exact fun src ix all p hdoze hlow hhigh hp hfirst => next_ext (dozeWake_wakes hdoze hlow hhigh hp hfirst)
  case sentry =>
    exact fun x g hmode hg => ⟨fun hnone => next_ext (sentrySample_nothing hmode hg hnone),
      fun e hfinds => next_ext (sentrySample_wakes hmode hg hfinds)⟩
  case offExit =>
    intro src ix hsource henabled
    have hcode : src.toNat = 1 ∨ src.toNat = 5 ∨ src.toNat = 7 := by rcases hsource with rfl | rfl | rfl <;> decide
    exact actAonMem_effect (offExit_exits ix.toNat hoff hcode henabled)
  case offMatch => exact fun a haddr henabled => actAonMem_effect (smbusMatch_off haddr henabled hoff)
  case offTimer => exact fun henabled hset => actAonMem_effect (wakeTimer_off henabled hset hoff)
  case dozeMatch => exact fun a hdoze haddr henabled => actAonMem_effect (smbusMatch_dozing hdoze haddr henabled)
  case dozeTimer => exact fun hdoze henabled hset hover => actAonMem_effect (wakeTimer_dozing hdoze henabled hset hover)
  case dock => exact fun p v d g hrun hgo hd hg hcreated hruns => act_effect hrun (dockReset_resets hgo hd hg hcreated hruns)
  case rewrite =>
    exact fun p v r hrun hcode hgo hidle hraw hsealed hr =>
      act_effect hrun (trimRewrite_allowed hcode hgo hidle hraw hsealed hr)
  case trimDone => exact fun f img hrun hnew => act_effect hrun (trimDone_stores hnew f)

/-! ### Resets (R490-R492, R514, R515) -/

section
variable {h : Hub} {m : Nat} (hoff : h.pwr.mode ≠ .off) (hrail : h.pwr.mode ≠ .railWait)
include hoff hrail

/-- A rail that acts: any but the always-on one, and in Doze only those powered there (R488, R492). -/
theorem brownOut_acts {mem : Mem} (hmonitor : m < 8) (hdoze : h.pwr.mode = .doze → m = 0 ∨ m = 2 ∨ m = 6 ∨ m = 7) :
    brownOut m mem h = (⟨[]⟩, setFld (bringUp .brownOut 2 h) aPwrResetCause 8 4 m) := by
  cases hmode : h.pwr.mode with
  | off => exact absurd hmode hoff
  | railWait => exact absurd hmode hrail
  | doze =>
    have hpowered : [0, 2, 6, 7].contains m = true := by simpa using hdoze hmode
    simp only [brownOut, hmode, hpowered, if_true]
  | run | warm | dozeEntry => simp only [brownOut, hmode, hmonitor, decide_true, if_true]

theorem railFail_drops :
    railFail m h =
      let g := setFld h aPwrResetCause 16 16 (min 65535 (fld h aPwrResetCause 16 16 + 1))
      let g := setFld g aPwrResetCause 8 4 m
      { g with pwr := { g.pwr with mode := .railWait } } := by
  cases hmode : h.pwr.mode with
  | off => exact absurd hmode hoff
  | railWait => exact absurd hmode hrail
  | doze | run | warm | dozeEntry => simp only [railFail, hmode]

end

theorem railRetry_repeats {h : Hub} {mem : Mem} (hmode : h.pwr.mode = .railWait) :
    railRetry mem h = (⟨[]⟩, bringUp .brownOut (fld h aPwrResetCause 0 3) h) := if_pos hmode

/-- HALT mode 2 has its own operand, which is its key (R92). -/
theorem haltMode2_form {w : IW} {c : Cmd} (htarget : w.target = 0) (hoperand : w.operand = 0xC0DE0002) (htp : c.tp = none) :
    ¬ w.operand % 4 < 2 ∧ ¬ (w.target ≠ 0 ∨ w.operand ≠ 0xC0DE0002 ∨ c.tp.isSome = true) := by
  simp [htarget, hoperand, htp]

/-- Settles O25: a rail acts by the power state that it finds, a warm reset and HALT mode 2 need a running core, and the other resets
are their meanings' own branches. -/
theorem resets : Obligations.Resets := by
  unfold Obligations.Resets
  refine fun s => ⟨fun lim => rfl, ?brownOut, ?railFail, ?retry, ?warm, ?release, ?halt⟩
  case brownOut => exact fun m hmonitor hoff hrail hdoze => actAonMem_effect (brownOut_acts hoff hrail hmonitor hdoze)
  case railFail => exact fun m hoff hrail => next_ext (railFail_drops hoff hrail)
  case retry => exact fun hmode => actAonMem_effect (railRetry_repeats hmode)
  case warm => exact fun hrun => act_runs hrun _
  case release => exact fun hmode => next_ext (if_neg (not_not.mpr hmode))
  case halt =>
    intro th c w at_ htarget hoperand htp
    obtain ⟨hmode, hform⟩ := haltMode2_form htarget hoperand htp
    exact act_onInstr at_ ((if_neg hmode).trans (if_neg hform))

end Sys2Proof.Machine
end

section
/-!
PROOFS. Dock instructions (R112, R355, R365, R376, R380, R383, R384): the checks of USB.ASSIGN, EPM.CARVE and the three of a dock, and the
obligation DockInstructions assembled from that.
-/
namespace Sys2Proof.Machine

/-! ### The operands' ranges (R355, R365, R376, R380, R383, R541) -/

section
variable {w : IW}

theorem usbAssign_operandsOk {v : Variant} (hoperand : onlyBits w.operand 0x80000F3F = true) (hport : w.target < 16)
    (hpresent : usbPresent v w.target = true) (hdock : w.o 0 6 < v.docks) (hvport : w.o 31 1 = 1 → w.o 8 4 ≠ 0 ∧ w.o 8 4 ≠ 15) :
    ¬ ((!onlyBits w.operand 0x80000F3F) = true ∨ 16 ≤ w.target ∨ (!usbPresent v w.target) = true ∨ v.docks ≤ w.o 0 6 ∨
      (w.o 31 1 = 1 ∧ (w.o 8 4 = 0 ∨ w.o 8 4 = 15))) := by
  simp only [hoperand, hpresent, Bool.not_true, Bool.false_eq_true, false_or]
  omega

theorem epmCarve_operandsOk {v : Variant} {off len : Nat} (hoperand : onlyBits w.operand 0x8000003F = true)
    (hplace : onlyBits (w.x 0) 0x0007FFFF0007FFFF = true) (hbuffer : w.target < 256) (hdock : w.o 0 6 < v.docks) (hoff : off % 64 = 0)
    (hlen : len % 64 = 0) (hfits : w.o 31 1 = 1 → 1088 ≤ len ∧ len ≤ 262144 ∧ off + len ≤ 524288) :
    ¬ ((!onlyBits w.operand 0x8000003F) = true ∨ (!onlyBits (w.x 0) 0x0007FFFF0007FFFF) = true ∨ 256 ≤ w.target ∨ v.docks ≤ w.o 0 6 ∨
      off % 64 ≠ 0 ∨ len % 64 ≠ 0 ∨ (w.o 31 1 = 1 ∧ (len < 1088 ∨ 262144 < len ∨ 524288 < off + len))) := by
  simp only [hoperand, hplace, Bool.not_true, Bool.false_eq_true, false_or]
  omega

/-- A dock of the part with a mask of eight trunks and allowances in their ranges. -/
theorem vdk_operandsOk {v : Variant} (hmask : w.operand < 256) (hallow : allowOk (w.x 0) = true) (hdock : w.target < v.docks) :
    ¬ (256 ≤ w.operand ∨ (!allowOk (w.x 0)) = true ∨ v.docks ≤ w.target) := by
  simp only [hallow, Bool.not_true, Bool.false_eq_true, false_or]
  omega

theorem vdkDestroy_operandsOk {v : Variant} {st : Nat} {restores : Bool} (hoperand : w.operand < 2) (hdock : w.target < v.docks)
    (hthere : st ≠ 0) : ¬ (2 ≤ w.operand ∨ v.docks ≤ w.target ∨ (st = 0 ∧ (!restores) = true)) := by
  simp only [hthere, false_and, or_false]
  omega

end

/-! ### The obligation on dock instructions -/

/-- Settles O26: under the hypotheses of its clause an instruction passes its own checks, and then those of staging; a destroy submits
its internal transaction. -/
theorem dockInstructions : Obligations.DockInstructions := by
  unfold Obligations.DockInstructions
  refine fun s th c w recs extra => ⟨?assign, ?carve, ?create, ?resize, ?destroy⟩
  case assign =>
    rintro at_ hoperand hport hpresent hdock hvport rfl rfl hmay
    have hchecks := usbAssign_operandsOk hoperand hport hpresent hdock hvport
    exact act_onInstr at_ ((if_neg hchecks).trans (stageOpen_ok hmay))
  case carve =>
    rintro at_ hoperand hplace hbuffer hdock hoff hlen hfits rfl rfl hmay
    have hchecks := epmCarve_operandsOk hoperand hplace hbuffer hdock hoff hlen hfits
    exact act_onInstr at_ ((if_neg hchecks).trans (stageOpen_ok hmay))
  case create =>
    rintro at_ hmask hallow hdock hstate rfl rfl hmay
    have hchecks := vdk_operandsOk hmask hallow hdock
    exact act_onInstr at_ ((if_neg hchecks).trans ((if_neg hstate).trans (stageOpen_ok hmay)))
  case resize =>
    rintro old new_ at_ hmask hallow hdock hstate hcreated hmoves rfl rfl rfl rfl hmay
    have hchecks := vdk_operandsOk hmask hallow hdock
    refine act_onInstr at_ ((if_neg hchecks).trans ((if_neg hstate).trans ?_))
    simp only [hcreated, hmoves, Bool.not_true, Bool.false_eq_true, if_false]
    exact stageOpen_ok hmay
  case destroy =>
    intro at_ hoperand hdock hthere hholds hsaves hrestores hstate hfree
    have hchecks := vdkDestroy_operandsOk (restores := rackRuns s.hub w.target false) hoperand hdock hthere
    have hallowed : ¬ ((!decide (w.operand = 1)) = true ∧ dockHolds s.hub w.target = true) := by
      rcases hholds with hforce | hempty
      · simp [hforce]
      · simp [hempty]
    refine act_onLong at_ ((if_neg hchecks).trans ((if_neg hallowed).trans ?_))
    simp only [hsaves, hrestores, Bool.false_eq_true, or_self, if_false, if_neg hstate, hfree]

end Sys2Proof.Machine
end

section
/-!
PROOFS. Racking (R385-R397, R420): freezing, saving, restoring and thawing a dock, what each meaning comes down to once its guard is met,
and the obligation RackingCommands assembled from that.
-/
namespace Sys2Proof.Machine

/-! ### Checks of the racking instructions (R80, R385, R389, R393, R397) -/

theorem rackFreeze_settled {h : Hub} {d : Nat} (hmoves : moveRuns h d = false) (hfence : tfind h.swc.fences d = none)
    (hwaits : h.swc.waiting.contains d = false) :
    ¬ (moveRuns h d = true ∨ (tfind h.swc.fences d).isSome = true ∨ h.swc.waiting.contains d = true) := by
  rw [hmoves, hfence, hwaits]
  decide

theorem rackSave_operandsOk {h : Hub} {w : IW} {len : Nat} (hoperand : w.operand < 1024) (hdock : w.target < h.part.res.docks)
    (hrange : hubRangeOk h (w.x 0) len = true) :
    ¬ (1024 ≤ w.operand ∨ h.part.res.docks ≤ w.target ∨ (!hubRangeOk h (w.x 0) len) = true) := by
  simp only [hrange, Bool.not_true, Bool.false_eq_true, or_false]
  omega

theorem rackRestore_operandsOk {h : Hub} {w : IW} (hoperand : onlyBits w.operand 0x00FF03FF = true) (hdock : w.target < h.part.res.docks)
    (hrange : hubRangeOk h (w.x 0) 256 = true) :
    ¬ ((!onlyBits w.operand 0x00FF03FF) = true ∨ h.part.res.docks ≤ w.target ∨ (!hubRangeOk h (w.x 0) 256) = true) := by
  simp only [hoperand, hrange, Bool.not_true, Bool.false_eq_true, or_false, false_or, not_le]
  exact hdock

/-! ### The end of a freeze (R387) -/

theorem graceEnd_freezes {h : Hub} {d e id : Nat} {r : Hub × List Frozen} (hfrom : tfind h.dck.freezeEdge d = some e)
    (hstate : dockState h d = 2) (hover : 2 ≤ edgesSince h e) (hr : r = settleDock h d) (hcmd : tfind h.dck.freezeCmd d = some id) :
    graceEnd d h =
      let g := { r.1 with dck := { r.1.dck with
        freeze := tset [] r.1.dck.freeze d r.2, freezeEdge := tdel r.1.dck.freezeEdge d, freezeCmd := tdel r.1.dck.freezeCmd d } }
      settle (raise (wr (setDockState g d 3) (aVdkRackStatus d) (W r.2.length)) 0x0C 0 d 0) id .ok r.2.length := by
  have hends : ¬ (dockState h d ≠ 2 ∨ edgesSince h e < 2) := by omega
  simp only [graceEnd, hfrom, if_neg hends, hcmd, ← hr]

/-! ### A save that completes (R389, R420) -/

/-- An operation behind a management port waits neither for hold to end nor for the cellar. -/
theorem rackOp_reachable {h : Hub} {op : RackOp} (hhold : inHold h = false ∨ onBus op.addr = true) :
    (inHold h && !onBus op.addr) = false := by
  rcases hhold with hout | hbus
  · simp [hout]
  · simp [hbus]

theorem rackOp_ready {h : Hub} {op : RackOp} (hthere : cellarReady h = true ∨ onBus op.addr = true) :
    (!cellarReady h && !onBus op.addr) = false := by
  rcases hthere with hready | hbus
  · simp [hready]
  · simp [hbus]

theorem saveComplete_writes {m : Mem} {h g : Hub} {d : Nat} {op : RackOp} {wins : List (Nat × Nat)} {image : List Byte} {r : Mem × Hub}
    (hop : h.dck.ops.find? (fun o => decide (o.dock = d) && o.save) = some op) (hheld : channelHeld h op.cmd = true)
    (hsettled : dockPending h d = false) (hhold : inHold h = false ∨ onBus op.addr = true)
    (hthere : cellarReady h = true ∨ onBus op.addr = true) (hkey : keyOk h op.slot 3 = true)
    (hwins : wins = (if flag h (aVdkRackCfg d) 0 then windowsOf h h.regs d else []))
    (hg : g = wr64 h aVdkSaveCountLo (rd64 h aVdkSaveCountLo + 1)) (hgood : wins.any (fun x => rangeBad g x.1 x.2) = false)
    (himage : image = imageOf m g op) (hrange : hubRangeOk g op.addr image.length = true)
    (hr : r = writeHub m (moved g 4 false (wins.foldl (fun n x => n + x.2 / 64) 0)) (idPort h op.cmd) op.addr image) :
    saveComplete d false m h =
      (r.1, settle (raise (rackEnd (wr64 r.2 (aVdkImageLenLo d) image.length) op) 0x0C 1 d 0) op.cmd .ok image.length) := by
  simp only [saveComplete, hop, hheld, hsettled, rackOp_reachable hhold, rackOp_ready hthere, hkey, ← hwins, ← hg, hgood, ← himage, hrange,
    ← hr, Bool.not_true, Bool.or_self, Bool.false_eq_true, or_self, if_false]

/-! ### An image that is checked (R393, R394, R420) -/

section
variable {m : Mem} {h : Hub} {d : Nat} {op : RackOp} {r0 r : Hub × List Byte × Bool} {hdr : List Byte} {len : Nat}

/-- What `imageChecked` has found before it opens the image: an operation that holds its channel, a header in order that it could read,
a key and a body that it could read. -/
structure ImageRead (m : Mem) (h : Hub) (d : Nat) (op : RackOp) (r0 r : Hub × List Byte × Bool) (hdr : List Byte) (len : Nat) : Prop where
  op_ : h.dck.ops.find? (fun o => decide (o.dock = d) && !o.save) = some op
  held : channelHeld h op.cmd = true
  fresh : tfind h.dck.image d = none
  there : cellarReady h = true ∨ onBus op.addr = true
  header : r0 = readHub m h op.addr 256
  headerRead : r0.2.2 = true
  hdr_ : hdr = r0.2.1
  len_ : len = imageNat hdr 8 8
  layout : imageLayout hdr = true
  range : hubRangeOk h op.addr len = true
  key : keyOk h op.slot 3 = true
  body : r = readHub m r0.1 (op.addr + 256) (len - 256)
  bodyRead : r.2.2 = true

variable (img : ImageRead m h d op r0 r hdr len)
include img

/-- An image that does not open under its key fails (R420). -/
theorem imageChecked_wrongTag
    (hshut : gcmOpen (slot r.1 op.slot).key.toNat (beNat (toNats ((hdr.drop 68).take 12))) (toNats hdr)
      (toNats (r.2.1.take (len - 272))) (beNat (toNats (r.2.1.drop (len - 272)))) = none) :
    imageChecked d false m h = raise (restoreFail r.1 op .invalid 0x0622) 0x0C 4 d 0 := by
  obtain ⟨hop, hheld, hfresh, hthere, hheader, hheaderRead, hhdr, hlen, hlayout, hrange, hkey, hbody, hbodyRead⟩ := img
  simp only [imageChecked, hop, hheld, hfresh, rackOp_ready hthere, ← hheader, hheaderRead, ← hhdr, ← hlen, hlayout, hrange, hkey, ← hbody,
    hbodyRead, hshut, Option.isSome_none, Bool.not_true, Bool.or_self, Bool.false_eq_true, or_self, if_false]

/-- One that opens, of this kind of memory and for as many trunks, becomes an internal transaction where its surfaces have the length of
the dock's windows. -/
theorem imageChecked_opened {opened : List Nat}
    (hopen : gcmOpen (slot r.1 op.slot).key.toNat (beNat (toNats ((hdr.drop 68).take 12))) (toNats hdr)
      (toNats (r.2.1.take (len - 272))) (beNat (toNats (r.2.1.drop (len - 272)))) = some opened)
    (hmemory : bitOf (imageNat hdr 6 2) 1 = flag r.1 aTopResourcesMem 15)
    (htrunks : op.mask = 0 ∨ popcount 8 op.mask = popcount 8 (imageNat hdr 25 1)) :
    imageChecked d false m h =
      let recs := restoreRecs r.1 op (hdr ++ toBytes opened)
      let wins := windowsOf r.1 (lay r.1.part (projected r.1) recs) d
      if bitOf (imageNat hdr 6 2) 0 = true ∧ (imageSection (hdr ++ toBytes opened) 5).length ≠ wins.foldl (fun n x => n + x.2) 0 then
        raise (restoreFail r.1 op .invalid 0x0621) 0x0C 4 d 0
      else
        let g := { r.1 with dck := { r.1.dck with image := tput r.1.dck.image d (hdr ++ toBytes opened) } }
        submit g (.internal (.restore d)) (idPort g op.cmd) recs (some op.cmd) [] [] := by
  obtain ⟨hop, hheld, hfresh, hthere, hheader, hheaderRead, hhdr, hlen, hlayout, hrange, hkey, hbody, hbodyRead⟩ := img
  have hmask : ¬ (op.mask ≠ 0 ∧ popcount 8 op.mask ≠ popcount 8 (imageNat hdr 25 1)) := by tauto
  simp only [imageChecked, hop, hheld, hfresh, rackOp_ready hthere, ← hheader, hheaderRead, ← hhdr, ← hlen, hlayout, hrange, hkey, ← hbody,
    hbodyRead, hopen, hmemory, if_neg hmask, Option.isSome_none, Bool.not_true, Bool.or_self, Bool.false_eq_true, or_self, ne_eq, not_true,
    if_false]

end

/-! ### The obligation on racking -/

/-- Settles O27: under the hypotheses of its clause an instruction passes its own checks, and the lemmas above say what the other
commands come down to. -/
theorem rackingCommands : Obligations.RackingCommands := by
  unfold Obligations.RackingCommands
  refine fun s => ⟨?freeze, ?grace, ?save, ?saved, ?restore, ?checked, ?thaw⟩
  case freeze =>
    rintro th c w d at_ hoperand rfl hdock hstate hmoves hfence hwaits hfree
    have hform : ¬ (w.operand ≠ 0 ∨ s.hub.part.res.docks ≤ w.target) := by omega
    refine act_onLong at_ ((if_neg hform).trans ((if_neg (not_not.mpr hstate)).trans ?_))
    simp only [if_neg (rackFreeze_settled hmoves hfence hwaits), hfree]
  case grace =>
    exact fun d e id r hrun hfrom hstate hover hr hcmd => act_effect hrun (graceEnd_freezes hfrom hstate hover hr hcmd)
  case save =>
    rintro th c w op at_ hoperand hdock rfl hrange hbus hstate hkey hroom hfree
    refine (actMem_onHub_runs at_.1.1 _).trans (next_ext ((onLong_at at_ _).trans ?_))
    refine (if_neg (rackSave_operandsOk hoperand hdock hrange)).trans ?_
    simp only [hbus, hstate, hkey, if_neg (Nat.not_le.mpr hroom), hfree, ne_eq, not_true, Bool.not_true, Bool.false_eq_true, if_false]
  case saved =>
    intro d op wins g image r hrun hop hheld hsettled hhold hthere hkey hwins hg hgood himage hrange hr
    exact actMem_effect hrun (saveComplete_writes hop hheld hsettled hhold hthere hkey hwins hg hgood himage hrange hr)
  case restore =>
    rintro th c w d at_ hoperand rfl hdock hrange hbus hstate hkey hroom hfree
    have hidle : ¬ (dockState s.hub w.target ≠ 0 ∧ dockState s.hub w.target ≠ 3) := by omega
    refine act_onLong at_ ((if_neg (rackRestore_operandsOk hoperand hdock hrange)).trans ?_)
    simp only [hbus, if_neg hidle, hkey, if_neg (Nat.not_le.mpr hroom), hfree, Bool.not_true, Bool.false_eq_true, if_false]
  case checked =>
    intro d op r0 r hdr len hrun hop hheld hfresh hthere hheader hheaderRead hhdr hlen hlayout hrange hkey hbody hbodyRead hmemory htrunks
    have img : ImageRead s.mem s.hub d.val op r0 r hdr len :=
      ⟨hop, hheld, hfresh, hthere, hheader, hheaderRead, hhdr, hlen, hlayout, hrange, hkey, hbody, hbodyRead⟩
    refine (actMem_onHub_runs hrun _).trans (next_ext ?_)
    split
    case h_1 hshut => exact imageChecked_wrongTag img hshut
    case h_2 opened hopen => exact imageChecked_opened img hopen hmemory htrunks
  case thaw =>
    intro th c w at_ hoperand hdock hstate hsaves hfree
    have hform : ¬ (w.operand ≠ 0 ∨ s.hub.part.res.docks ≤ w.target) := by omega
    have hfrozen : ¬ (dockState s.hub w.target ≠ 3 ∨ rackRuns s.hub w.target true = true) := by simp [hstate, hsaves]
    refine act_onLong at_ ((if_neg hform).trans ((if_neg hfrozen).trans ?_))
    simp only [hfree]

end Sys2Proof.Machine
end

section
/-!
PROOFS. USB (R353-R372, R242): what each meaning of the packets, the connections, the device function and the wakes comes down to once its
guard is met, and the obligation UsbCommands assembled from that.
-/
namespace Sys2Proof.Machine

/-! ### A packet of a device, and a block that frees (R361, R362) -/

/-- A device's packet that waits behind those held of its dock (R362). -/
def holdUp (h : Hub) (u d : Nat) (p : UsbPacket) : Hub :=
  { holdCount h d with usb := { (holdCount h d).usb with heldUp := tmod [] h.usb.heldUp d (fun l => l ++ [(u, p)]) } }

/-- What lets the complex take a SuperSpeed packet of port Un: a link, an end to go out by, and open gates, or a reservation of the
packet's own where they are closed. -/
structure TakesPacket (h : Hub) (u d v : Nat) (p : UsbPacket) : Prop where
  assigned : usbAssign h u = some (d, v)
  link : usbLink h u ≠ 0
  superSpeed : usbNoSs h u = false
  portEnd : (portEndOf h 20 d).isSome = true
  gates : gatesClosed h d = true → ssType p = 8 ∧ h.usb.blocks.any (fun k => decide (k.key = epKey p true) && k.unused) = true

section
variable {h : Hub} {u d v : Nat} {p : UsbPacket} (takes : TakesPacket h u d v p)
include takes

theorem usbDevicePacket_taken :
    usbDevicePacket u p h =
      if tget [] h.usb.heldUp d ≠ [] ∧ (!ssIso p) = true then holdUp h u d p else (ssUp h u d p).getD (holdUp h u d p) := by
  obtain ⟨hassign, hlink, hss, hend, hgates⟩ := takes
  have hreaches : ¬ (usbLink h u = 0 ∨ usbNoSs h u = true ∨ (portEndOf h 20 d).isNone = true) := by
    simp [hlink, hss, Option.isSome_iff_ne_none.mp hend]
  have hopen : ¬ (gatesClosed h d = true ∧
      (!decide (ssType p = 8 ∧ h.usb.blocks.any (fun k => decide (k.key = epKey p true) && k.unused) = true)) = true) := by
    rintro ⟨hclosed, hforeign⟩
    rw [decide_eq_true (hgates hclosed)] at hforeign
    exact absurd hforeign (by decide)
  simp only [usbDevicePacket, hassign, if_neg hreaches, if_neg hopen, holdUp]
  cases ssUp h u d p with
  | none => rfl
  | some g => rfl

theorem usbDevicePacket_goesOn {g : Hub} (hahead : tget [] h.usb.heldUp d = [] ∨ ssIso p = true) (hup : ssUp h u d p = some g) :
    usbDevicePacket u p h = g := by
  have hfirst : ¬ (tget [] h.usb.heldUp d ≠ [] ∧ (!ssIso p) = true) := by
    rcases hahead with hnone | hiso
    · simp [hnone]
    · simp [hiso]
  rw [usbDevicePacket_taken takes, if_neg hfirst, hup, Option.getD_some]

theorem usbDevicePacket_held (hheld : tget [] h.usb.heldUp d ≠ [] ∧ ssIso p = false ∨
      (tget [] h.usb.heldUp d = [] ∨ ssIso p = true) ∧ ssUp h u d p = none) :
    usbDevicePacket u p h = holdUp h u d p := by
  rw [usbDevicePacket_taken takes]
  rcases hheld with ⟨hbehind, hiso⟩ | ⟨-, hblock⟩
  · exact if_pos ⟨hbehind, by rw [hiso]; rfl⟩
  · rw [hblock, Option.getD_none, ite_self]

end

section
variable {h g : Hub} {d : Nat} (hfree : usbFree h d ≠ 0)
include hfree

theorem blockFree_down {p : Pkt} {ps : List Pkt} (hdown : tget [] h.usb.heldDown d = p :: ps)
    (hunit : usbUnit { h with usb := { h.usb with heldDown := tset [] h.usb.heldDown d ps } } d p.hdr.kind.toNat p.hdr.tag.toNat
      p.payload = some g) : blockFree d h = g := by
  simp only [blockFree, if_neg hfree, hdown, hunit]

theorem blockFree_up {u : Nat} {p : UsbPacket} {ps : List (Nat × UsbPacket)} (hdown : tget [] h.usb.heldDown d = [])
    (hup : tget [] h.usb.heldUp d = (u, p) :: ps)
    (hgoes : ssUp { h with usb := { h.usb with heldUp := tset [] h.usb.heldUp d ps } } u d p = some g) : blockFree d h = g := by
  simp only [blockFree, if_neg hfree, hdown, hup, hgoes]

end

/-! ### Connection, disconnection and reassignment (R242, R353, R356) -/

section
variable {h f g : Hub} {u : Nat}

/-- A device that may connect: its port is of the part, is free of over-current and has no device, and takes the speed. -/
structure MayConnect (h : Hub) (u speed : Nat) : Prop where
  present : usbPresent h.part.res u = true
  low : 1 ≤ speed
  high : speed ≤ 5
  superSpeed : 4 ≤ speed → usbNoSs h u = false
  empty : usbSpeed h u = 0
  current : flag h (aUsbPortStatus u) 7 = false

theorem MayConnect.accepted {speed : Nat} (may : MayConnect h u speed) :
    ¬ ((!usbPresent h.part.res u) = true ∨ speed = 0 ∨ 5 < speed ∨ (4 ≤ speed ∧ usbNoSs h u = true) ∨ usbSpeed h u ≠ 0 ∨
      flag h (aUsbPortStatus u) 7 = true) := by
  obtain ⟨hpresent, hlow, hhigh, hss, hempty, hcurrent⟩ := may
  have hfast : ¬ (4 ≤ speed ∧ usbNoSs h u = true) := fun hfast => absurd (hss hfast.1) (by simp [hfast.2])
  simp only [hpresent, hempty, hcurrent, hfast, Bool.not_true, Bool.false_eq_true, ne_eq, not_true, false_or, or_false]
  omega

/-- A connection sets the speed, brings up the link outside a reassignment, and is reported to the port's dock. -/
theorem usbConnect_effect {speed : Nat} (may : MayConnect h u speed)
    (hg : g = (let x := setFld h (aUsbPortStatus u) 0 3 speed; if (tfind x.usb.resetFrom u).isSome then x else usbLinkTo x u 1)) :
    usbConnect u speed h =
      ((usbAssign g u).map fun dv => if (tfind g.usb.resetFrom u).isSome then g else vpChange g dv.1 dv.2 0).getD g := by
  simp only [usbConnect, if_neg may.accepted, ← hg]
  rcases usbAssign g u with _ | ⟨d, v⟩
  · rfl
  · rfl

theorem usbDisconnect_effect (hdevice : usbSpeed h u ≠ 0) (hg : g = usbLinkTo (setFld h (aUsbPortStatus u) 0 3 0) u 0) :
    usbDisconnect u h = ((usbAssign g u).map fun dv => vpChange (usbPortClear g u dv.1 dv.2 5) dv.1 dv.2 0).getD g := by
  simp only [usbDisconnect, if_neg hdevice, ← hg]
  rcases usbAssign g u with _ | ⟨d, v⟩
  · rfl
  · rw [Option.map_some, Option.getD_some]

theorem reassignEnd_effect {e : Nat} (hfrom : tfind h.usb.resetFrom u = some e) (hover : 8 * fld h aUsbCfg 0 8 ≤ edgesSince h e)
    (hf : f = { h with usb := { h.usb with resetFrom := tdel h.usb.resetFrom u } })
    (hg : g = usbLinkTo f u (if usbSpeed f u = 0 then 0 else 1)) :
    reassignEnd u h = ((usbAssign g u).map fun dv => if usbSpeed g u = 0 then g else vpChange g dv.1 dv.2 0).getD g := by
  simp only [reassignEnd, hfrom, if_neg (Nat.not_lt.mpr hover), ← hf, ← hg]
  rcases usbAssign g u with _ | ⟨d, v⟩
  · rfl
  · rfl

end

/-! ### The device function and wakes (R370-R372) -/

theorem functionReset_effect {h : Hub} {d : Nat} (hpresent : dfPresent h d = true) :
    functionReset d h = setCtl (if (ctlAt h d 2).setup = [] then h else count h aUsbCntCtlAbort 1) d 2 Ctl.idle := by
  simp only [functionReset, hpresent, Bool.not_true, Bool.false_eq_true, if_false, dfReset]

section
variable {h f e g : Hub} {d v : Nat} {w : Wake}

theorem remoteWake_effect (harmed : wakeArmed h d v = true) (hnone : tfind h.usb.wakes (d * 16 + v) = none)
    (hf : f = { h with usb := { h.usb with wakes := tput h.usb.wakes (d * 16 + v) ⟨h.tim.coreClk, false⟩ } })
    (he : e = wr (wr f (aUsbVhWake d) (W (2 ^ 31 + 2 ^ 28 + v))) (aUsbVhWakeTick d) (W (tickNo f)))
    (hg : g = if (vport e d 1 v).suspended then portLink e d 1 v 1 else e) :
    remoteWake d v h = ((usbPhys g d v).map fun u => send g (.usbResume u)).getD g := by
  simp only [remoteWake, harmed, hnone, Option.isSome_none, Bool.not_true, Bool.false_eq_true, or_self, if_false, ← hf, ← he, ← hg]
  cases usbPhys g d v with
  | none => rfl
  | some u => rfl

theorem wakeReport_effect (hwake : tfind h.usb.wakes (d * 16 + v) = some w) (hover : w.start + 1600000 ≤ h.tim.coreClk)
    (hg : g = { h with usb := { h.usb with wakes := tdel h.usb.wakes (d * 16 + v) } }) :
    wakeReport d v h = if v = 15 then
        let h := setCtl g d 2 { ctlAt g d 2 with suspended := false }
        usbUp h d 0 0 0 0 (leBytes 12 (4 + 15 * 32 + (ctlAt h d 2).addr * 2 ^ 25 + (6 + 16) * 2 ^ 32))
      else
        let h := if (vport g d 0 v).suspended then portLink (setVport g d 0 v { vport g d 0 v with
          suspended := false, change := (vport g d 0 v).change ||| 4 }) d 0 v 1 else g
        if (vport h d 1 v).suspended then portLink (setVport h d 1 v { vport h d 1 v with
          suspended := false, change := (vport h d 1 v).change ||| 64 }) d 1 v 1 else h := by
  simp only [wakeReport, hwake, if_neg (Nat.not_lt.mpr hover), ← hg]

/-- What a host's resume does to the virtual port itself: neither half, nor the device function, is suspended any more. -/
def wakenPort (d v : Nat) (h : Hub) : Hub :=
  if v = 15 then setCtl h d 2 { ctlAt h d 2 with suspended := false }
  else [0, 1].foldl (fun h k => portLink (setVport h d k v { vport h d k v with suspended := false }) d k v 1) h

/-- After a wake that was reported, or whose millisecond is over, the port only wakes. -/
theorem hostResume_reported (hwake : tfind h.usb.wakes (d * 16 + v) = some w)
    (hover : w.done = true ∨ w.start + 1600000 < h.tim.coreClk) : hostResume d v h = wakenPort d v h := by
  simp only [hostResume, hwake, if_pos hover, wakenPort]

/-- Within the millisecond the host's resume collides with the device's wake, which is counted and raised. -/
theorem hostResume_collides (hwake : tfind h.usb.wakes (d * 16 + v) = some w) (hdone : w.done = false)
    (hwithin : h.tim.coreClk ≤ w.start + 1600000) :
    hostResume d v h =
      let h := { h with usb := { h.usb with wakes := tdel h.usb.wakes (d * 16 + v) } }
      raise (wakenPort d v (count (setFlag (setFlag h (aUsbVhWake d) 30 true) (aUsbVhWake d) 29 true) aUsbCntCollided 1)) 0x0B 3 0 0 := by
  have hpending : ¬ (w.done = true ∨ w.start + 1600000 < h.tim.coreClk) := by
    rintro (hreported | hlate)
    · exact absurd (hdone.symm.trans hreported) (by decide)
    · omega
  simp only [hostResume, hwake, if_neg hpending, wakenPort]

theorem hostResume_noWake (hwake : tfind h.usb.wakes (d * 16 + v) = none) :
    hostResume d v h = ((usbPhys h d v).map fun u =>
      if (vport h d 0 v).suspended || (vport h d 1 v).suspended then send (wakenPort d v h) (.usbResume u) else wakenPort d v h).getD
        (wakenPort d v h) := by
  simp only [hostResume, hwake]
  cases usbPhys h d v with
  | none => rfl
  | some u => rfl

end

/-! ### The obligation on USB -/

/-- Settles O36: under the hypotheses of its clause each command passes its guard, and its meaning comes down to the effect stated. -/
theorem usbCommands : Obligations.UsbCommands := by
  unfold Obligations.UsbCommands
  refine fun s hrun => ⟨?packet, ?free, ?expiry, ?connect, ?disconnect, ?reassign, ?reads, ?reset, ?wake, ?report, ?resume⟩
  case packet =>
    intro u p d v hassign hlink hss hend hgates
    have takes : TakesPacket s.hub u.val d v p := ⟨hassign, hlink, hss, hend, hgates⟩
    exact ⟨fun hahead g hup => act_effect hrun (usbDevicePacket_goesOn takes hahead hup),
      fun hheld => act_effect hrun (usbDevicePacket_held takes hheld)⟩
  case free =>
    exact fun d hfree => ⟨fun p ps g hdown hunit => act_effect hrun (blockFree_down hfree hdown hunit),
      fun u p ps g hdown hup hgoes => act_effect hrun (blockFree_up hfree hdown hup hgoes)⟩
  case expiry => exact fun d => act_runs hrun _
  case connect =>
    intro u speed g hpresent hlow hhigh hss hempty hcurrent hg
    have heffect := usbConnect_effect ⟨hpresent, hlow, hhigh, hss, hempty, hcurrent⟩ hg
    exact ⟨fun hfree => act_effect hrun (heffect.trans (by rw [hfree, Option.map_none, Option.getD_none])),
      fun d v hassign => act_effect hrun (heffect.trans (by rw [hassign, Option.map_some, Option.getD_some]))⟩
  case disconnect =>
    intro u g hdevice hg
    have heffect := usbDisconnect_effect hdevice hg
    exact ⟨fun hfree => act_effect hrun (heffect.trans (by rw [hfree, Option.map_none, Option.getD_none])),
      fun d v hassign => act_effect hrun (heffect.trans (by rw [hassign, Option.map_some, Option.getD_some]))⟩
  case reassign =>
    intro u e f g hfrom hover hf hg
    have heffect := reassignEnd_effect hfrom hover hf hg
    refine ⟨fun d v hassign hspeed => act_effect hrun (heffect.trans ?_), fun hquiet => act_effect hrun (heffect.trans ?_)⟩
    · rw [hassign, Option.map_some, Option.getD_some, if_neg hspeed]
    · rcases hquiet with hfree | hempty
      · rw [hfree, Option.map_none, Option.getD_none]
      · simp only [hempty, if_true]
        cases usbAssign g u.val with
        | none => rfl
        | some dv => rfl
  case reads =>
    exact fun d tc => ⟨fun hthere => act_effect hrun (if_pos hthere), fun hthere => ⟨act_effect hrun (if_pos hthere),
      act_effect hrun (if_pos hthere), fun k v => act_effect hrun (if_pos hthere)⟩⟩
  case reset => exact fun d hpresent => act_effect hrun (functionReset_effect hpresent)
  case wake =>
    intro d v f e g harmed hnone hf he hg
    have heffect := remoteWake_effect harmed hnone hf he hg
    exact ⟨fun hinside => act_effect hrun (heffect.trans (by rw [hinside, Option.map_none, Option.getD_none])),
      fun u hport => act_effect hrun (heffect.trans (by rw [hport, Option.map_some, Option.getD_some]))⟩
  case report =>
    intro d v w g hwake hover hg
    have heffect := wakeReport_effect hwake hover hg
    exact ⟨fun hfunction => act_effect hrun (heffect.trans (if_pos hfunction)),
      fun hport => act_effect hrun (heffect.trans (if_neg hport))⟩
  case resume =>
    rintro d v all rfl
    refine ⟨fun w hwake hover => act_effect hrun (hostResume_reported hwake hover),
      fun w hwake hdone hwithin => act_effect hrun (hostResume_collides hwake hdone hwithin),
      fun hwake => act_effect hrun ((hostResume_noWake hwake).trans ?_)⟩
    cases usbPhys s.hub d.val v.val with
    | none => rfl
    | some u => rfl

end Sys2Proof.Machine
end
